-- ==== Sys2Proof/Word.lean ====
section
/-! DEFINITION. The words the manual treats as bits: bytes of frames, records and images, and readings of
the two counters of 00_scope.md section 0.5.1 and R9. -/

namespace Sys2Proof

/-- One byte of a frame, a record, an image or a block. -/
abbrev Byte := BitVec 8

/-- A reading of the running-time counter in ms: 32 bits, wrapping (00_scope.md section 0.5.1). -/
abbrev Time := BitVec 32

/-- A reading of the tooth-pulse timestamp counter in µs: 32 bits, wrapping (R9). -/
abbrev Stamp := BitVec 32

end Sys2Proof
end

