-- ==== Sys2Proof/Config.lean ====
section
/-! DEFINITION. The configuration parameters (R1 to R175, the layout of section 12.5), the code sets that the
configuration uses, and the three free values the manual leaves to the part. -/

namespace Sys2Proof

/-- The five kinds of recording channel (R135, code set of R188). -/
inductive ChannelKind where
  | pressureTrace | speedTrace | blendTrace | eventLog | peerMirror
deriving DecidableEq, Repr

/-- Importance of a trigger cause (R147). -/
inductive Importance where
  | high | low
deriving DecidableEq, Repr

/-- The thirteen trigger causes (section 9.2). -/
inductive Cause where
  | emergencyLocal | emergencyPeer | ventTimeout | addressClash | slideEntry | peerLost | peerMark
  | unserved | converterLost | lineIsolated | frictionFault | sensorFault | manual
deriving DecidableEq, Repr

/-- One line of the trigger table (R147); the post time is in ms. -/
structure TriggerLine where
  enable     : Bool
  importance : Importance
  post       : Nat
deriving DecidableEq, Repr

/-- The configured part of one recording channel (R131). Bit a of the mirror set stands for address a = 1..30,
bit 31 for the station's own transmissions. -/
structure ChannelCfg where
  enable : Bool
  kind   : ChannelKind
  alloc  : Nat
  mirror : BitVec 32
deriving DecidableEq, Repr

/-- Where the configuration in force came from (R174, R175). -/
inductive ConfigSource where
  | loaded | defaultStrap | readFailed | badCrc | badVersion | badReserved | badRange
deriving DecidableEq, Repr, Inhabited

/-- Every parameter of the configuration image (section 11.2), in the units of the section that uses it. -/
structure Configuration where
  pscan     : Nat
  indEn     : Bool
  mrEn      : Bool
  z         : Nat
  dw        : Nat
  bpRef     : Nat
  rmin      : Nat
  rfull     : Nat
  dfull     : Nat
  bpEmerg   : Nat
  remerg    : Nat
  decelMax  : Nat
  accelMax  : Nat
  q1        : Nat
  q2        : Nat
  dv1       : Nat
  tRec      : Nat
  tVent     : Nat
  amin      : Nat
  recStep   : Nat
  abase     : Nat
  lineEn    : Bool
  group     : Nat
  roster    : List Nat
  emax      : Nat
  etol      : Nat
  reUp      : Nat
  reDn      : Nat
  rfUp      : Nat
  rfDn      : Nat
  rfFill    : Nat
  pth       : Nat
  kf        : Nat
  pmax      : Nat
  pemg      : Nat
  uthr      : Nat
  channels  : List ChannelCfg
  triggers  : List TriggerLine
  gate      : Nat
  sendMarks : Bool
deriving DecidableEq, Repr

/-- How many bytes one body or image program operation carries. R166 and R172 say only that there is a series of
operations in increasing address order: DESIGN CHOICE, a free value (log entry 21). -/
opaque Config.programBytes : Nat

/-- The source that BAD_IMAGE carries for an assembly shorter than the image: R185 asks for the source of
the failed check and a short assembly has failed none: DESIGN CHOICE, a free value (log entry 27). -/
opaque Config.shortImageSource : ConfigSource

end Sys2Proof
end

