-- ==== Sys2Proof/Syntax.lean ====
section
/-! DEFINITION. The commands: one constructor per row of spec/opcode_table.json, each with the data that comes
with the event. Every command carries `dt`, the time in µs since the command before it (log entry 1). -/

namespace Sys2Proof

/-- The three axles of the truck. -/
inductive AxleId where
  | one | two | three
deriving DecidableEq, Repr

/-- The four pressure channels, in the order of section 12.6 (BP 0, BC 1, IND 2, MR 3). -/
inductive PressId where
  | bp | bc | ind | mr
deriving DecidableEq, Repr

/-- What the attached converter delivers for one channel (R1): a 12-bit code or a conversion error. -/
inductive Conversion where
  | code (c : BitVec 12)
  | error
deriving DecidableEq, Repr

/-- The two transmit classes of the Line Unit (R71). -/
inductive TxClass where
  | urgent | routine
deriving DecidableEq, Repr

/-- What the flash reports at the end of an erase or a program. On a failure `left` is what the flash then holds
where it was to be changed (log entry 22). -/
inductive FlashResult where
  | ok
  | failed (left : List Byte)
deriving DecidableEq, Repr

/-- A byte on the service link (R176): how many µs after the byte before it, or after the command before it, it ends,
and whether it came with a framing error. -/
structure LinkByte where
  wait    : Nat
  value   : Byte
  framing : Bool
deriving DecidableEq, Repr

/-- A stretch of the service link (R176): the µs since the command before it, at whose end it stands, and the bytes that
ended in it. -/
structure LinkSpan where
  dt    : Nat
  bytes : List LinkByte
deriving DecidableEq, Repr

/-- The straps sampled by the reset sequence (R174). -/
structure Straps where
  address : BitVec 5
  cfgdef  : Bool
deriving DecidableEq, Repr

/-- The commands. A constructor's docstring names the rule of its row. -/
inductive Instr where
  /-- R174: the reset pin or power-on. `left` is what a flash operation cut off by it leaves behind. -/
  | reset (dt : Nat) (straps : Straps) (left : List Byte)
  /-- R175: the read of slot 0 ends. -/
  | configImageReadCompletion (dt : Nat) (ok : Bool)
  /-- R1: the scan timer expires. -/
  | scanCompletion (dt : Nat)
  /-- R9: a tooth pulse. -/
  | toothPulse (dt : Nat) (axle : AxleId)
  /-- R10: the speed window timer expires; the three flags are what the open/short monitors then report. -/
  | speedWindowExpiry (dt : Nat) (fault1 fault2 fault3 : Bool)
  /-- R111: the control cycle timer expires. -/
  | controlCycle (dt : Nat)
  /-- R28: the notice repeat timer expires. -/
  | noticeRepeatExpiry (dt : Nat)
  /-- R31: the emergency exit timer expires. -/
  | exitTimerExpiry (dt : Nat)
  /-- R113: a status frame completes on the converter link. -/
  | statusReplyArrival (dt : Nat) (frame : List Byte)
  /-- R61: line activity ends: its whole bytes and the number of bits after the last of them. -/
  | receiveCompletion (dt : Nat) (frame : List Byte) (extraBits : Nat)
  /-- R67: the listen timer expires. -/
  | listenTimerExpiry (dt : Nat)
  /-- R78: the statement timer expires. -/
  | statementTimerExpiry (dt : Nat)
  /-- R78: a statement held due is queued. -/
  | dueStatementQueued (dt : Nat)
  /-- R69: the isolation hold timer expires. -/
  | holdTimerExpiry (dt : Nat)
  /-- R71: an attempt starts. -/
  | attemptStart (dt : Nat)
  /-- R72: a collision in the collision window. -/
  | collision (dt : Nat)
  /-- R73: the jam ends. -/
  | jamEnd (dt : Nat)
  /-- R72: the back-off wait of the head of a class ends. -/
  | backoffWaitEnd (dt : Nat) (cls : TxClass)
  /-- R74: a collision at bit time 64 or later. -/
  | lateCollision (dt : Nat)
  /-- R74: an attempt read back clean to its check word. -/
  | frameSent (dt : Nat)
  /-- R90: the ageing timer expires. -/
  | ageingTimerExpiry (dt : Nat)
  /-- R156: the capture window timer expires. -/
  | windowTimerExpiry (dt : Nat)
  /-- R157: the power-fail warning becomes standing. -/
  | powerFailWarningStanding (dt : Nat)
  /-- R169: the power-fail warning ceases. -/
  | powerFailWarningCeases (dt : Nat)
  /-- R164: the read of one slot of the scan at reset ends. -/
  | scanReadCompletion (dt : Nat) (ok : Bool)
  /-- R170: the arbiter issues a waiting operation. -/
  | flashInterfaceGrant (dt : Nat)
  /-- R166, R168: a target or cleanup erase ends. -/
  | slotEraseCompletion (dt : Nat) (result : FlashResult)
  /-- R166: a body program ends. -/
  | bodyProgramCompletion (dt : Nat) (result : FlashResult)
  /-- R167: the header program ends. -/
  | headerProgramCompletion (dt : Nat) (result : FlashResult)
  /-- R171: one erase of ERASING_ALL ends. -/
  | eraseAllCompletion (dt : Nat) (result : FlashResult)
  /-- R172: the erase of slot 0 ends. -/
  | configEraseCompletion (dt : Nat) (result : FlashResult)
  /-- R172: an image program ends. -/
  | configProgramCompletion (dt : Nat) (result : FlashResult)
  /-- R181: the flash read of READ_INCIDENT ends. -/
  | incidentReadCompletion (dt : Nat) (ok : Bool)
  /-- R176: bytes of the service link, received since the command before, discards and complete requests among them. -/
  | serviceFrameError (dt : Nat) (bytes : List LinkByte)
  /-- R176: bytes of the service link, received since the command before, and then the end of the 50 ms. -/
  | requestTimeout (span : LinkSpan)
  /-- R177: a good request with an unknown command code. -/
  | unknownCommand (dt : Nat) (code : Byte) (payload : List Byte)
  /-- R178. The service commands carry their request payload as received. -/
  | readStatus (dt : Nat) (payload : List Byte)
  /-- R179. -/
  | readPeers (dt : Nat) (payload : List Byte)
  /-- R179. -/
  | readPeer (dt : Nat) (payload : List Byte)
  /-- R180. -/
  | listIncidents (dt : Nat) (payload : List Byte)
  /-- R181. -/
  | readIncident (dt : Nat) (payload : List Byte)
  /-- R182. -/
  | readCounters (dt : Nat) (payload : List Byte)
  /-- R182. -/
  | clearCounters (dt : Nat) (payload : List Byte)
  /-- R183. -/
  | trigger (dt : Nat) (payload : List Byte)
  /-- R143. -/
  | clearChannel (dt : Nat) (payload : List Byte)
  /-- R184. -/
  | eraseIncidents (dt : Nat) (payload : List Byte)
  /-- R185. -/
  | writeConfig (dt : Nat) (payload : List Byte)
  /-- R186. -/
  | restart (dt : Nat) (payload : List Byte)
  /-- R186: the last byte of the RESTART response has been sent; the reset sequence samples the straps. -/
  | restartResponseSent (dt : Nat) (straps : Straps) (left : List Byte)
  /-- R1: a conversion of one pressure channel ends. -/
  | pressureConversionCompletion (dt : Nat) (channel : PressId) (result : Conversion)
  /-- R16: an edge of the handle input to the level `high`. -/
  | handleInputEdge (dt : Nat) (high : Bool)
  /-- R177: the last byte of the response at the head of the queue has been sent. -/
  | serviceResponseSent (dt : Nat)
deriving DecidableEq, Repr

end Sys2Proof
end

