-- ==== Sys2Proof/Machine/Bytes.lean ====
section
/-! DEFINITION. Byte order, the two check words of R188, and the small list and arithmetic helpers that the units
share. Every field of two or four bytes is most significant byte first (section 12). -/

namespace Sys2Proof.Machine

/-- A number as `n` bytes, most significant first (its value modulo 2^(8n)). -/
def beBytes : Nat → Nat → List Byte
  | 0, _ => []
  | n + 1, v => BitVec.ofNat 8 (v / 256 ^ n) :: beBytes n v

/-- A one-byte field. -/
def be8 (v : Nat) : List Byte := beBytes 1 v
/-- A two-byte field. -/
def be16 (v : Nat) : List Byte := beBytes 2 v
/-- A four-byte field. -/
def be32 (v : Nat) : List Byte := beBytes 4 v
/-- A signed two-byte field, in two's complement (section 12). -/
def beInt16 (z : Int) : List Byte := be16 (BitVec.ofInt 16 z).toNat
/-- A flag or indication sent as a whole byte. -/
def beBool (b : Bool) : Byte := if b then 1 else 0

/-- The byte at an offset; 0 beyond the end. -/
def byteAt (bs : List Byte) (i : Nat) : Nat := (bs.getD i 0).toNat
/-- The two-byte field at an offset. -/
def be16At (bs : List Byte) (i : Nat) : Nat := byteAt bs i * 256 + byteAt bs (i + 1)
/-- The four-byte field at an offset. -/
def be32At (bs : List Byte) (i : Nat) : Nat := be16At bs i * 65536 + be16At bs (i + 2)

/-- One shift of the CRC-16 register (R188). -/
def crc16Shift (r : BitVec 16) : BitVec 16 :=
  if r.msb then (r <<< 1) ^^^ 0x8005#16 else r <<< 1

/-- `n` shifts. -/
def crc16Shifts : Nat → BitVec 16 → BitVec 16
  | 0, r => r
  | n + 1, r => crc16Shifts n (crc16Shift r)

/-- The CRC-16 register after bytes taken in order (R188). -/
def crc16From (r : BitVec 16) : List Byte → BitVec 16
  | [] => r
  | b :: bs => crc16From (crc16Shifts 8 (r ^^^ (b.zeroExtend 16 <<< 8))) bs

/-- The CRC-16 of R188: register start FFFF, no final inversion. -/
def crc16 (bs : List Byte) : BitVec 16 := crc16From 0xFFFF#16 bs

/-- One shift of the CRC-32 register (R188). -/
def crc32Shift (r : BitVec 32) : BitVec 32 :=
  if r.msb then (r <<< 1) ^^^ 0x04C11DB7#32 else r <<< 1

/-- `n` shifts. -/
def crc32Shifts : Nat → BitVec 32 → BitVec 32
  | 0, r => r
  | n + 1, r => crc32Shifts n (crc32Shift r)

/-- The CRC-32 register after bytes taken in order (R188). -/
def crc32From (r : BitVec 32) : List Byte → BitVec 32
  | [] => r
  | b :: bs => crc32From (crc32Shifts 8 (r ^^^ (b.zeroExtend 32 <<< 24))) bs

/-- The CRC-32 of R188: register start FFFFFFFF, inverted after the last byte. -/
def crc32 (bs : List Byte) : BitVec 32 := ~~~ (crc32From 0xFFFFFFFF#32 bs)

/-- The bytes with their CRC-16 after them, upper byte first (R188). -/
def withCrc16 (bs : List Byte) : List Byte := bs ++ be16 (crc16 bs).toNat

/-- The time in ms from one reading of the running-time counter to another, modulo 2^32 (section 0.5.1). -/
def since (now t : Time) : Nat := (now - t).toNat

/-- Quotient rounded up (section 0.5.2); 0 for a divisor of 0. -/
def ceilDiv (a b : Nat) : Nat := (a + (b - 1)) / b

/-- A value clamped to a range (section 0.5.2). -/
def clamp (lo hi v : Nat) : Nat := max lo (min hi v)

/-- A number put into an ascending list. -/
def insertAsc (x : Nat) : List Nat → List Nat
  | [] => [x]
  | y :: ys => if x ≤ y then x :: y :: ys else y :: insertAsc x ys

/-- The numbers of a list, ascending. -/
def sortAsc : List Nat → List Nat
  | [] => []
  | x :: xs => insertAsc x (sortAsc xs)

/-- The lower median of a list: of an even number of values the smaller of the two middle ones (section 0.5.2);
absent for an empty list. -/
def lowerMedian (xs : List Nat) : Option Nat := (sortAsc xs)[(xs.length - 1) / 2]?

/-- The sum of a list. -/
def sumOf : List Nat → Nat
  | [] => 0
  | x :: xs => x + sumOf xs

end Sys2Proof.Machine
end

