-- ==== Sys2Proof/Machine/Memory.lean ====
section
/-! DEFINITION. Byte memory in one canonical form, used for the recorder's block pool (R130) and for the external
flash (R162). `d` is what an address that is not listed reads as. -/

namespace Sys2Proof.Machine

/-- Addresses strictly rising, no entry equal to what an unlisted address reads as. -/
abbrev Memory := List Host.Cell

/-- The byte at an address. -/
def Memory.read (d : Byte) : Memory → Nat → Byte
  | [], _ => d
  | (k, v) :: m, a => if k = a then v else Memory.read d m a

/-- One byte written; writing `d` takes the entry out. -/
def Memory.write (d : Byte) : Memory → Nat → Byte → Memory
  | [], a, b => if b = d then [] else [(a, b)]
  | (k, v) :: m, a, b =>
    if a < k then (if b = d then (k, v) :: m else (a, b) :: (k, v) :: m)
    else if a = k then (if b = d then m else (a, b) :: m)
    else (k, v) :: Memory.write d m a b

/-- Bytes written at rising addresses. -/
def Memory.writeBytes (d : Byte) (m : Memory) (a : Nat) : List Byte → Memory
  | [] => m
  | b :: bs => Memory.writeBytes d (Memory.write d m a b) (a + 1) bs

/-- `n` bytes read at rising addresses. -/
def Memory.readBytes (d : Byte) (m : Memory) (a n : Nat) : List Byte :=
  (List.range n).map fun i => Memory.read d m (a + i)

/-- Every byte of a region put back to what an unlisted address reads as (a flash erase). -/
def Memory.clear (m : Memory) (a n : Nat) : Memory :=
  m.filter fun c => !(decide (a ≤ c.1) && decide (c.1 < a + n))

/-- The canonical form. -/
def Memory.wf (d : Byte) : Memory → Bool
  | [] => true
  | (k, v) :: m => v != d && m.all (fun c => decide (k < c.1)) && Memory.wf d m

end Sys2Proof.Machine
end

