-- ==== Sys2Proof/Machine/Units.lean ====
section
/-! DEFINITION. The state of each unit as plain data, after the state tables that open sections 1 to 11. A timer is
the time in µs, on the exact clock of State, at which it expires; `none` is a stopped timer. -/

namespace Sys2Proof.Machine

/-! ### Shared shapes -/

/-- One value for each axle. -/
structure Tri (α : Type) where
  one   : α
  two   : α
  three : α
deriving DecidableEq, Repr

/-- One value for each pressure channel. -/
structure Quad (α : Type) where
  bp  : α
  bc  : α
  ind : α
  mr  : α
deriving DecidableEq, Repr

/-! ### Acquisition Unit (section 1) -/

/-- State of a pressure channel (R1, R3). -/
inductive PressState where
  | valid | held | failed | absent
deriving DecidableEq, Repr

/-- What the converter has delivered for a channel in the scan that is running (R1). -/
inductive Sampled where
  | none
  | code (c : BitVec 12)
  | error
deriving DecidableEq, Repr

/-- A line of the pressure channel table (R3). -/
structure PressChan where
  state      : PressState
  last       : Option Nat
  invalidRun : Nat
  validRun   : Nat
  sample     : Sampled
deriving DecidableEq, Repr

/-- One channel of a pressure set (R6): state, and value in kPa where it carries one. -/
structure PressItem where
  state : PressState
  value : Option Nat
deriving DecidableEq, Repr

/-- A pressure set (R6). -/
structure PressureSet where
  chans : Quad PressItem
  fall  : Int
  time  : Time
deriving DecidableEq, Repr

/-- A line of the axle speed table (R9, R14). -/
structure AxleSpeed where
  n         : Nat
  first     : Option Stamp
  last      : Option Stamp
  recent    : Option Stamp
  prevV     : Nat
  prevValid : Bool
  v         : Nat
  valid     : Bool
  faulted   : Bool
  dv        : Int
deriving DecidableEq, Repr

/-- The handle reading (R16, R17). `highSince` is the clock at the start of the high time not yet totalled. -/
structure Handle where
  highTime  : Nat
  highSince : Nat
  duty      : Nat
  h         : Nat
  fault     : Bool
deriving DecidableEq, Repr

/-- The Acquisition Unit. -/
structure Acquisition where
  chans     : Quad PressChan
  history   : List Nat
  fall      : Int
  latest    : Option PressureSet
  axles     : Tri AxleSpeed
  speedTime : Option Time
  pitch     : Nat
  handle    : Handle
  scanDue   : Nat
  windowDue : Nat
deriving DecidableEq, Repr

/-! ### Slide Protection Unit (section 3) -/

/-- State of an axle slide machine (section 3.5). -/
inductive AxleState where
  | normal | suspect | slide | recover | timeout | fault
deriving DecidableEq, Repr

/-- An axle slide machine with its slide episode and its two valves. -/
structure AxleMachine where
  state       : AxleState
  high        : Nat
  calm        : Nat
  recover     : Nat
  faultReturn : Option Time
  untrusted   : Option Time
  lastQ       : Nat
  episodeOpen : Bool
  vent        : Nat
  holdValve   : Bool
  ventValve   : Bool
deriving DecidableEq, Repr

/-- The Slide Protection Unit. -/
structure Slide where
  ddec          : Nat
  dacc          : Nat
  vref          : Nat
  firstPending  : Bool
  speedAssisted : Bool
  standstill    : Bool
  lowStart      : Option Time
  machines      : Tri AxleMachine
  a             : Nat
  al            : Nat
  lastSlide     : Option Time
  slideCut      : Bool
  slideFlag     : Bool
deriving DecidableEq, Repr

/-! ### Blending Unit (sections 2, 6, 7) -/

/-- The brake mode. -/
inductive Mode where
  | released | service | emergency
deriving DecidableEq, Repr

/-- The emergency exit timer (R30); RUNNING holds the time of its expiry. -/
inductive ExitTimer where
  | stopped
  | running (due : Nat)
  | expired
deriving DecidableEq, Repr

/-- Emergency detection cause (R26, code set of R188). -/
inductive Detection where
  | level | rate
deriving DecidableEq, Repr

/-- Contents of the emergency notice being repeated (R28). -/
structure NoticeContents where
  cause : Detection
  bp    : Nat
deriving DecidableEq, Repr

/-- The demand section (section 2). -/
structure Demand where
  mode        : Mode
  d           : Nat
  dBp         : Nat
  dH          : Nat
  lastOwn     : Nat
  assisted    : Bool
  exitTimer   : ExitTimer
  noticeLeft  : Nat
  repeatDue   : Option Nat
  notice      : Option NoticeContents
  cycleDue    : Nat
deriving DecidableEq, Repr

/-- Why the station computes alone (R97, R100). -/
inductive Alone where
  | none | line | joinHold | emergency
deriving DecidableEq, Repr

/-- The case of the sharing computation (R102). -/
inductive ShareCase where
  | none | a | b
deriving DecidableEq, Repr

/-- The sharing stage (section 6). -/
structure Sharing where
  ce       : Nat
  fx       : Nat
  al       : Nat
  members  : Nat
  alone    : Alone
  sd       : Nat
  se       : Nat
  sh       : Nat
  kind     : ShareCase
  fraction : Option Nat
  hk       : Nat
  et       : Nat
  ft       : Nat
  u        : Nat
deriving DecidableEq, Repr

/-- An effort request (R112). -/
structure Request where
  seq      : BitVec 8
  ecmd     : Nat
  slideCut : Bool
deriving DecidableEq, Repr

/-- The last valid converter status (R113). -/
structure ConverterStatus where
  eav   : Nat
  eact  : Nat
  ready : Bool
  fault : Bool
  asked : Nat
deriving DecidableEq, Repr

/-- Values as the most recent control cycle left them (R107, R151), where a later event changes the value that stands:
SD and U (R27), Eact (R113), Fcmd (R31). -/
structure CycleValues where
  sd   : Nat
  eact : Nat
  fcmd : Nat
  u    : Nat
deriving DecidableEq, Repr

/-- The output section (section 7). `converterOut` is the last frame sent on the converter link. -/
structure Outputs where
  ecmd          : Nat
  fcmd          : Nat
  ecmdStart     : Nat
  pmaxEff       : Nat
  bcSet         : Nat
  bcOut         : Nat
  settleRef     : Nat
  settleTime    : Time
  linkUp        : Bool
  validRun      : Nat
  missRun       : Nat
  nextSeq       : BitVec 8
  latest        : Option Request
  answered      : Bool
  status        : ConverterStatus
  fade          : Bool
  shortRun      : Nat
  goodRun       : Nat
  frictionFault : Bool
  devStart      : Option Time
  unservedStart : Option Time
  unservedRaised : Bool
  converterOut  : List Byte
  cycle         : CycleValues
deriving DecidableEq, Repr

/-! ### Line Unit (sections 4 and 5) -/

/-- The line state (section 4.3). -/
inductive LineState where
  | off | listening | active | isolated | clashed
deriving DecidableEq, Repr

/-- The four frame kinds (R60). -/
inductive FrameKind where
  | statement | slideNotice | emergencyNotice | incidentMark
deriving DecidableEq, Repr

/-- A frame in one of the transmit classes: its contents, its sequence number once assigned, its attempt count and
the end of its back-off wait. -/
structure TxFrame where
  kind    : FrameKind
  payload : List Byte
  seq     : Option (BitVec 8)
  k       : Nat
  wait    : Option Nat
deriving DecidableEq, Repr

/-- The transmitter (R59, R71): idle, sending the head of a class since a time, or driving a jam until a time; the
jam of an abandoned frame belongs to no class. -/
inductive Transmitter where
  | idle
  | sending (cls : TxClass) (start : Nat)
  | jamming (cls : Option TxClass) (until_ : Nat)
deriving DecidableEq, Repr

/-- The values of an effort statement (section 4.2.1), each as its field of the layout. -/
structure Statement where
  d     : Nat
  ce    : Nat
  fx    : Nat
  al    : Nat
  vref  : Nat
  ecmd  : Nat
  fcmd  : Nat
  u     : Nat
  mode  : Byte
  flags : Byte
deriving DecidableEq, Repr

/-- The Line Unit's state for the line (section 4). `lastQueuedAt` and `lastActivityEnd` are
times of the exact clock: of the last statement queued and of the end of the last activity seen on the line. `frameOut` is
the frame of the attempt started last, with its CRC-16 (R60, R188). -/
structure Line where
  state            : LineState
  activeSince      : Option Time
  queue            : List TxFrame
  slot             : Option TxFrame
  nextStatement    : Option TxFrame
  tx               : Transmitter
  lastActivityEnd  : Option Nat
  nextSeq          : BitVec 8
  backoff          : BitVec 16
  trouble          : Nat
  hold             : Nat
  holdDue          : Option Nat
  clashes          : Nat
  listenDue        : Option Nat
  statementDue     : Option Nat
  due              : Bool
  lastQueued       : Option Statement
  lastQueuedAt     : Option Nat
  queuedInActive   : Bool
  lastSentEnd      : Option Time
  frameOut         : List Byte
deriving DecidableEq, Repr

/-- State of a peer entry (section 5.1). -/
inductive PeerState where
  | absent | joining | live | unruly | silent
deriving DecidableEq, Repr

/-- The excess window of a peer entry (R86). -/
structure Excess where
  count : Nat
  start : Time
  last  : Time
deriving DecidableEq, Repr

/-- A peer entry (section 5.1). -/
structure PeerEntry where
  addr      : Nat
  fixed     : Bool
  state     : PeerState
  entered   : Time
  group     : Option Nat
  lastSeq   : Option (BitVec 8)
  last      : Option Statement
  lastTime  : Option Time
  firstTime : Option Time
  heard     : Option Time
  missed    : Nat
  excess    : Option Excess
deriving DecidableEq, Repr

/-- The peer table: the entries in ascending order of address, and the ageing timer (R81, R90). -/
structure PeerTable where
  entries   : List PeerEntry
  ageingDue : Nat
deriving DecidableEq, Repr

/-! ### Recorder (sections 8 and 9) -/

/-- A recording channel (section 8, R133). `used`, `fill` and `lastTime` concern the current block. -/
structure Channel where
  enable   : Bool
  kind     : ChannelKind
  alloc    : Nat
  mirror   : BitVec 32
  ring     : List Nat
  current  : Option Nat
  empty    : List Nat
  nextSeq  : BitVec 32
  openTime : Time
  openSeq  : BitVec 32
  used     : Nat
  fill     : Nat
  lastTime : Time
  sinceKey : Nat
  prev     : Option (List Nat × List Bool)
  lost     : Nat
deriving DecidableEq, Repr

/-- State of a channel (R134). -/
inductive ChannelState where
  | off | running | suspended
deriving DecidableEq, Repr

/-- A record offered to channels of one kind (R135): tag bits, the values that a delta record codes as differences,
the validity bits whose change forces a key, the bytes carried in full before and after those values. -/
structure TraceRecord where
  time  : Time
  tag   : Byte
  lead  : List Byte
  vals  : List Nat
  valid : List Bool
  body  : List Byte
deriving DecidableEq, Repr

/-- A peak: its value and the time it was reached (R144). -/
structure Peak where
  value : Int
  time  : Time
deriving DecidableEq, Repr

/-- The seven peaks in the order of R144. -/
structure Peaks where
  q1   : Option Peak
  q2   : Option Peak
  q3   : Option Peak
  bp   : Option Peak
  bc   : Option Peak
  u    : Option Peak
  diff : Option Peak
deriving DecidableEq, Repr

/-- The recorder's incident state (R146). -/
inductive RecorderState where
  | scanning | idle | capturing
deriving DecidableEq, Repr

/-- The origin of a PEER_MARK (R155). -/
structure Origin where
  addr   : Nat
  number : Nat
deriving DecidableEq, Repr

/-- A trigger handed to the Recorder (section 9.2), its detail coded as in a cause entry (section 12.6). -/
structure Trigger where
  cause  : Cause
  detail : List Byte
  origin : Option Origin
deriving DecidableEq, Repr

/-- An entry of an incident's cause list (R150, R154). -/
structure CauseEntry where
  cause  : Cause
  offset : Nat
  detail : List Byte
  origin : Option Origin
deriving DecidableEq, Repr

/-- The summary of an incident (R151). -/
structure Summary where
  mode       : Mode
  line       : LineState
  linkUp     : Bool
  assisted   : Bool
  standstill : Bool
  d          : Nat
  sd         : Nat
  ce         : Nat
  ecmd       : Nat
  eact       : Nat
  fcmd       : Nat
  u          : Nat
  bcOut      : Nat
  press      : Quad PressItem
  vref       : Nat
  a          : Nat
  al         : Nat
  axles      : Tri AxleState
  speeds     : Tri Nat
  peaks      : Peaks
deriving DecidableEq, Repr

/-- An entry of a peer snapshot (R94, R152). -/
structure SnapshotEntry where
  addr  : Nat
  state : PeerState
  group : Option Nat
  age   : Option Nat
  last  : Option Statement
deriving DecidableEq, Repr

/-- The incident in capture (R150). Open time and window end are in ms on the exact clock, not wrapped. -/
structure Incident where
  number     : Nat
  openMs     : Nat
  windowEnd  : Nat
  truncated  : Bool
  overflowed : Bool
  summary    : Summary
  causes     : List CauseEntry
  snapshot   : List SnapshotEntry
deriving DecidableEq, Repr

/-- The blocks of one channel taken into a closed incident (R142). -/
structure FrozenList where
  channel : Nat
  kind    : ChannelKind
  blocks  : List Nat
deriving DecidableEq, Repr

/-- A closed incident in the pending queue (R159). -/
structure PendingEntry where
  incident     : Incident
  closeTime    : Time
  tracesAbsent : Bool
  retention    : Bool
  frozen       : List FrozenList
deriving DecidableEq, Repr

/-- The Recorder. `blocks` is the memory of the 96 blocks, block b at addresses 512 b to 512 b + 511. -/
structure Recorder where
  blocks          : Memory
  spare           : List Nat
  chans           : List Channel
  lastServed      : Nat
  peaks           : Peaks
  defaultRecorder : Bool
  state           : RecorderState
  capture         : Option Incident
  pendingQueue    : List PendingEntry
  holdoff         : Option Time
deriving DecidableEq, Repr

/-! ### Store Engine and flash interface (section 10) -/

/-- The engine phase. -/
inductive Phase where
  | idle | erasing | writing | committing | erasingAll | writingConfig
deriving DecidableEq, Repr

/-- A line of the slot directory (R163). `size` is the body length of the record (log entry 24). -/
inductive DirLine where
  | empty
  | valid (number : Nat) (retained : Bool) (cause : Nat) (size : Nat)
  | bad
deriving DecidableEq, Repr

/-- A store in progress (section 10). `retained` is the decision of R167, made at entry into COMMITTING. -/
structure StoreJob where
  target   : Nat
  attempt  : Nat
  position : Nat
  cleanup  : Bool
  retained : Bool
deriving DecidableEq, Repr

/-- An operation on the flash interface (R170). -/
inductive FlashOp where
  | readImage
  | readIncident (slot offset length : Nat)
  | scanRead (slot : Nat)
  | eraseTarget (slot : Nat)
  | eraseCleanup (slot : Nat)
  | programBody (slot position : Nat) (bytes : List Byte)
  | programHeader (slot : Nat) (bytes : List Byte)
  | eraseAll (slot : Nat)
  | eraseConfig
  | programConfig (position : Nat) (bytes : List Byte)
deriving DecidableEq, Repr

/-- An image being written to slot 0 (R172). -/
structure ConfigJob where
  image    : List Byte
  position : Nat
deriving DecidableEq, Repr

/-- The Store Engine with the flash interface. `lines` holds slots 1..63 in order; `noted` the slots that
ERASE_INCIDENTS noted as retained (R171), `mayHold` those whose line is BAD and which may still hold a retained record
(R163). -/
structure Store where
  phase        : Phase
  scan         : Option Nat
  lines        : List DirLine
  lastWritten  : Option Nat
  nextNumber   : Nat
  exhausted    : Bool
  retained     : Nat
  job          : Option StoreJob
  eraseNext    : Option Nat
  noted        : List Nat
  mayHold      : List Nat
  config       : Option ConfigJob
  inFlight     : Option FlashOp
  requests     : List FlashOp
deriving DecidableEq, Repr

/-! ### Service Port (section 11) -/

/-- The receiver (R176): hunting, or with the bytes that follow a start byte received at a time of the exact clock. -/
inductive Receiver where
  | hunting
  | assembling (bytes : List Byte) (start : Nat)
deriving DecidableEq, Repr

/-- Response codes (section 12.4). -/
inductive Code where
  | ok | busy | badRequest | notStandstill | notFound | badImage
deriving DecidableEq, Repr

/-- The request in progress (R177). -/
inductive Service where
  | readIncident
  | writeConfig
  | restart
deriving DecidableEq, Repr

/-- A response: the command it answers, its code and the values after them (section 12.4). -/
structure Response where
  command : Byte
  code    : Code
  values  : List Byte
deriving DecidableEq, Repr

/-- The Service Port. -/
structure ServicePort where
  receiver   : Receiver
  inProgress : Option Service
  responses  : List Response
  assembly   : Option (List Byte)
deriving DecidableEq, Repr

/-! ### Counters (R79, R95, R128, R160, R182) -/

/-- The 24 counters of the code set of R188, in its order. -/
inductive CounterId where
  | framesSent | collisions | excessiveCollisions | lateCollisions | runts | crcErrors | malformed
  | superseded | urgentOverflow | urgentDiscarded | addressClashes
  | tableRefusals | duplicates | staleFrames | excesses
  | lateReplies | frameErrors | misses | overshoots
  | ignoredInScanning | gated | heldOff | incidentsLost
  | serviceErrors
deriving DecidableEq, Repr

/-- The counters, each 0..65535. -/
structure Counters where
  framesSent          : Nat
  collisions          : Nat
  excessiveCollisions : Nat
  lateCollisions      : Nat
  runts               : Nat
  crcErrors           : Nat
  malformed           : Nat
  superseded          : Nat
  urgentOverflow      : Nat
  urgentDiscarded     : Nat
  addressClashes      : Nat
  tableRefusals       : Nat
  duplicates          : Nat
  staleFrames         : Nat
  excesses            : Nat
  lateReplies         : Nat
  frameErrors         : Nat
  misses              : Nat
  overshoots          : Nat
  ignoredInScanning   : Nat
  gated               : Nat
  heldOff             : Nat
  incidentsLost       : Nat
  serviceErrors       : Nat
deriving DecidableEq, Repr

/-- Whether the part runs or is in steps 1 to 3 of the reset sequence, reading slot 0 (R174). -/
inductive RunPhase where
  | running | loading
deriving DecidableEq, Repr

end Sys2Proof.Machine
end

