-- ==== Sys2Proof/Machine/Codes.lean ====
section
/-! DEFINITION. The code sets of R188 and the selectors of the per-axle and per-channel shapes. -/

namespace Sys2Proof.Machine

def modeCode : Mode → Nat
  | .released => 0 | .service => 1 | .emergency => 2

def lineCode : LineState → Nat
  | .off => 0 | .listening => 1 | .active => 2 | .isolated => 3 | .clashed => 4

def peerCode : PeerState → Nat
  | .absent => 0 | .joining => 1 | .live => 2 | .unruly => 3 | .silent => 4

/-- The code of "no entry" as a peer entry state (R188). -/
def noEntryCode : Nat := 255

def axleCode : AxleState → Nat
  | .normal => 0 | .suspect => 1 | .slide => 2 | .recover => 3 | .timeout => 4 | .fault => 5

def pressCode : PressState → Nat
  | .valid => 0 | .held => 1 | .failed => 2 | .absent => 3

def linkCode (up : Bool) : Nat := if up then 1 else 0

def kindCode : ChannelKind → Nat
  | .pressureTrace => 1 | .speedTrace => 2 | .blendTrace => 3 | .eventLog => 4 | .peerMirror => 5

def causeCode : Cause → Nat
  | .emergencyLocal => 1 | .emergencyPeer => 2 | .ventTimeout => 3 | .addressClash => 4 | .slideEntry => 5
  | .peerLost => 6 | .peerMark => 7 | .unserved => 8 | .converterLost => 9 | .lineIsolated => 10
  | .frictionFault => 11 | .sensorFault => 12 | .manual => 13

def sourceCode : ConfigSource → Nat
  | .loaded => 0 | .defaultStrap => 1 | .readFailed => 2 | .badCrc => 3 | .badVersion => 4
  | .badReserved => 5 | .badRange => 6

def recorderCode : RecorderState → Nat
  | .scanning => 0 | .idle => 1 | .capturing => 2

def phaseCode : Phase → Nat
  | .idle => 0 | .erasing => 1 | .writing => 2 | .committing => 3 | .erasingAll => 4 | .writingConfig => 5

def channelStateCode : ChannelState → Nat
  | .off => 0 | .running => 1 | .suspended => 2

def detectionCode : Detection → Nat
  | .level => 1 | .rate => 2

def frameCode : FrameKind → Nat
  | .statement => 1 | .slideNotice => 2 | .emergencyNotice => 3 | .incidentMark => 4

/-- The payload length that a frame kind fixes (R60). -/
def payloadLength : FrameKind → Nat
  | .statement => 18 | .slideNotice => 7 | .emergencyNotice => 3 | .incidentMark => 5

/-- The frame kind of a kind code. -/
def frameOfCode : Nat → Option FrameKind
  | 1 => some .statement | 2 => some .slideNotice | 3 => some .emergencyNotice | 4 => some .incidentMark
  | _ => none

/-- The channel kind of a kind code. -/
def kindOfCode : Nat → Option ChannelKind
  | 1 => some .pressureTrace | 2 => some .speedTrace | 3 => some .blendTrace | 4 => some .eventLog
  | 5 => some .peerMirror | _ => none

/-- A group as a field that may be absent: 8 when absent (R188). -/
def groupCode (g : Option Nat) : Nat := g.getD 8

/-- Response codes (section 12.4). -/
def responseCode : Code → Nat
  | .ok => 0 | .busy => 1 | .badRequest => 2 | .notStandstill => 3 | .notFound => 4 | .badImage => 5

def axleNumber : AxleId → Nat
  | .one => 1 | .two => 2 | .three => 3

/-- Pressure channels in the order of section 12.6. -/
def pressNumber : PressId → Nat
  | .bp => 0 | .bc => 1 | .ind => 2 | .mr => 3

/-- Causes of event records (R188). -/
inductive EventCause where
  | cycle | localLevel | localRate | peer | exit | listenEnd | trouble | probeSent | clash | created | heard
  | confirmed | flooding | calmed | aged | evicted | removed | replies | misses | freeze | grant
deriving DecidableEq, Repr

def eventCauseCode : EventCause → Nat
  | .cycle => 1 | .localLevel => 2 | .localRate => 3 | .peer => 4 | .exit => 5 | .listenEnd => 6
  | .trouble => 7 | .probeSent => 8 | .clash => 9 | .created => 10 | .heard => 11 | .confirmed => 12
  | .flooding => 13 | .calmed => 14 | .aged => 15 | .evicted => 16 | .removed => 17 | .replies => 18
  | .misses => 19 | .freeze => 20 | .grant => 21

/-- Sources of event records (section 12.7). -/
inductive EventSource where
  | mode | axle | line | peerEntry | link | channel | saturation
deriving DecidableEq, Repr

def eventSourceCode : EventSource → Nat
  | .mode => 1 | .axle => 2 | .line => 3 | .peerEntry => 4 | .link => 5 | .channel => 6 | .saturation => 7

/-- Counter codes (R188). -/
def counterCode : CounterId → Nat
  | .framesSent => 1 | .collisions => 2 | .excessiveCollisions => 3 | .lateCollisions => 4 | .runts => 5
  | .crcErrors => 6 | .malformed => 7 | .superseded => 8 | .urgentOverflow => 9 | .urgentDiscarded => 10
  | .addressClashes => 11 | .tableRefusals => 12 | .duplicates => 13 | .staleFrames => 14 | .excesses => 15
  | .lateReplies => 16 | .frameErrors => 17 | .misses => 18 | .overshoots => 19 | .ignoredInScanning => 20
  | .gated => 21 | .heldOff => 22 | .incidentsLost => 23 | .serviceErrors => 24

def Counters.get (c : Counters) : CounterId → Nat
  | .framesSent => c.framesSent | .collisions => c.collisions
  | .excessiveCollisions => c.excessiveCollisions | .lateCollisions => c.lateCollisions
  | .runts => c.runts | .crcErrors => c.crcErrors | .malformed => c.malformed
  | .superseded => c.superseded | .urgentOverflow => c.urgentOverflow
  | .urgentDiscarded => c.urgentDiscarded | .addressClashes => c.addressClashes
  | .tableRefusals => c.tableRefusals | .duplicates => c.duplicates | .staleFrames => c.staleFrames
  | .excesses => c.excesses | .lateReplies => c.lateReplies | .frameErrors => c.frameErrors
  | .misses => c.misses | .overshoots => c.overshoots | .ignoredInScanning => c.ignoredInScanning
  | .gated => c.gated | .heldOff => c.heldOff | .incidentsLost => c.incidentsLost
  | .serviceErrors => c.serviceErrors

def Counters.set (c : Counters) (i : CounterId) (n : Nat) : Counters :=
  match i with
  | .framesSent => { c with framesSent := n } | .collisions => { c with collisions := n }
  | .excessiveCollisions => { c with excessiveCollisions := n }
  | .lateCollisions => { c with lateCollisions := n } | .runts => { c with runts := n }
  | .crcErrors => { c with crcErrors := n } | .malformed => { c with malformed := n }
  | .superseded => { c with superseded := n } | .urgentOverflow => { c with urgentOverflow := n }
  | .urgentDiscarded => { c with urgentDiscarded := n }
  | .addressClashes => { c with addressClashes := n }
  | .tableRefusals => { c with tableRefusals := n } | .duplicates => { c with duplicates := n }
  | .staleFrames => { c with staleFrames := n } | .excesses => { c with excesses := n }
  | .lateReplies => { c with lateReplies := n } | .frameErrors => { c with frameErrors := n }
  | .misses => { c with misses := n } | .overshoots => { c with overshoots := n }
  | .ignoredInScanning => { c with ignoredInScanning := n } | .gated => { c with gated := n }
  | .heldOff => { c with heldOff := n } | .incidentsLost => { c with incidentsLost := n }
  | .serviceErrors => { c with serviceErrors := n }

/-- The counters that READ_COUNTERS lists before the lost-record counts, in the order of R182: line, table and
link counters. -/
def countersBeforeLost : List CounterId :=
  [.framesSent, .collisions, .excessiveCollisions, .lateCollisions, .runts, .crcErrors, .malformed,
   .superseded, .urgentOverflow, .urgentDiscarded, .addressClashes,
   .tableRefusals, .duplicates, .staleFrames, .excesses,
   .lateReplies, .frameErrors, .misses, .overshoots]

/-- The counters that READ_COUNTERS lists after the lost-record counts (R182). -/
def countersAfterLost : List CounterId :=
  [.ignoredInScanning, .gated, .heldOff, .incidentsLost, .serviceErrors]

/-! ### Selectors -/

def Tri.get {α : Type} (t : Tri α) : AxleId → α
  | .one => t.one | .two => t.two | .three => t.three

def Tri.set {α : Type} (t : Tri α) (i : AxleId) (x : α) : Tri α :=
  match i with
  | .one => { t with one := x } | .two => { t with two := x } | .three => { t with three := x }

def Tri.map {α β : Type} (f : α → β) (t : Tri α) : Tri β := ⟨f t.one, f t.two, f t.three⟩

def Tri.map2 {α β γ : Type} (f : α → β → γ) (t : Tri α) (u : Tri β) : Tri γ :=
  ⟨f t.one u.one, f t.two u.two, f t.three u.three⟩

def Tri.toList {α : Type} (t : Tri α) : List α := [t.one, t.two, t.three]

/-- Axles 1, 2, 3 with their values, in axle order. -/
def Tri.indexed {α : Type} (t : Tri α) : List (AxleId × α) :=
  [(.one, t.one), (.two, t.two), (.three, t.three)]

def Quad.get {α : Type} (q : Quad α) : PressId → α
  | .bp => q.bp | .bc => q.bc | .ind => q.ind | .mr => q.mr

def Quad.set {α : Type} (q : Quad α) (i : PressId) (x : α) : Quad α :=
  match i with
  | .bp => { q with bp := x } | .bc => { q with bc := x }
  | .ind => { q with ind := x } | .mr => { q with mr := x }

def Quad.map {α β : Type} (f : α → β) (q : Quad α) : Quad β := ⟨f q.bp, f q.bc, f q.ind, f q.mr⟩

def Quad.toList {α : Type} (q : Quad α) : List α := [q.bp, q.bc, q.ind, q.mr]

end Sys2Proof.Machine
end

