-- ==== Sys2Proof/Machine/Blocks.lean ====
section
/-! DEFINITION. The recorder's memory and channels (section 8): the holding of a channel, the coding of records into
blocks, the spare arbiter, the freeze and the peaks, as functions on the Recorder alone. -/

namespace Sys2Proof.Machine

/-! ### Holdings and channel states -/

/-- The blocks of a channel's holding (R133). -/
def Channel.holding (ch : Channel) : List Nat := ch.ring ++ ch.current.toList ++ ch.empty

/-- R134. -/
def Channel.state (ch : Channel) : ChannelState :=
  if ch.enable then (if ch.holding = [] then .suspended else .running) else .off

/-- Whether the channel is RUNNING. -/
def Channel.isRunning (ch : Channel) : Bool := ch.state == .running

/-- How many channels are RUNNING (R158). -/
def Recorder.runningCount (r : Recorder) : Nat := (r.chans.filter Channel.isRunning).length

/-! ### Records and blocks (R137 to R140) -/

/-- The kinds whose records are coded as differences (R138). -/
def deltaCoded : ChannelKind → Bool
  | .pressureTrace | .speedTrace => true
  | .blendTrace | .eventLog | .peerMirror => false

/-- The signed differences from the values recorded before (R138). -/
def differences (vals prev : List Nat) : List Int := List.zipWith (fun (v p : Nat) => (v : Int) - (p : Int)) vals prev

/-- A difference that fits a delta record (R138). -/
def fitsDelta (z : Int) : Bool := decide (-128 ≤ z) && decide (z ≤ 127)

/-- Whether the record is written as a key record against the channel's current block (R138, R139). -/
def Channel.needsKey (ch : Channel) (r : TraceRecord) : Bool :=
  ch.current.isNone || decide (255 < since r.time ch.lastTime) ||
    (deltaCoded ch.kind &&
      match ch.prev with
      | none => true
      | some (vals, valid) =>
        decide (32 ≤ ch.sinceKey) || !(differences r.vals vals).all fitsDelta || valid != r.valid)

/-- The bytes of a record written as a key record (R137, section 12.7). -/
def keyBytes (r : TraceRecord) : List Byte :=
  (r.tag ||| 0x80) :: be32 r.time.toNat ++ r.lead ++ r.vals.flatMap be16 ++ r.body

/-- The bytes of a record written with its time difference, values as differences (R137, section 12.7). -/
def otherBytes (ch : Channel) (r : TraceRecord) : List Byte :=
  r.tag :: BitVec.ofNat 8 (since r.time ch.lastTime) ::
    (r.lead ++ (differences r.vals ((ch.prev.map Prod.fst).getD [])).map (BitVec.ofInt 8) ++ r.body)

/-- A new current block is made (R140) and its header started (R137). Without a block to open the channel stands as
it was. -/
def Channel.openBlock (ch : Channel) (t : Time) : Channel :=
  let opened (ring : List Nat) (b : Nat) (empty : List Nat) : Channel :=
    { ch with ring := ring, current := some b, empty := empty, openTime := t, openSeq := ch.nextSeq,
              nextSeq := ch.nextSeq + 1, used := 0, fill := 0 }
  match ch.empty, ch.ring ++ ch.current.toList with
  | e :: es, filled => opened filled e es
  | [], b :: rest => opened rest b []
  | [], [] => ch

/-- The block header of the current block (section 12.7). -/
def Channel.header (ch : Channel) (c : Nat) : List Byte :=
  be8 c ++ be8 (kindCode ch.kind) ++ be16 0 ++ be32 ch.openSeq.toNat ++ be32 ch.openTime.toNat ++
    be16 ch.fill ++ be16 ch.used

/-- The address of a block in the recorder's memory. -/
def blockAddress (b : Nat) : Nat := 512 * b

/-- Bytes of one record put into the current block, with the block header brought up to date (R137). -/
def Channel.put (ch : Channel) (c : Nat) (r : TraceRecord) (key : Bool) (bytes : List Byte) (m : Memory) :
    Channel × Memory :=
  match ch.current with
  | none => (ch, m)
  | some b =>
    let ch' := { ch with used := ch.used + bytes.length, fill := ch.fill + 1, lastTime := r.time,
                         sinceKey := if key then 1 else ch.sinceKey + 1, prev := some (r.vals, r.valid) }
    (ch', Memory.writeBytes 0 (Memory.writeBytes 0 m (blockAddress b + 16 + ch.used) bytes)
            (blockAddress b) (ch'.header c))

/-- A RUNNING channel writes a record (R138 to R140). -/
def Channel.writeRecord (ch : Channel) (c : Nat) (r : TraceRecord) (m : Memory) : Channel × Memory :=
  let key := ch.needsKey r
  let bytes := if key then keyBytes r else otherBytes ch r
  if ch.current.isSome && decide (ch.used + bytes.length ≤ 496) then ch.put c r key bytes m
  else (ch.openBlock r.time).put c r true (keyBytes r) m

/-- Channel `c` takes a record offered to it (R136). The second part says whether its lost-record count has just
reached 65535. -/
def Recorder.offer (r : Recorder) (c : Nat) (rec : TraceRecord) : Recorder × Bool :=
  match r.chans[c]? with
  | none => (r, false)
  | some ch =>
    match ch.state with
    | .off => (r, false)
    | .running =>
      let w := ch.writeRecord c rec r.blocks
      ({ r with chans := r.chans.set c w.1, blocks := w.2 }, false)
    | .suspended =>
      if ch.lost < 65535 then
        ({ r with chans := r.chans.set c { ch with lost := ch.lost + 1 } }, ch.lost + 1 == 65535)
      else (r, false)

/-- A record offered in channel order to every channel that `sel` picks; with the channels whose lost-record count
has just reached 65535. -/
def Recorder.offerAll (sel : Channel → Bool) (rec : TraceRecord) (r : Recorder) : Recorder × List Nat :=
  (List.range 8).foldl
    (fun acc c =>
      if ((acc.1.chans[c]?).map sel).getD false then
        let o := acc.1.offer c rec
        (o.1, if o.2 then acc.2 ++ [c] else acc.2)
      else acc)
    (r, [])

/-- An event record as EVENT_LOG channels take it (section 12.7). -/
def eventRecord (t : Time) (source : Nat) (detail : List Byte) : TraceRecord :=
  { time := t, tag := 0, lead := [], vals := [], valid := [], body := be8 source ++ be8 detail.length ++ detail }

/-- The channels of one kind. -/
def ofKind (k : ChannelKind) (ch : Channel) : Bool := ch.kind == k

/-- An event record handed to the EVENT_LOG channels (R135). A lost-record count that it saturates hands a record of
its own (R136); each of the eight counts does so once, so nine levels suffice. -/
def Recorder.log : Nat → Time → Nat → List Byte → Recorder → Recorder
  | 0, _, _, _, r => r
  | n + 1, t, source, detail, r =>
    let o := r.offerAll (ofKind .eventLog) (eventRecord t source detail)
    o.2.foldl (fun r c => Recorder.log n t (eventSourceCode .saturation) (be8 (32 + c)) r) o.1

/-- An event record handed over. -/
def Recorder.logEvent (r : Recorder) (t : Time) (source : EventSource) (detail : List Byte) : Recorder :=
  Recorder.log 9 t (eventSourceCode source) detail r

/-- A trace record or a frame copy offered to the channels that `sel` picks, with the saturation records of R136. -/
def Recorder.trace (r : Recorder) (sel : Channel → Bool) (rec : TraceRecord) : Recorder :=
  let o := r.offerAll sel rec
  o.2.foldl (fun r c => r.logEvent rec.time .saturation (be8 (32 + c))) o.1

/-! ### Spare arbiter, freeze and clear -/

/-- Blocks put back into the spare pool. -/
def Recorder.returnBlocks (r : Recorder) (bs : List Nat) : Recorder :=
  { r with spare := bs.foldl (fun sp b => insertAsc b sp) r.spare }

/-- Whether the arbiter grants a channel a block, `got` listing the channels granted so far in the round (R141). -/
def Recorder.eligible (r : Recorder) (capped : Bool) (got : List Nat) (c : Nat) : Bool :=
  match r.chans[c]? with
  | none => false
  | some ch => ch.enable && decide (ch.holding.length < ch.alloc) && (!capped || decide (got.count c < 2))

/-- The next channel served: the first eligible one in cyclic order after the channel last served (R141). -/
def Recorder.nextServed (r : Recorder) (capped : Bool) (got : List Nat) : Option Nat :=
  ((List.range 8).map fun i => (r.lastServed + 1 + i) % 8).find? (r.eligible capped got)

/-- A channel is granted a block, which joins its empty granted blocks (R141). -/
def Recorder.grant (r : Recorder) (c b : Nat) (rest : List Nat) : Recorder :=
  { r with spare := rest, lastServed := c,
           chans := r.chans.modify c fun ch => { ch with empty := insertAsc b ch.empty } }

/-- Up to `n` grants of a round (R141). -/
def Recorder.grants : Nat → Bool → List Nat → Recorder → Recorder
  | 0, _, _, r => r
  | n + 1, capped, got, r =>
    match r.spare, r.nextServed capped got with
    | b :: rest, some c => Recorder.grants n capped (c :: got) (r.grant c b rest)
    | _, _ => r

/-- A round of the spare arbiter, capped at 2 blocks a channel or not (R141). -/
def Recorder.round (r : Recorder) (capped : Bool) : Recorder := Recorder.grants r.spare.length capped [] r

/-- A frozen channel's holding leaves it (R142). -/
def Channel.emptied (ch : Channel) : Channel :=
  { ch with ring := [], current := none, empty := [], sinceKey := 0, prev := none }

/-- Every RUNNING channel frozen, in channel order: its filled blocks to a frozen list, its empty granted blocks to
the spare pool (R142). -/
def Recorder.freeze (r : Recorder) : Recorder × List FrozenList :=
  let running := r.chans.zipIdx.filter fun p => p.1.isRunning
  let kept : Recorder :=
    { r with chans := r.chans.map fun (ch : Channel) => if ch.isRunning then ch.emptied else ch }
  (kept.returnBlocks (running.flatMap fun p => p.1.empty),
    running.map fun p => { channel := p.2, kind := p.1.kind, blocks := p.1.ring ++ p.1.current.toList })

/-- CLEAR_CHANNEL's effect on a channel (R143). -/
def Channel.cleared (ch : Channel) : Channel :=
  { ch with ring := [], current := none,
            empty := (ch.ring ++ ch.current.toList).foldl (fun e b => insertAsc b e) ch.empty,
            sinceKey := 0, prev := none, lost := 0 }

/-! ### Peaks (R144) -/

/-- A peak that keeps the largest value. -/
def peakMax (p : Option Peak) (v : Int) (t : Time) : Option Peak :=
  match p with
  | none => some ⟨v, t⟩
  | some k => if k.value < v then some ⟨v, t⟩ else some k

/-- A peak that keeps the smallest value. -/
def peakMin (p : Option Peak) (v : Int) (t : Time) : Option Peak :=
  match p with
  | none => some ⟨v, t⟩
  | some k => if v < k.value then some ⟨v, t⟩ else some k

/-- The peaks of the axles' q, at each speed set arrival. -/
def Recorder.peakSlip (r : Recorder) (q : Tri Nat) (t : Time) : Recorder :=
  { r with peaks := { r.peaks with
      q1 := peakMax r.peaks.q1 q.one t, q2 := peakMax r.peaks.q2 q.two t, q3 := peakMax r.peaks.q3 q.three t } }

/-- The peaks of BP and BC, at each pressure set arrival; a channel with no value changes none. -/
def Recorder.peakPressure (r : Recorder) (bp bc : Option Nat) (t : Time) : Recorder :=
  { r with peaks := { r.peaks with
      bp := match bp with
        | none => r.peaks.bp
        | some v => peakMin r.peaks.bp v t
      bc := match bc with
        | none => r.peaks.bc
        | some v => peakMax r.peaks.bc v t } }

/-- The peaks of U and of Ecmd − Eact, at each control cycle. -/
def Recorder.peakBlend (r : Recorder) (u : Nat) (diff : Int) (t : Time) : Recorder :=
  { r with peaks := { r.peaks with u := peakMax r.peaks.u u t, diff := peakMax r.peaks.diff diff t } }

end Sys2Proof.Machine
end

