-- ==== Sys2Proof/Machine/ResetValues.lean ====
section
/-! DEFINITION. The built-in default configuration (sections 1 to 9 and 11.2) and the reset state of each unit (R18,
R34, R58, R80, R82, R96, R110, R129, R131, R132, R145, R161, R173, R187) as a function of the configuration in force and the sampled address.
-/

namespace Sys2Proof.Machine

/-- The default channel table of R131. Channels 5, 6 and 7 are OFF; their kind and allocation, which nothing reads,
are DESIGN CHOICE (log entry 10). -/
def defaultChannels : List ChannelCfg :=
  [ ⟨true, .pressureTrace, 16, 0⟩, ⟨true, .speedTrace, 16, 0⟩, ⟨true, .blendTrace, 24, 0⟩,
    ⟨true, .eventLog, 8, 0⟩, ⟨true, .peerMirror, 16, 0x7FFFFFFE#32⟩,
    ⟨false, .pressureTrace, 2, 0⟩, ⟨false, .pressureTrace, 2, 0⟩, ⟨false, .pressureTrace, 2, 0⟩ ]

/-- The default trigger line of a cause of an importance (R147). -/
def defaultLine : Importance → TriggerLine
  | .high => ⟨true, .high, 5000⟩
  | .low => ⟨true, .low, 3000⟩

/-- The default trigger table, in code order (R147, section 9.2). -/
def defaultTriggers : List TriggerLine :=
  (List.replicate 4 (defaultLine .high)) ++ (List.replicate 9 (defaultLine .low))

/-- The built-in default configuration: every parameter at its default. -/
def defaultConfig : Configuration :=
  { pscan := 10, indEn := true, mrEn := true, z := 100, dw := 1016,
    bpRef := 620, rmin := 40, rfull := 170, dfull := 2000, bpEmerg := 280, remerg := 50,
    decelMax := 1500, accelMax := 500, q1 := 30, q2 := 80, dv1 := 60, tRec := 200, tVent := 3000,
    amin := 300, recStep := 2, abase := 2400,
    lineEn := true, group := 0, roster := [],
    emax := 0, etol := 100, reUp := 20, reDn := 40, rfUp := 15, rfDn := 30, rfFill := 60,
    pth := 30, kf := 400, pmax := 450, pemg := 480, uthr := 200,
    channels := defaultChannels, triggers := defaultTriggers, gate := 3, sendMarks := true }

/-- The tooth pitch in µm (R8): the nearest integer to π × Dw × 1000 / Z, an exact half up. π is taken to 15
decimals, which gives the nearest integer for every Dw and Z in range (log entry 42). -/
def toothPitch (dw z : Nat) : Nat :=
  (2 * 3141592653589793 * dw * 1000 + z * 1000000000000000) / (2 * z * 1000000000000000)

/-- A scanned channel and one left out of the scan at reset (R1, R4, R18). -/
def resetPressChan (scanned : Bool) : PressChan :=
  { state := if scanned then .valid else .absent, last := none, invalidRun := 0, validRun := 0, sample := .none }

def resetAxleSpeed : AxleSpeed :=
  { n := 0, first := none, last := none, recent := none, prevV := 0, prevValid := false, v := 0, valid := false,
    faulted := false, dv := 0 }

/-- R18. Both timers start at reset, whose time is 0. -/
def resetAcquisition (c : Configuration) : Acquisition :=
  { chans := ⟨resetPressChan true, resetPressChan true, resetPressChan c.indEn, resetPressChan c.mrEn⟩,
    history := [], fall := 0, latest := none,
    axles := ⟨resetAxleSpeed, resetAxleSpeed, resetAxleSpeed⟩, speedTime := none,
    pitch := toothPitch c.dw c.z,
    handle := { highTime := 0, highSince := 0, duty := 0, h := 0, fault := false },
    scanDue := c.pscan * 1000, windowDue := 20000 }

def resetMachine : AxleMachine :=
  { state := .normal, high := 0, calm := 0, recover := 0, faultReturn := none, untrusted := none, lastQ := 0,
    episodeOpen := false, vent := 0, holdValve := false, ventValve := false }

/-- R58. -/
def resetSlide (c : Configuration) : Slide :=
  { ddec := c.decelMax * 20 / 1000, dacc := c.accelMax * 20 / 1000, vref := 0, firstPending := true,
    speedAssisted := false, standstill := false, lowStart := none,
    machines := ⟨resetMachine, resetMachine, resetMachine⟩, a := 1000, al := c.abase, lastSlide := none,
    slideCut := false, slideFlag := false }

/-- R34. The control cycle timer starts at reset. -/
def resetDemand : Demand :=
  { mode := .emergency, d := 0, dBp := 0, dH := 0, lastOwn := 0, assisted := false, exitTimer := .stopped,
    noticeLeft := 0, repeatDue := none, notice := none, cycleDue := 20000 }

/-- R110. AL, which is read from the SPU at each cycle, stands at Abase (log entry 15). -/
def resetSharing (c : Configuration) : Sharing :=
  { ce := 0, fx := 0, al := c.abase, members := 0, alone := .emergency, sd := 0, se := 0, sh := 0, kind := .none,
    fraction := none, hk := 0, et := 0, ft := 0, u := 0 }

/-- R129. -/
def resetOutputs (c : Configuration) : Outputs :=
  { ecmd := 0, fcmd := 0, ecmdStart := 0, pmaxEff := c.pmax, bcSet := 0, bcOut := c.pemg, settleRef := c.pemg,
    settleTime := 0, linkUp := false, validRun := 0, missRun := 0, nextSeq := 0, latest := none, answered := false,
    status := { eav := 0, eact := 0, ready := false, fault := false, asked := 0 },
    fade := false, shortRun := 0, goodRun := 0, frictionFault := false, devStart := none, unservedStart := none,
    unservedRaised := false, converterOut := [], cycle := { sd := 0, eact := 0, fcmd := 0, u := 0 } }

/-- Whether the line is in OFF from reset (R67). -/
def lineOff (c : Configuration) (addr : Nat) : Bool := addr == 0 || addr == 31 || !c.lineEn

/-- R80. -/
def resetLine (c : Configuration) (addr : Nat) : Line :=
  { state := if lineOff c addr then .off else .listening, activeSince := none, queue := [], slot := none,
    nextStatement := none, tx := .idle, lastActivityEnd := none, nextSeq := 0,
    backoff := BitVec.ofNat 16 (addr * 2741), trouble := 0, hold := 2000, holdDue := none, clashes := 0,
    listenDue := if lineOff c addr then none else some 300000, statementDue := none, due := false,
    lastQueued := none, lastQueuedAt := none, queuedInActive := false, lastSentEnd := none,
    frameOut := [] }

/-- A static entry as R82 makes it. -/
def staticEntry (addr : Nat) : PeerEntry :=
  { addr := addr, fixed := true, state := .absent, entered := 0, group := none, lastSeq := none, last := none,
    lastTime := none, firstTime := none, heard := none, missed := 0, excess := none }

/-- R96: the roster's static entries but the station's own address, in ascending order. -/
def resetPeers (c : Configuration) (addr : Nat) : PeerTable :=
  { entries := (sortAsc (c.roster.filter (· != addr))).map staticEntry, ageingDue := 20000 }

/-- The sum of n_c over the enabled channels of a table (R131). -/
def enabledSum (t : List ChannelCfg) : Nat := sumOf (t.map fun c => if c.enable then c.alloc else 0)

/-- The channel table put in force: refused when its enabled sum is above 88 (R131). -/
def tableInForce (c : Configuration) : List ChannelCfg :=
  if enabledSum c.channels ≤ 88 then c.channels else defaultChannels

/-- A channel at reset, with its initial blocks (R132, R145). -/
def resetChannel (c : ChannelCfg) (granted : List Nat) : Channel :=
  { enable := c.enable, kind := c.kind, alloc := c.alloc, mirror := c.mirror, ring := [], current := none,
    empty := granted, nextSeq := 0, openTime := 0, openSeq := 0, used := 0, fill := 0, lastTime := 0, sinceKey := 0,
    prev := none, lost := 0 }

/-- The pool handed out in channel order from block `next` on (R132). -/
def allotChannels : Nat → List ChannelCfg → List Channel
  | _, [] => []
  | next, c :: cs =>
    let n := if c.enable then c.alloc else 0
    resetChannel c (List.range' next n) :: allotChannels (next + n) cs

def resetPeaks : Peaks := ⟨none, none, none, none, none, none, none⟩

/-- R145 and R161. -/
def resetRecorder (c : Configuration) : Recorder :=
  { blocks := [], spare := List.range' (enabledSum (tableInForce c)) (96 - enabledSum (tableInForce c)),
    chans := allotChannels 0 (tableInForce c), lastServed := 7, peaks := resetPeaks,
    defaultRecorder := decide (88 < enabledSum c.channels), state := .scanning, capture := none,
    pendingQueue := [], holdoff := none }

/-- R173: the scan is in progress and asks for slot 1; the lines are rebuilt by the scan. The next number, the
last written slot and the retained count are set at its end. -/
def resetStore : Store :=
  { phase := .idle, scan := some 1, lines := List.replicate 63 .empty, lastWritten := none, nextNumber := 1,
    exhausted := false, retained := 0, job := none, eraseNext := none, noted := [], mayHold := [],
    config := none, inFlight := none, requests := [.scanRead 1] }

/-- R187. -/
def resetService : ServicePort :=
  { receiver := .hunting, inProgress := none, responses := [], assembly := none }

def zeroCounters : Counters :=
  ⟨0, 0, 0, 0, 0, 0, 0, 0, 0, 0, 0, 0, 0, 0, 0, 0, 0, 0, 0, 0, 0, 0, 0, 0⟩

end Sys2Proof.Machine
end

