-- ==== Sys2Proof/Machine/State.lean ====
section
/-! DEFINITION. The whole state of the part, with the external flash it writes and the queue of commands that wait,
the reasons a step can stop, and the state after reset. -/

namespace Sys2Proof.Machine

/-- The state. `clock` is the exact time in µs since the last reset, the model's own field, from which the
running-time counter and the timestamp counter are read (log entry 1). `flash` is the external flash, an address
that is not listed reading FF (R162). `serviceOut` is the last frame sent on the service link (R177, R188). `pending` is the
queue of commands, first in, first out. -/
structure State where
  clock       : Nat
  runPhase    : RunPhase
  address     : Nat
  cfgdef      : Bool
  config      : Configuration
  source      : ConfigSource
  powerFail   : Bool
  handleLevel : Bool
  acq         : Acquisition
  slide       : Slide
  demand      : Demand
  sharing     : Sharing
  outputs     : Outputs
  line        : Line
  peers       : PeerTable
  recorder    : Recorder
  store       : Store
  service     : ServicePort
  counters    : Counters
  flash       : Memory
  serviceOut  : List Byte
  pending     : List Instr
deriving DecidableEq, Repr

/-- Why a step stops with a fault. The manual stops the part nowhere, so nothing raises a fault (safe). -/
inductive Fault where
deriving DecidableEq, Repr

/-- Why a step is refused. -/
inductive Refusal where
  /-- Raised by exec for a command without a meaning; no arm does (safe). -/
  | notModelled (mnemonic : String)
deriving DecidableEq, Repr

/-- The state after reset, the end of step 3 of R174, of a station strapped to address 1 with CFGDEF set, with its
input levels low and its flash erased: DESIGN CHOICE (log entries 6, 7 and 8). -/
def State.reset : State :=
  { clock := 0, runPhase := .running, address := 1, cfgdef := true, config := defaultConfig, source := .defaultStrap,
    powerFail := false, handleLevel := false,
    acq := resetAcquisition defaultConfig, slide := resetSlide defaultConfig, demand := resetDemand,
    sharing := resetSharing defaultConfig, outputs := resetOutputs defaultConfig,
    line := resetLine defaultConfig 1, peers := resetPeers defaultConfig 1,
    recorder := resetRecorder defaultConfig, store := resetStore, service := resetService,
    counters := zeroCounters, flash := [], serviceOut := [], pending := [] }

end Sys2Proof.Machine
end

