-- ==== Sys2Proof/Machine/Ops.lean ====
section
/-! DEFINITION. Operations over the whole state that every unit shares: time, the reset state of all units, event
records, counters, and the form that every event has. -/

namespace Sys2Proof.Machine

/-! ### Time -/

/-- The reading of the running-time counter at a time of the exact clock. -/
def reading (clock : Nat) : Time := BitVec.ofNat 32 (clock / 1000)

/-- The running-time counter in ms (section 0.5.1). -/
def State.now (s : State) : Time := reading s.clock

/-- The running time in ms, not wrapped. -/
def State.nowMs (s : State) : Nat := s.clock / 1000

/-- The tooth-pulse timestamp counter in µs (R9). -/
def State.stamp (s : State) : Stamp := BitVec.ofNat 32 s.clock

/-- `dt` µs pass. -/
def State.advance (s : State) (dt : Nat) : State := { s with clock := s.clock + dt }

/-- A timer that runs and has come to its time. -/
def State.timerDue (s : State) : Option Nat → Bool
  | none => false
  | some t => decide (t ≤ s.clock)

/-! ### Reset state of all units -/

/-- Every unit in its reset state under a configuration in force, at time 0 (step 4 of R174). The levels of the
inputs, the flash and the queue of commands are what they were. -/
def State.reinit (s : State) (c : Configuration) (src : ConfigSource) : State :=
  { s with
    clock := 0, runPhase := .running, config := c, source := src,
    acq := resetAcquisition c, slide := resetSlide c, demand := resetDemand, sharing := resetSharing c,
    outputs := resetOutputs c, line := resetLine c s.address, peers := resetPeers c s.address,
    recorder := resetRecorder c, store := resetStore, service := resetService, counters := zeroCounters }

/-! ### Event records and counters -/

/-- An event record handed to the EVENT_LOG channels at this event. -/
def State.logEvent (s : State) (source : EventSource) (detail : List Byte) : State :=
  { s with recorder := s.recorder.logEvent s.now source detail }

/-- A counter raised by 1, saturating at 65535 with an event record naming it (R79, R95, R128, R160, R182). -/
def State.bump (s : State) (i : CounterId) : State :=
  if s.counters.get i < 65535 then
    let s' := { s with counters := s.counters.set i (s.counters.get i + 1) }
    if s.counters.get i + 1 = 65535 then s'.logEvent .saturation (be8 (counterCode i)) else s'
  else s

/-- A counter raised `n` times. -/
def State.bumpN (s : State) (i : CounterId) : Nat → State
  | 0 => s
  | n + 1 => (s.bump i).bumpN i n

/-- The channel-state records of an event: one for each enabled channel whose state at its end differs from that at
its start, in channel order (R134). -/
def State.recordChannels (before after : State) : State :=
  (before.recorder.chans.zip after.recorder.chans).zipIdx.foldl
    (fun s p =>
      if p.1.1.enable && p.1.1.state != p.1.2.state then
        s.logEvent .channel
          (be8 p.2 ++ be8 (channelStateCode p.1.1.state) ++ be8 (channelStateCode p.1.2.state) ++
            be8 (eventCauseCode (if p.1.2.state = .suspended then .freeze else .grant)))
      else s)
    after

/-- The form of every event of the running part: `dt` passes, then the event does its work, then the channel-state
records are handed over. During steps 1 to 3 of the reset sequence the units take no event (R174, log entry 9). -/
def State.event (s : State) (dt : Nat) (work : State → State) : State :=
  let s' := s.advance dt
  if s'.runPhase = .running then State.recordChannels s' (work s') else s'

/-- An event that is taken only under a condition; an event whose condition does not hold is no event, and only
time passes (log entry 2). -/
def State.eventIf (s : State) (dt : Nat) (cond : State → Bool) (work : State → State) : State :=
  s.event dt fun s' => if cond s' then work s' else s'

end Sys2Proof.Machine
end

