-- ==== Sys2Proof/Machine/Flags.lean ====
section
/-! DEFINITION. The flags byte of the station's effort statements (R108, bits of section 12.2), the flags read from a
peer's statement (R189), and the flag DEFAULT_CONFIG (R175). -/

namespace Sys2Proof.Machine

/-- DEFAULT_CONFIG: the configuration in force is the built-in default (R175). -/
def State.defaultConfigFlag (s : State) : Bool := s.source != .loaded

/-- The flags of R108 as they stand. -/
def State.statementFlags (s : State) : Byte :=
  BitVec.ofNat 8
    (128 * s.slide.slideFlag.toNat + 64 * s.outputs.fade.toNat + 32 * s.outputs.frictionFault.toNat +
      16 * s.slide.speedAssisted.toNat + 8 * s.demand.assisted.toNat + 4 * s.defaultConfigFlag.toNat +
      2 * (!s.outputs.linkUp).toNat + s.acq.handle.fault.toNat)

/-- SPEED_ASSISTED of a peer's statement. -/
def Statement.speedAssisted (v : Statement) : Bool := v.flags.getLsbD 4
/-- DEMAND_ASSISTED of a peer's statement. -/
def Statement.demandAssisted (v : Statement) : Bool := v.flags.getLsbD 3
/-- A stated mode of EMERGENCY: the mode byte is 2 and no other value (R189). -/
def Statement.inEmergency (v : Statement) : Bool := v.mode == 2

end Sys2Proof.Machine
end

