-- ==== Sys2Proof/Machine/Formats.lean ====
section
/-! DEFINITION. The byte layouts of section 12: line frames, converter frames, service responses, incident records and
trace records. -/

namespace Sys2Proof.Machine

/-! ### Consist brake line (section 12.2) -/

/-- The 18 bytes of an effort statement's payload. -/
def statementBytes (v : Statement) : List Byte :=
  be16 v.d ++ be16 v.ce ++ be16 v.fx ++ be16 v.al ++ be16 v.vref ++ be16 v.ecmd ++ be16 v.fcmd ++ be16 v.u ++
    [v.mode, v.flags]

/-- The effort statement that a payload carries; every field is taken as it stands (R189). -/
def parseStatement (p : List Byte) : Statement :=
  { d := be16At p 0, ce := be16At p 2, fx := be16At p 4, al := be16At p 6, vref := be16At p 8, ecmd := be16At p 10,
    fcmd := be16At p 12, u := be16At p 14, mode := p.getD 16 0, flags := p.getD 17 0 }

/-- The payload of a slide notice: AL, a, the axles in SLIDE and Vref (R54). -/
def slideNoticeBytes (al a axles vref : Nat) : List Byte := be16 al ++ be16 a ++ be8 axles ++ be16 vref

/-- The payload of an emergency notice: cause and copy in one byte, then BP (R28). -/
def emergencyNoticeBytes (cause : Detection) (copy bp : Nat) : List Byte :=
  be8 (detectionCode cause * 16 + copy) ++ be16 bp

/-- The payload of an incident mark (R153). -/
def incidentMarkBytes (number : Nat) (cause : Cause) : List Byte := be32 number ++ be8 (causeCode cause)

/-- The header and payload of a frame, without its check word (R60). -/
def frameBody (kind : FrameKind) (source group : Nat) (seq : BitVec 8) (payload : List Byte) : List Byte :=
  be8 (frameCode kind) ++ be8 source ++ be8 group ++ [seq] ++ be8 payload.length ++ be8 0 ++ payload

/-- A received good frame. `body` is its header and payload, `check` its check word. -/
structure GoodFrame where
  kind    : FrameKind
  source  : Nat
  group   : Nat
  seq     : BitVec 8
  payload : List Byte
  body    : List Byte
  check   : List Byte
deriving DecidableEq, Repr

/-- The bytes that the check word covers and the check word. -/
def splitCheck (bs : List Byte) : List Byte × List Byte := (bs.take (bs.length - 2), bs.drop (bs.length - 2))

/-- Whether the last two bytes are the CRC-16 of those before them. -/
def crcGood (bs : List Byte) : Bool := (splitCheck bs).2 == be16 (crc16 (splitCheck bs).1).toNat

/-- The form check of R61 on a frame that has passed the two checks before it. -/
def parseFrame (bs : List Byte) : Option GoodFrame :=
  match frameOfCode (byteAt bs 0) with
  | none => none
  | some kind =>
    if byteAt bs 4 = payloadLength kind ∧ bs.length = 6 + payloadLength kind + 2 ∧
        1 ≤ byteAt bs 1 ∧ byteAt bs 1 ≤ 30 ∧ byteAt bs 2 ≤ 7 ∧ byteAt bs 5 = 0 then
      some { kind := kind, source := byteAt bs 1, group := byteAt bs 2, seq := bs.getD 3 0,
             payload := ((splitCheck bs).1).drop 6, body := (splitCheck bs).1, check := (splitCheck bs).2 }
    else none

/-! ### Converter link (section 12.3) -/

/-- An effort request as it is sent. -/
def requestFrame (r : Request) : List Byte :=
  withCrc16 (be8 1 ++ [r.seq] ++ be16 r.ecmd ++ [beBool r.slideCut])

/-- A converter status as received. -/
structure StatusFrame where
  echo  : BitVec 8
  eav   : Nat
  eact  : Nat
  ready : Bool
  fault : Bool
deriving DecidableEq, Repr

/-- The frame check of R113: length, check word, type and the status bits that must be 0. -/
def parseStatus (bs : List Byte) : Option StatusFrame :=
  if bs.length = 9 ∧ crcGood bs = true ∧ byteAt bs 0 = 2 ∧ byteAt bs 6 < 4 then
    some { echo := bs.getD 1 0, eav := be16At bs 2, eact := be16At bs 4,
           ready := (bs.getD 6 0).getLsbD 0, fault := (bs.getD 6 0).getLsbD 1 }
  else none

/-! ### Service link (section 12.4) -/

/-- A response as it is sent: start byte, command byte 80, length, payload, CRC-16 over command, length and
payload. -/
def responseFrame (r : Response) : List Byte :=
  let payload := r.command :: be8 (responseCode r.code) ++ r.values
  be8 0x7E ++ withCrc16 (be8 0x80 ++ be8 payload.length ++ payload)

/-! ### Incident record (section 12.6) -/

/-- A peak in a summary. -/
def peakBytes : Option Peak → List Byte
  | none => List.replicate 8 0
  | some p => be8 1 ++ be8 0 ++ beInt16 p.value ++ be32 p.time.toNat

/-- One pressure of a summary: value 0 when it carries none. -/
def pressBytes (p : PressItem) : List Byte := be8 (pressCode p.state) ++ be16 (p.value.getD 0)

/-- The summary, 104 bytes. -/
def summaryBytes (m : Summary) : List Byte :=
  be8 (modeCode m.mode) ++ be8 (lineCode m.line) ++ be8 (linkCode m.linkUp) ++
  be8 (m.assisted.toNat + 2 * m.standstill.toNat) ++
  [m.d, m.sd, m.ce, m.ecmd, m.eact, m.fcmd, m.u, m.bcOut].flatMap be16 ++
  m.press.toList.flatMap pressBytes ++
  be16 m.vref ++ be16 m.a ++ be16 m.al ++
  m.axles.toList.flatMap (fun a => be8 (axleCode a)) ++ be8 0 ++
  m.speeds.toList.flatMap be16 ++
  [m.peaks.q1, m.peaks.q2, m.peaks.q3, m.peaks.bp, m.peaks.bc, m.peaks.u, m.peaks.diff].flatMap peakBytes

/-- A cause entry, 25 bytes. -/
def causeBytes (e : CauseEntry) : List Byte :=
  be8 (causeCode e.cause) ++ be8 ((e.origin.map Origin.addr).getD 0) ++ be16 e.offset ++
  be32 ((e.origin.map Origin.number).getD 0) ++ be8 e.detail.length ++
  (e.detail ++ List.replicate (16 - e.detail.length) 0)

/-- A snapshot entry, 26 bytes. -/
def snapshotBytes (e : SnapshotEntry) : List Byte :=
  be8 e.addr ++ be8 (peerCode e.state) ++ be8 (groupCode e.group) ++
  be8 (e.age.isSome.toNat + 2 * e.last.isSome.toNat) ++ be32 (e.age.getD 0) ++
  (match e.last with
   | none => List.replicate 18 0
   | some v => statementBytes v)

/-- A trace section: its header and its blocks, each as its 512 bytes stand in the recorder's memory. -/
def sectionBytes (m : Memory) (f : FrozenList) : List Byte :=
  be8 f.channel ++ be8 (kindCode f.kind) ++ be16 f.blocks.length ++
  f.blocks.flatMap fun b => Memory.readBytes 0 m (blockAddress b) 512

/-- The body of an incident record (R162). -/
def recordBody (e : PendingEntry) (m : Memory) : List Byte :=
  summaryBytes e.incident.summary ++
  be8 e.incident.causes.length ++ e.incident.causes.flatMap causeBytes ++
  be8 e.incident.snapshot.length ++ e.incident.snapshot.flatMap snapshotBytes ++
  be8 e.frozen.length ++ e.frozen.flatMap (sectionBytes m)

/-- The first cause of a closed incident, as its code; 0 when the list is empty. -/
def firstCause (i : Incident) : Nat := ((i.causes.head?).map fun e => causeCode e.cause).getD 0

/-- The header fields at offsets 0 to 19 of a record. -/
def recordHeaderFields (e : PendingEntry) (retained refused : Bool) (size : Nat) : List Byte :=
  be32 e.incident.number ++ be32 (e.incident.openMs) ++ be32 e.closeTime.toNat ++ be32 size ++
  be8 (e.incident.truncated.toNat + 2 * e.tracesAbsent.toNat + 4 * e.incident.overflowed.toNat +
    8 * retained.toNat + 16 * refused.toNat) ++
  be8 (firstCause e.incident) ++ be16 0

/-- The 24-byte header of a record, with the CRC-32 over the fields and the body. -/
def recordHeader (e : PendingEntry) (retained refused : Bool) (body : List Byte) : List Byte :=
  let fields := recordHeaderFields e retained refused body.length
  fields ++ be32 (crc32 (fields ++ body)).toNat

/-- The size of a slot of the flash (R162). -/
def slotSize : Nat := 65536
/-- The address of a slot. -/
def slotAddress (slot : Nat) : Nat := slotSize * slot
/-- The size of a record header. -/
def headerSize : Nat := 24

/-- The directory line that the bytes of a slot give at the scan (R162, R164): VALID when the body length fits the
slot and the CRC-32 matches. -/
def scanLine (flash : Memory) (slot : Nat) : DirLine :=
  let head := Memory.readBytes 0xFF flash (slotAddress slot) headerSize
  let size := be32At head 12
  if headerSize + size ≤ slotSize then
    let body := Memory.readBytes 0xFF flash (slotAddress slot + headerSize) size
    if be32At head 20 = (crc32 (head.take 20 ++ body)).toNat then
      .valid (be32At head 0) ((head.getD 16 0).getLsbD 3) (byteAt head 17) size
    else .empty
  else .empty

/-! ### Trace records (section 12.7) -/

def bitIf (b : Bool) (i : Nat) : Nat := if b then 2 ^ i else 0

/-- PRESSURE_TRACE: validity of BP, BC, IND, MR in tag bits 3..0; a channel with no value recorded as 0 (R135). -/
def pressureRecord (p : PressureSet) : TraceRecord :=
  let v := p.chans.toList.map fun i => i.value.isSome
  { time := p.time,
    tag := BitVec.ofNat 8 (bitIf p.chans.bp.value.isSome 3 + bitIf p.chans.bc.value.isSome 2 +
             bitIf p.chans.ind.value.isSome 1 + bitIf p.chans.mr.value.isSome 0),
    lead := [], vals := p.chans.toList.map fun i => i.value.getD 0, valid := v, body := [] }

/-- SPEED_TRACE: validity of axles 1..3 in tag bits 2..0, SPEED_ASSISTED in bit 3; the state word before the values;
an invalid speed recorded as 0 (R135). -/
def speedRecord (t : Time) (vref : Nat) (assisted : Bool) (speeds : Tri Nat) (valid : Tri Bool)
    (states : Tri AxleState) : TraceRecord :=
  { time := t,
    tag := BitVec.ofNat 8 (bitIf valid.one 2 + bitIf valid.two 1 + bitIf valid.three 0 + bitIf assisted 3),
    lead := be16 (axleCode states.one * 64 + axleCode states.two * 8 + axleCode states.three),
    vals := vref :: (Tri.map2 (fun v ok => if ok then v else 0) speeds valid).toList,
    valid := valid.toList, body := [] }

/-- BLEND_TRACE (R128): the mode in tag bits 1..0. -/
def blendRecord (t : Time) (mode : Mode) (values : List Nat) : TraceRecord :=
  { time := t, tag := BitVec.ofNat 8 (modeCode mode), lead := [], vals := [], valid := [],
    body := values.flatMap be16 }

/-- PEER_MIRROR (R66): own transmission in tag bit 0. `body` is the frame less its check word. -/
def mirrorRecord (t : Time) (own : Bool) (body check : List Byte) (line : LineState) : TraceRecord :=
  { time := t, tag := beBool own, lead := [], vals := [], valid := [],
    body := be8 body.length ++ check ++ be8 (lineCode line) ++ body }

end Sys2Proof.Machine
end

