-- ==== Sys2Proof/Machine/Engine.lean ====
section
/-! DEFINITION. The Store Engine's shared operations (section 10): requests to the flash interface, the start test,
the choice of a target, the drop of an entry and what a failure does. -/

namespace Sys2Proof.Machine

/-- The directory line of slot 1..63. -/
def Store.lineOf (st : Store) (slot : Nat) : DirLine := st.lines.getD (slot - 1) .bad

/-- The directory line of a slot changed. -/
def Store.setLine (st : Store) (slot : Nat) (l : DirLine) : Store := { st with lines := st.lines.set (slot - 1) l }

/-- An operation asked of the flash interface; it waits for the arbiter (R170). -/
def Store.ask (st : Store) (op : FlashOp) : Store := { st with requests := st.requests ++ [op] }

/-- A line that the target choice takes: neither BAD nor VALID with the retained indication (R165). -/
def DirLine.usable : DirLine → Bool
  | .empty => true
  | .valid _ retained _ _ => !retained
  | .bad => false

/-- The target slot, the first usable one going cyclically through 1..63 from the slot after `after`; `after` is 0
for an absent last written slot (R165). -/
def Store.chooseTarget (st : Store) (after : Nat) : Option Nat :=
  ((List.range 63).map fun i => (after + i) % 63 + 1).find? fun k => (st.lineOf k).usable

/-- The conditions of R165. -/
def State.canStart (s : State) : Bool :=
  s.store.phase == .idle && s.store.scan.isNone && !s.recorder.pendingQueue.isEmpty && s.store.job.isNone &&
    !s.powerFail

/-- The blocks of an entry. -/
def PendingEntry.blocks (e : PendingEntry) : List Nat := e.frozen.flatMap FrozenList.blocks

/-- The oldest entry leaves the pending queue, its frozen blocks return to the spare pool and the uncapped round
runs (R141, R167, R168). -/
def Recorder.retire (r : Recorder) : Recorder :=
  match r.pendingQueue with
  | [] => r
  | e :: es => (Recorder.returnBlocks { r with pendingQueue := es } e.blocks).round false

/-- An entry dropped, up to the start test (R168). -/
def State.dropEntry (s : State) : State :=
  State.bump { s with recorder := s.recorder.retire, store := { s.store with phase := .idle, job := none } }
    .incidentsLost

/-- The engine takes the oldest entry and asks for the erase of its target (R165, R166). -/
def State.beginStore (s : State) (target : Nat) : State :=
  let job : StoreJob := { target := target, attempt := 1, position := 0, cleanup := false, retained := false }
  let st : Store := { s.store with phase := .erasing, job := some job }
  { s with store := st.ask (.eraseTarget target) }

/-- Up to `n` start tests: an entry for which no slot qualifies is dropped and the test made again (R165). -/
def State.startTests : Nat → State → State
  | 0, s => s
  | n + 1, s =>
    if s.canStart then
      match s.store.chooseTarget (s.store.lastWritten.getD 0) with
      | some t => s.beginStore t
      | none => State.startTests n s.dropEntry
    else s

/-- The start test (R165). -/
def State.startTest (s : State) : State := s.startTests s.recorder.pendingQueue.length

/-- The entry being stored is dropped and the start test applied (R168). -/
def State.dropAndTest (s : State) : State := s.dropEntry.startTest

/-- The erase that a retry or a cleanup needs: asked for at once, or held in IDLE while the warning stands
(R168, R169). -/
def State.reErase (s : State) (job : StoreJob) : State :=
  if s.powerFail then { s with store := { s.store with phase := .idle, job := some job } }
  else
    let st : Store := { s.store with phase := .erasing, job := some job }
    { s with store := st.ask (if job.cleanup then .eraseCleanup job.target else .eraseTarget job.target) }

/-- A second attempt on a new target after the failed slot, or the drop (R168). A failure that calls for no new erase drops
the entry at once, the warning standing or not (log entry 20). -/
def State.retryOrDrop (s : State) (job : StoreJob) : State :=
  if job.attempt = 1 then
    match s.store.chooseTarget job.target with
    | some t => s.reErase { target := t, attempt := 2, position := 0, cleanup := false, retained := false }
    | none => s.dropAndTest
  else s.dropAndTest

/-- A failure in ERASING or WRITING of the target (R168). -/
def State.slotFailed (s : State) (job : StoreJob) : State :=
  State.retryOrDrop { s with store := s.store.setLine job.target .bad } job

/-- A failure in COMMITTING: the line is BAD and the slot is cleaned up (R168). -/
def State.commitFailed (s : State) (job : StoreJob) : State :=
  State.reErase { s with store := s.store.setLine job.target .bad } { job with cleanup := true }

/-- How many bytes one program operation carries of what is left: at least one. -/
def chunk (left : List Byte) : List Byte := left.take (max 1 Config.programBytes)

/-- The oldest pending entry's record body. -/
def Recorder.currentBody (r : Recorder) : List Byte :=
  match r.pendingQueue with
  | [] => []
  | e :: _ => recordBody e r.blocks

/-- Entry into COMMITTING: retention is decided and the header program asked for (R167). -/
def State.commit (s : State) (job : StoreJob) : State :=
  match s.recorder.pendingQueue with
  | [] => s
  | e :: _ =>
    let retained := e.retention && decide (s.store.retained < 48)
    let refused := e.retention && !decide (s.store.retained < 48)
    let st : Store := { s.store with phase := .committing, job := some { job with retained := retained } }
    { s with store := st.ask (.programHeader job.target (recordHeader e retained refused s.recorder.currentBody)) }

/-- The next body program asked for, or COMMITTING after the last (R166). -/
def State.programNext (s : State) (job : StoreJob) : State :=
  match s.recorder.currentBody.drop job.position with
  | [] => s.commit job
  | left =>
    let st : Store := { s.store with phase := .writing, job := some job }
    { s with store := st.ask (.programBody job.target job.position (chunk left)) }

/-- The store completes (R167). -/
def State.storeComplete (s : State) (job : StoreJob) : State :=
  match s.recorder.pendingQueue with
  | [] => s
  | e :: _ =>
    let line := DirLine.valid e.incident.number job.retained (firstCause e.incident) s.recorder.currentBody.length
    State.startTest { s with
      recorder := s.recorder.retire
      store := { (s.store.setLine job.target line) with
        phase := .idle, job := none, lastWritten := some job.target,
        retained := s.store.retained + job.retained.toNat } }

/-! ### What the flash holds -/

/-- Bytes put in place of a region of the flash, cut or filled with FF to its length. -/
def overlay (flash : Memory) (addr n : Nat) (bs : List Byte) : Memory :=
  Memory.writeBytes 0xFF (flash.clear addr n) addr (bs.take n)

/-- The slot and place that an operation changes: address and length of the region. -/
def FlashOp.region : FlashOp → Option (Nat × Nat)
  | .eraseTarget k | .eraseCleanup k | .eraseAll k => some (slotAddress k, slotSize)
  | .eraseConfig => some (0, slotSize)
  | .programBody k p bs => some (slotAddress k + headerSize + p, bs.length)
  | .programHeader k bs => some (slotAddress k, bs.length)
  | .programConfig p bs => some (p, bs.length)
  | .readImage | .readIncident _ _ _ | .scanRead _ => none

/-- The bytes that an operation programs; an erase leaves FF. -/
def FlashOp.data : FlashOp → List Byte
  | .programBody _ _ bs | .programHeader _ bs | .programConfig _ bs => bs
  | _ => []

/-- The flash after an operation that succeeded. -/
def FlashOp.done (op : FlashOp) (flash : Memory) : Memory :=
  match op.region with
  | none => flash
  | some (a, n) => overlay flash a n op.data

/-- The flash after an operation that failed and left `left` in the region it was to change (log entry 22). -/
def FlashOp.leftBy (op : FlashOp) (flash : Memory) (left : List Byte) : Memory :=
  match op.region with
  | none => flash
  | some (a, n) => overlay flash a n left

/-- The flash after an erase or a program of this result. -/
def FlashOp.after (op : FlashOp) (flash : Memory) : FlashResult → Memory
  | .ok => op.done flash
  | .failed left => op.leftBy flash left

/-- The operation in flight ends with a result: the interface is free and the flash has changed. -/
def State.endOp (s : State) (op : FlashOp) (r : FlashResult) : State :=
  { s with store := { s.store with inFlight := none }, flash := op.after s.flash r }

end Sys2Proof.Machine
end

