-- ==== Sys2Proof/Machine/Urgent.lean ====
section
/-! DEFINITION. Handing an entry to the urgent queue (R75, R76). -/

namespace Sys2Proof.Machine

/-- Whether the head of a class is in transmission, jam included (R71). -/
def Transmitter.carries (tx : Transmitter) (c : TxClass) : Bool :=
  match tx with
  | .idle => false
  | .sending cls _ => cls == c
  | .jamming cls _ => cls == some c

/-- A frame that enters its class: no sequence number, no attempts, no wait. -/
def newFrame (kind : FrameKind) (payload : List Byte) : TxFrame :=
  { kind := kind, payload := payload, seq := none, k := 0, wait := none }

/-- A frame that takes the place of another one, with its sequence number, attempt count and back-off wait
(R76, R77). -/
def TxFrame.inPlaceOf (new old : TxFrame) : TxFrame := { new with seq := old.seq, k := old.k, wait := old.wait }

/-- Which older entry a new entry of a kind may take the place of in a full queue (R76). -/
def replaceable (new old : FrameKind) : Bool :=
  match new with
  | .slideNotice => old == .slideNotice
  | .emergencyNotice => old != .emergencyNotice
  | .incidentMark => old == .slideNotice
  | .statement => false

/-- The first entry that a new one may replace is replaced in its place (R76); absent when there is none. -/
def replaceIn (new : TxFrame) : List TxFrame → Option (List TxFrame)
  | [] => none
  | f :: fs =>
    if replaceable new.kind f.kind then some (new.inPlaceOf f :: fs)
    else (replaceIn new fs).map (f :: ·)

/-- A full queue takes a new entry (R76); the entry in transmission, its head, is no candidate. -/
def replaceInQueue (inTx : Bool) (new : TxFrame) : List TxFrame → Option (List TxFrame)
  | [] => none
  | f :: fs => if inTx then (replaceIn new fs).map (f :: ·) else replaceIn new (f :: fs)

/-- An urgent entry handed over (R75, R76). -/
def State.handUrgent (s : State) (kind : FrameKind) (payload : List Byte) : State :=
  if s.line.state ≠ .active then s.bump .urgentDiscarded
  else if s.line.queue.length < 4 then
    { s with line := { s.line with queue := s.line.queue ++ [newFrame kind payload] } }
  else
    match replaceInQueue (s.line.tx.carries .urgent) (newFrame kind payload) s.line.queue with
    | some q => State.bump { s with line := { s.line with queue := q } } .urgentOverflow
    | none => s.bump .urgentOverflow

end Sys2Proof.Machine
end

