-- ==== Sys2Proof/Machine/Incidents.lean ====
section
/-! DEFINITION. Triggers and incidents (section 9): taking a trigger, opening, appending and closing, and the messages
that a unit hands to the others in an event. -/

namespace Sys2Proof.Machine

/-- The line of a cause in the trigger table in force (R147). -/
def State.triggerLine (s : State) (cause : Cause) : TriggerLine :=
  s.config.triggers.getD (causeCode cause - 1) ⟨false, .low, 0⟩

/-- The numbers are exhausted once the open that takes the largest one has been made (R150). -/
def lastNumber : Nat := 4294967295

/-- The latest pressure set's channels; before the first set every channel carries no value (R7, R151). -/
def Acquisition.latestChans (u : Acquisition) : Quad PressItem :=
  match u.latest with
  | some p => p.chans
  | none => u.chans.map fun ch => { state := ch.state, value := none }

/-- The summary of an incident opened now (R151). SD, Eact, Fcmd and U are those of the most recent control cycle, as
its table says, also where a later event of their owner has changed them (log entry 44). -/
def State.summary (s : State) : Summary :=
  { mode := s.demand.mode, line := s.line.state, linkUp := s.outputs.linkUp,
    assisted := s.slide.speedAssisted, standstill := s.slide.standstill,
    d := s.demand.d, sd := s.outputs.cycle.sd, ce := s.sharing.ce, ecmd := s.outputs.ecmd,
    eact := s.outputs.cycle.eact, fcmd := s.outputs.cycle.fcmd, u := s.outputs.cycle.u, bcOut := s.outputs.bcOut,
    press := s.acq.latestChans, vref := s.slide.vref, a := s.slide.a, al := s.slide.al,
    axles := s.slide.machines.map AxleMachine.state, speeds := s.acq.axles.map AxleSpeed.v,
    peaks := s.recorder.peaks }

/-- The peer snapshot taken now (R94, R152). -/
def State.snapshot (s : State) : List SnapshotEntry :=
  s.peers.entries.map fun e =>
    { addr := e.addr, state := e.state, group := e.group, age := e.heard.map (since s.now), last := e.last }

/-- The incident that a trigger opens now (R150). -/
def State.newIncident (s : State) (t : Trigger) : Incident :=
  { number := s.store.nextNumber, openMs := s.nowMs,
    windowEnd := s.nowMs + (s.triggerLine t.cause).post,
    truncated := false, overflowed := false, summary := s.summary,
    causes := [{ cause := t.cause, offset := 0, detail := t.detail, origin := t.origin }], snapshot := s.snapshot }

/-- The next incident number after one is taken (R150). -/
def Store.takeNumber (st : Store) : Store :=
  if st.nextNumber = lastNumber then { st with exhausted := true } else { st with nextNumber := st.nextNumber + 1 }

/-- The slide holdoff time after a trigger is taken into an incident (R149). -/
def holdoffAfter (t : Trigger) (now : Time) (old : Option Time) : Option Time :=
  if t.cause = .slideEntry then some now else old

/-- A trigger opens an incident: its number, its summary, its snapshot and its window, the peaks restarted and the
mark handed over (R150, R153). -/
def State.openIncident (s : State) (t : Trigger) : State :=
  let inc := s.newIncident t
  let s' : State :=
    { s with
      recorder := { s.recorder with
        capture := some inc, state := .capturing, peaks := resetPeaks,
        holdoff := holdoffAfter t s.now s.recorder.holdoff }
      store := s.store.takeNumber }
  if t.cause ≠ .peerMark ∧ s.line.state = .active ∧ s.config.sendMarks = true then
    s'.handUrgent .incidentMark (incidentMarkBytes inc.number t.cause)
  else s'

/-- A trigger appended to the incident in capture (R154). -/
def State.appendCause (s : State) (t : Trigger) (inc : Incident) : State :=
  let line := s.triggerLine t.cause
  let room := decide (inc.causes.length < 8)
  let inc' : Incident :=
    { inc with
      causes := if room then
          inc.causes ++ [{ cause := t.cause, offset := s.nowMs - inc.openMs, detail := t.detail, origin := t.origin }]
        else inc.causes
      overflowed := inc.overflowed || !room
      windowEnd := if line.importance = .high then
          min (max inc.windowEnd (s.nowMs + line.post)) (inc.openMs + 10000)
        else inc.windowEnd }
  { s with recorder := { s.recorder with
      capture := some inc'
      holdoff := if room then holdoffAfter t s.now s.recorder.holdoff else s.recorder.holdoff } }

/-- Whether an incident requests retention: by its first cause alone (R159). -/
def Incident.requestsRetention (i : Incident) : Bool :=
  match i.causes.head? with
  | some e => e.cause == .emergencyLocal || e.cause == .emergencyPeer || e.cause == .ventTimeout
  | none => false

/-- A closed incident appended to the pending queue, the Recorder in IDLE, and the start test (R158, R165). -/
def State.queueClosed (s : State) (r : Recorder) (inc : Incident) (tracesAbsent : Bool) (frozen : List FrozenList) : State :=
  let e : PendingEntry :=
    { incident := inc, closeTime := s.now, tracesAbsent := tracesAbsent, retention := inc.requestsRetention,
      frozen := frozen }
  State.startTest { s with recorder := { r with
    pendingQueue := r.pendingQueue ++ [e], state := .idle, capture := none } }

/-- The close of the incident in capture (R158). -/
def State.closeIncident (s : State) (truncated : Bool) : State :=
  match s.recorder.capture with
  | none => s
  | some i =>
    let inc := { i with truncated := truncated }
    if 4 ≤ s.recorder.pendingQueue.length then
      State.bump { s with recorder := { s.recorder with state := .idle, capture := none } } .incidentsLost
    else if s.recorder.spare.length < s.recorder.runningCount then s.queueClosed s.recorder inc true []
    else
      let f := s.recorder.freeze
      s.queueClosed (f.1.round true) inc false f.2

/-- A SLIDE_ENTRY within the holdoff (R148). -/
def State.heldOff (s : State) (t : Trigger) : Bool :=
  t.cause == .slideEntry &&
    match s.recorder.holdoff with
    | none => false
    | some h => decide (since s.now h < 10000)

/-- The Recorder takes a trigger by the tests of R148 in their order (R148, R157). So in SCANNING the trigger of a disabled
cause is counted, although R160 says that a disabled cause counts nowhere (log entry 49). -/
def State.raise (s : State) (t : Trigger) : State :=
  if s.recorder.state = .scanning then s.bump .ignoredInScanning
  else if (s.triggerLine t.cause).enable = false then s
  else if s.heldOff t then s.bump .heldOff
  else if (s.triggerLine t.cause).importance = .low ∧ s.config.gate ≤ s.recorder.pendingQueue.length then
    s.bump .gated
  else
    match s.recorder.capture with
    | some inc => s.appendCause t inc
    | none =>
      if s.store.exhausted then s.bump .ignoredInScanning
      else if s.powerFail then (s.openIncident t).closeIncident true
      else s.openIncident t

/-- What a unit hands to others in an event. -/
inductive Message where
  | event (source : EventSource) (detail : List Byte)
  | trigger (t : Trigger)
  | urgent (kind : FrameKind) (payload : List Byte)
  | count (i : CounterId)
deriving DecidableEq, Repr

/-- A trigger without an origin. -/
def causeOf (c : Cause) (detail : List Byte) : Message := .trigger { cause := c, detail := detail, origin := none }

/-- One message delivered. -/
def State.deliver (s : State) : Message → State
  | .event source detail => s.logEvent source detail
  | .trigger t => s.raise t
  | .urgent kind payload => s.handUrgent kind payload
  | .count i => s.bump i

/-- Messages delivered in the order the unit gave them (log entry 11). -/
def State.deliverAll (s : State) (ms : List Message) : State := ms.foldl State.deliver s

end Sys2Proof.Machine
end

