-- ==== Sys2Proof/Machine/Peers.lean ====
section
/-! DEFINITION. The peer table (section 5): statement arrivals, notices and marks, ageing. Each operation gives the new
entries and the messages that the Line Unit then hands over. -/

namespace Sys2Proof.Machine

/-- The event record of a change of an entry (R94): the group is that of the entry after the change, or before it
when no entry is left (log entry 29). -/
def peerEvent (e : PeerEntry) (old new : Nat) (cause : EventCause) : Message :=
  .event .peerEntry
    (be8 e.addr ++ [beBool e.fixed] ++ be8 (groupCode e.group) ++ be8 old ++ be8 new ++ be8 (eventCauseCode cause))

/-- Whether a peer takes part in assistance and sharing by state and group (R21, R39, R100). -/
def PeerEntry.liveInGroup (e : PeerEntry) (group : Nat) : Bool := e.state == .live && e.group == some group

/-- The entry of an address. -/
def findPeer (es : List PeerEntry) (addr : Nat) : Option PeerEntry := es.find? fun e => e.addr == addr

/-- An entry changed in its place. -/
def setPeer (es : List PeerEntry) (e : PeerEntry) : List PeerEntry :=
  es.map fun x => if x.addr == e.addr then e else x

/-- A new entry put in its place by address (R81). -/
def insertPeer (e : PeerEntry) : List PeerEntry → List PeerEntry
  | [] => [e]
  | x :: xs => if e.addr < x.addr then e :: x :: xs else x :: insertPeer e xs

/-- The entry of an address taken out. -/
def removePeer (es : List PeerEntry) (addr : Nat) : List PeerEntry := es.filter fun e => e.addr != addr

/-- A dynamic entry before its first statement (R84). -/
def newPeer (addr : Nat) : PeerEntry := { staticEntry addr with fixed := false }

/-- A sequence number against the last one (R85). -/
inductive SeqOutcome where
  | duplicate | stale
  | inOrder (diff : Nat)
deriving DecidableEq, Repr

/-- R85. An entry that has no last sequence takes any number as the next one. -/
def seqCheck (last : Option (BitVec 8)) (seq : BitVec 8) : SeqOutcome :=
  match last with
  | none => .inOrder 1
  | some l =>
    let diff := (seq - l).toNat
    if diff = 0 then .duplicate else if 128 ≤ diff then .stale else .inOrder diff

/-- The entry after a frame in order: last sequence and missed count (R85). -/
def PeerEntry.ordered (e : PeerEntry) (seq : BitVec 8) (diff : Nat) : PeerEntry :=
  { e with lastSeq := some seq, missed := min 65535 (e.missed + (diff - 1)) }

/-- A statement accepted into an entry (R87, R88), with the entry's change of state recorded under `cause` when it
comes from ABSENT or SILENT or is new. The first-statement time is made absent as the entry leaves JOINING (log entry
48). -/
def PeerEntry.accept (e : PeerEntry) (now : Time) (group : Nat) (seq : BitVec 8) (v : Statement) :
    PeerEntry :=
  let e' := { e with group := some group, lastSeq := some seq, last := some v, lastTime := some now,
                     heard := some now }
  match e.state with
  | .absent | .silent => { e' with state := .joining, entered := now, firstTime := some now }
  | .joining =>
    match e.firstTime with
    | none => { e' with firstTime := some now }
    | some t =>
      if since now t ≤ 500 then { e' with state := .live, entered := now, firstTime := none }
      else { e' with firstTime := some now }
  | .live | .unruly => e'

/-- The event record of an acceptance that changes the state. -/
def acceptEvent (e e' : PeerEntry) : List Message :=
  if e.state = e'.state then []
  else [peerEvent e' (peerCode e.state) (peerCode e'.state)
    (if e.state = .joining then .confirmed else .heard)]

/-- The excess window after an excess (R86); the count runs to 16 (section 5.1). -/
def excessAfter (x : Option Excess) (now : Time) : Excess :=
  match x with
  | none => { count := 1, start := now, last := now }
  | some w =>
    if since now w.start < 500 then { w with count := min 16 (w.count + 1), last := now }
    else { count := 1, start := now, last := now }

/-- An excess statement at an entry (R86, R89). The count reaches 16 also where it stood at 16 in a window kept from an
earlier UNRULY, so such an entry enters UNRULY at once (log entry 30). The excess leaves the first-statement time; the entry
into UNRULY makes it absent (log entry 48). -/
def PeerEntry.takeExcess (e : PeerEntry) (now : Time) : PeerEntry :=
  let w := excessAfter e.excess now
  let e' := { e with excess := some w }
  if 16 ≤ w.count ∧ (e.state = .live ∨ e.state = .joining) then
    { e' with state := .unruly, entered := now, firstTime := none }
  else e'

/-- A statement that arrives less than 20 ms after the last one accepted (R86). -/
def PeerEntry.isExcess (e : PeerEntry) (now : Time) : Bool :=
  match e.lastTime with
  | none => false
  | some t => decide (since now t < 20)

/-- A statement arrival at an entry that there is (R84 to R89). -/
def PeerEntry.statement (e : PeerEntry) (now : Time) (group : Nat) (seq : BitVec 8) (v : Statement) :
    PeerEntry × List Message :=
  match e.state with
  | .absent | .silent => (e.accept now group seq v, acceptEvent e (e.accept now group seq v))
  | .joining | .live | .unruly =>
    match seqCheck e.lastSeq seq with
    | .duplicate => (e, [.count .duplicates])
    | .stale => (e, [.count .staleFrames])
    | .inOrder diff =>
      let e₁ := e.ordered seq diff
      if e₁.isExcess now then
        let e₂ := e₁.takeExcess now
        (e₂, .count .excesses :: if e₁.state = e₂.state then []
               else [peerEvent e₂ (peerCode e₁.state) (peerCode e₂.state) .flooding])
      else (e₁.accept now group seq v, acceptEvent e₁ (e₁.accept now group seq v))

/-- The dynamic SILENT entry heard longest ago; of two with the same time, the lower address (R84). -/
def oldestSilent (now : Time) : List PeerEntry → Option PeerEntry
  | [] => none
  | e :: es =>
    let rest := oldestSilent now es
    if !e.fixed && e.state == .silent then
      match rest with
      | none => some e
      | some f => if (e.heard.map (since now)).getD 0 < (f.heard.map (since now)).getD 0 then some f else some e
    else rest

/-- A dynamic entry created for an address, with its first statement (R84, R87). -/
def createPeer (now : Time) (addr group : Nat) (seq : BitVec 8) (v : Statement) (es : List PeerEntry) :
    List PeerEntry × List Message :=
  let e := (newPeer addr).accept now group seq v
  (insertPeer e es, [peerEvent e noEntryCode (peerCode e.state) .created])

/-- A statement arrival at the table (R84). -/
def statementArrival (now : Time) (addr group : Nat) (seq : BitVec 8) (v : Statement) (es : List PeerEntry) :
    List PeerEntry × List Message :=
  match findPeer es addr with
  | some e =>
    let r := e.statement now group seq v
    (setPeer es r.1, r.2)
  | none =>
    if es.length < 15 then createPeer now addr group seq v es
    else
      match oldestSilent now es with
      | none => (es, [.count .tableRefusals])
      | some old =>
        let r := createPeer now addr group seq v (removePeer es old.addr)
        (r.1, peerEvent old (peerCode old.state) noEntryCode .evicted :: r.2)

/-- The values that a slide notice changes in the last statement (R93). -/
def lowered (v : Statement) (al : Nat) : Statement :=
  { v with al := al, ce := min v.ce al, flags := v.flags ||| 0x80 }

/-- A notice or mark at the table; `slideAl` is the AL of a slide notice (R92, R93). -/
def PeerEntry.hear (e : PeerEntry) (now : Time) (seq : BitVec 8) (slideAl : Option Nat) : PeerEntry × List Message :=
  match e.state with
  | .absent | .silent => (e, [])
  | .joining | .live | .unruly =>
    match seqCheck e.lastSeq seq with
    | .duplicate => (e, [.count .duplicates])
    | .stale => (e, [.count .staleFrames])
    | .inOrder diff =>
      let e₁ := { e.ordered seq diff with heard := some now }
      match slideAl with
      | none => (e₁, [])
      | some al => ({ e₁ with last := e₁.last.map fun v => lowered v al }, [])

/-- A notice or mark reaches the table only when its sender has an entry (section 5.4). -/
def hearArrival (now : Time) (addr : Nat) (seq : BitVec 8) (slideAl : Option Nat) (es : List PeerEntry) :
    List PeerEntry × List Message :=
  match findPeer es addr with
  | none => (es, [])
  | some e =>
    let r := e.hear now seq slideAl
    (setPeer es r.1, r.2)

/-! ### Ageing (R89 to R91) -/

/-- An UNRULY entry that has been calm for 2000 ms enters LIVE (R89). -/
def PeerEntry.calm (e : PeerEntry) (now : Time) : PeerEntry × List Message :=
  let quiet := match e.excess with
    | none => true
    | some w => decide (2000 ≤ since now w.last)
  if e.state = .unruly ∧ quiet = true then
    let e' := { e with state := .live, entered := now, excess := none }
    (e', [peerEvent e' (peerCode .unruly) (peerCode .live) .calmed])
  else (e, [])

/-- The trigger PEER_LOST (R90). -/
def peerLost (e : PeerEntry) : Message :=
  causeOf .peerLost
    (be8 e.addr ++ be8 (groupCode e.group) ++ be32 ((e.heard.map BitVec.toNat).getD 0) ++
      be8 ((e.last.map fun v => v.mode.toNat).getD 0))

/-- An entry not heard for 500 ms enters SILENT, where it has no first-statement time (log entry 48); a static one that was
LIVE is lost (R90). -/
def PeerEntry.age (e : PeerEntry) (now : Time) : PeerEntry × List Message :=
  let old := match e.heard with
    | none => true
    | some t => decide (500 ≤ since now t)
  if (e.state = .live ∨ e.state = .joining ∨ e.state = .unruly) ∧ old = true then
    let e' := { e with state := .silent, entered := now, firstTime := none }
    (e', peerEvent e' (peerCode e.state) (peerCode .silent) .aged ::
      if e.fixed = true ∧ e.state = .live then [peerLost e] else [])
  else (e, [])

/-- An entry SILENT for 3000 ms leaves SILENT: removed, or ABSENT for a static one (R91). -/
def PeerEntry.expire (e : PeerEntry) (now : Time) : Option PeerEntry × List Message :=
  if e.state = .silent ∧ 3000 ≤ since now e.entered then
    if e.fixed then
      let e' := { staticEntry e.addr with entered := now }
      (some e', [peerEvent e' (peerCode .silent) (peerCode .absent) .removed])
    else (none, [peerEvent e (peerCode .silent) noEntryCode .removed])
  else (some e, [])

/-- One entry at an ageing timer expiry: R89, R90 and R91 in that order (R90). -/
def PeerEntry.ageStep (now : Time) (e : PeerEntry) : Option PeerEntry × List Message :=
  let c := e.calm now
  let a := c.1.age now
  let x := a.1.expire now
  (x.1, c.2 ++ a.2 ++ x.2)

/-! ### On the state -/

/-- The table after an operation, whose messages are then delivered (log entry 11). -/
def State.withPeers (s : State) (r : List PeerEntry × List Message) : State :=
  State.deliverAll { s with peers := { s.peers with entries := r.1 } } r.2

/-- A statement arrival. -/
def State.peerStatement (s : State) (f : GoodFrame) : State :=
  s.withPeers (statementArrival s.now f.source f.group f.seq (parseStatement f.payload) s.peers.entries)

/-- A notice or mark arrival. -/
def State.peerHear (s : State) (f : GoodFrame) (slideAl : Option Nat) : State :=
  s.withPeers (hearArrival s.now f.source f.seq slideAl s.peers.entries)

/-- The ageing of all entries, in address order. -/
def State.agePeers (s : State) : State :=
  let steps := s.peers.entries.map (PeerEntry.ageStep s.now)
  s.withPeers (steps.filterMap Prod.fst, steps.flatMap Prod.snd)

end Sys2Proof.Machine
end

