-- ==== Sys2Proof/Machine/SharingOps.lean ====
section
/-! DEFINITION. The sharing stage of the control cycle (section 6). -/

namespace Sys2Proof.Machine

/-! ### Friction limits (R121) -/

/-- Pmax_eff from the MR value, when there is one. -/
def serviceLimit (c : Configuration) (mr : Option Nat) : Nat :=
  match mr with
  | none => c.pmax
  | some p => min c.pmax (p - 50)

/-- Fmax_eff of a Pmax_eff; 0 when Pmax_eff is not above Pth. -/
def fmaxEff (c : Configuration) (pmaxEff : Nat) : Nat := (pmaxEff - c.pth) * c.kf / 100

/-! ### The station's own capabilities (R98, R99) -/

/-- CE (R98), AL being the limit that the cycle uses. -/
def ownCe (c : Configuration) (mode : Mode) (o : Outputs) (al : Nat) : Nat :=
  if mode = .emergency then 0
  else if o.linkUp = false then 0
  else if c.emax = 0 then 0
  else if o.status.fault = true ∨ o.status.ready = false then 0
  else if o.fade then min o.status.eav (min al (o.status.eact + c.etol))
  else min o.status.eav al

/-- FX (R99). -/
def ownFx (c : Configuration) (o : Outputs) (mr : Option Nat) : Nat :=
  if o.frictionFault then 0 else min 4095 (fmaxEff c (serviceLimit c mr))

/-! ### The membership set (R100, R101) -/

/-- The four values of a member (R101). -/
structure Member where
  d  : Nat
  ce : Nat
  fx : Nat
  al : Nat
deriving DecidableEq, Repr

/-- A peer member's values, none taken above 4095 EU (R101). -/
def peerMember (v : Statement) : Member :=
  { d := min 4095 v.d, ce := min 4095 v.ce, fx := min 4095 v.fx, al := min 4095 v.al }

/-- The peers that enter M when the station is not alone (R100, law 7). -/
def peerMembers (es : List PeerEntry) (group : Nat) : List Member :=
  es.filterMap fun e =>
    match e.last with
    | none => none
    | some v => if e.liveInGroup group && !v.inEmergency then some (peerMember v) else none

/-- The alone reason outside EMERGENCY (R100). -/
def aloneReason (l : Line) (now : Time) : Alone :=
  if l.state = .active then
    match l.activeSince with
    | none => .joinHold
    | some t => if since now t < 300 then .joinHold else .none
  else .line

/-! ### The computation (R102 to R105) -/

/-- A member's friction headroom, 0 when its AL is below its CE (R104). -/
def Member.headroom (m : Member) : Nat := min m.fx (m.al - m.ce)

/-- Case A (R103). -/
def Sharing.caseA (r : Sharing) : Sharing :=
  let e := r.sd * 65536 / r.se
  { r with kind := .a, fraction := some e, et := r.ce * e / 65536, ft := 0, u := 0, sh := 0 }

/-- Case B (R104, R105), over the members with the station's own. -/
def Sharing.caseB (r : Sharing) (own : Member) (ms : List Member) : Sharing :=
  let delta := r.sd - r.se
  let sh := sumOf (ms.map Member.headroom)
  let r' := { r with kind := .b, et := r.ce, hk := own.headroom, sh := sh }
  if sh = 0 then { r' with fraction := none, ft := 0, u := delta }
  else if delta ≤ sh then
    let g := ceilDiv (delta * 65536) sh
    { r' with fraction := some g, ft := min own.headroom (ceilDiv (own.headroom * g) 65536), u := 0 }
  else { r' with fraction := none, ft := own.headroom, u := delta - sh }

/-- The sums and the case over M, the station's own values first (R102). -/
def Sharing.compute (r : Sharing) (own : Member) (peers : List Member) : Sharing :=
  let ms := own :: peers
  let r' := { r with members := ms.length, sd := sumOf (ms.map Member.d), se := sumOf (ms.map Member.ce) }
  if r'.sd = 0 then { r' with kind := .none, fraction := none, sh := 0, et := 0, ft := 0, u := 0 }
  else if r'.sd ≤ r'.se then r'.caseA
  else r'.caseB own ms

/-- The stage in EMERGENCY (R97). -/
def Sharing.emergency (r : Sharing) : Sharing :=
  { r with members := 0, alone := .emergency, sd := 0, se := 0, sh := 0, kind := .none, fraction := none, et := 0,
           ft := 0, u := 0 }

/-- The sharing stage on the stage's own state: the capabilities, then the computation (R97). -/
def Sharing.stage (r : Sharing) (mode : Mode) (d ce fx al : Nat) (alone : Alone) (peers : List Member) : Sharing :=
  let r' := { r with ce := ce, fx := fx, al := al }
  if mode = .emergency then r'.emergency
  else
    let own : Member := { d := d, ce := ce, fx := fx, al := al }
    Sharing.compute { r' with alone := alone } own (if alone = .none then peers else [])

/-- The sharing stage of a control cycle (R97). -/
def State.sharingStage (s : State) : State :=
  let al := s.slide.al
  let mode := s.demand.mode
  let fx := ownFx s.config s.outputs s.acq.latestChans.mr.value
  let peers := peerMembers s.peers.entries s.config.group
  let r := s.sharing.stage mode s.demand.d (ownCe s.config mode s.outputs al) fx al (aloneReason s.line s.now) peers
  { s with sharing := r }

end Sys2Proof.Machine
end

