-- ==== Sys2Proof/Machine/DemandOps.lean ====
section
/-! DEFINITION. The demand section (section 2): the station's own demand, the brake modes, entry into EMERGENCY and its
exit, and the emergency setpoint that the output section drives with them (R123, R124). -/

namespace Sys2Proof.Machine

/-! ### The cylinder setpoint (R123, R124) -/

/-- A new BCout driven; a change of more than 10 kPa from the settle reference moves the reference (R124). -/
def Outputs.drive (o : Outputs) (v : Nat) (now : Time) : Outputs :=
  if o.bcOut = v then o
  else if v ≤ o.settleRef + 10 ∧ o.settleRef ≤ v + 10 then { o with bcOut := v }
  else { o with bcOut := v, settleRef := v, settleTime := now }

/-- The emergency setpoint, IND counting as 0 when it carries no value (R123). -/
def emergencyPressure (c : Configuration) (ind : Option Nat) : Nat := max c.pemg (ind.getD 0)

/-- The emergency setpoint driven (R123). -/
def State.driveEmergency (s : State) : State :=
  let v := emergencyPressure s.config s.acq.latestChans.ind.value
  { s with outputs := Outputs.drive { s.outputs with bcSet := 0 } v s.now }

/-! ### The demand of a cycle (R19 to R23) -/

/-- D_bp from the station's own brake pipe (R20). -/
def ownDbp (c : Configuration) (bp : Nat) : Nat :=
  let r := c.bpRef - bp
  if r < c.rmin then 0
  else if r < c.rfull then c.dfull * (r - c.rmin) / (c.rfull - c.rmin)
  else c.dfull

/-- The D values of the eligible peers' last statements (R21, law 11). -/
def eligibleDemands (es : List PeerEntry) (group : Nat) : List Nat :=
  es.filterMap fun e =>
    match e.last with
    | none => none
    | some v => if e.liveInGroup group && !v.demandAssisted then some v.d else none

/-- D_h (R23). -/
def handleDemand (c : Configuration) (h : Nat) : Nat := c.dfull * h / 1000

/-- The demand computed from the brake pipe, the peers and the handle (R19 to R23). -/
def Demand.compute (m : Demand) (c : Configuration) (bp : Option Nat) (peers : List Nat) (h : Nat) : Demand :=
  let dH := handleDemand c h
  match bp with
  | some p =>
    let x := ownDbp c p
    { m with dBp := x, lastOwn := x, assisted := false, dH := dH, d := min 4095 (max x dH) }
  | none =>
    let x := (lowerMedian peers).getD m.lastOwn
    { m with dBp := x, assisted := true, dH := dH, d := min 4095 (max x dH) }

/-- The demand computation of a control cycle (R19). -/
def State.computeDemand (s : State) : State :=
  let peers := eligibleDemands s.peers.entries s.config.group
  { s with demand := s.demand.compute s.config s.acq.latestChans.bp.value peers s.acq.handle.h }

/-! ### Modes (R24, R25) -/

/-- A change of mode with its event record; `more` is what follows the cause (R25). -/
def State.changeMode (s : State) (new : Mode) (cause : EventCause) (more : List Byte) : State :=
  State.logEvent { s with demand := { s.demand with mode := new } } .mode
    (be8 (modeCode s.demand.mode) ++ be8 (modeCode new) ++ be8 (eventCauseCode cause) ++ more)

/-- The mode that R24 gives from D, SD, Ecmd and Fcmd. -/
def cycleMode (d sd ecmd fcmd : Nat) : Mode := if 0 < d ∨ 0 < sd ∨ 0 < ecmd ∨ 0 < fcmd then .service else .released

/-- The mode evaluation that closes a control cycle (R24). -/
def State.evaluateMode (s : State) : State :=
  if s.demand.mode = .emergency then s
  else
    let new := cycleMode s.demand.d s.sharing.sd s.outputs.ecmd s.outputs.fcmd
    if new = s.demand.mode then s else s.changeMode new .cycle []

/-! ### The exit timer (R30) -/

/-- T_exit in µs. -/
def exitTime : Nat := 60000 * 1000

/-- The exit timer after an entry or a restart (R27, R29, R30). -/
def restartedTimer (standstill : Bool) (clock : Nat) : ExitTimer :=
  if standstill then .running (clock + exitTime) else .stopped

/-- The exit timer restarted by a local detection or a notice (R29, R30). -/
def State.restartExit (s : State) : State :=
  { s with demand := { s.demand with exitTimer := restartedTimer s.slide.standstill s.clock } }

/-- A change of the standstill flag at the demand section (R30). -/
def State.standstillChanged (s : State) : State :=
  if s.slide.standstill then (if s.demand.mode = .emergency then s.restartExit else s)
  else { s with demand := { s.demand with exitTimer := .stopped } }

/-! ### Entry into EMERGENCY (R26 to R29) -/

/-- SD, E_t, F_t and U stand at 0 while the mode is EMERGENCY (R27). -/
def Sharing.inEmergency (r : Sharing) : Sharing := { r with sd := 0, et := 0, ft := 0, u := 0 }

/-- Entry into EMERGENCY (R27): the mode, the setpoint, the sharing values, the exit timer and the event record. -/
def State.enterEmergency (s : State) (cause : EventCause) (more : List Byte) : State :=
  let s' := (s.changeMode .emergency cause more).driveEmergency
  State.restartExit { s' with sharing := s'.sharing.inEmergency }

/-- What the local emergency test detects (R26): level before rate; absent when the test is not met. -/
def localDetection (c : Configuration) (bp : Option Nat) (fall : Int) : Option (Detection × Nat) :=
  match bp with
  | none => none
  | some p =>
    if p < c.bpEmerg then some (.level, p)
    else if (c.remerg : Int) ≤ fall then some (.rate, p)
    else none

def detectionEvent : Detection → EventCause
  | .level => .localLevel | .rate => .localRate

/-- The notice sequence begins: the first copy handed over and two more to come (R28). -/
def State.beginNotices (s : State) (cause : Detection) (bp : Nat) : State :=
  State.handUrgent
    { s with demand := { s.demand with
        notice := some { cause := cause, bp := bp }, noticeLeft := 2, repeatDue := some (s.clock + 20000) } }
    .emergencyNotice (emergencyNoticeBytes cause 1 bp)

/-- The trigger EMERGENCY_LOCAL (R26). -/
def localTrigger (cause : Detection) (bp : Nat) (fall : Int) : Message :=
  causeOf .emergencyLocal (be8 (detectionCode cause) ++ be16 bp ++ beInt16 fall)

/-- A local detection (R26). -/
def State.detect (s : State) (cause : Detection) (bp : Nat) (fall : Int) : State :=
  if s.demand.mode = .emergency then s.restartExit
  else
    ((s.enterEmergency (detectionEvent cause) []).deliver (localTrigger cause bp fall)).beginNotices cause bp

/-- The next copy of a running notice sequence (R28). -/
def State.repeatNotice (s : State) : State :=
  match s.demand.notice with
  | none => { s with demand := { s.demand with repeatDue := none, noticeLeft := 0 } }
  | some n =>
    let copy := 4 - s.demand.noticeLeft
    let left := s.demand.noticeLeft - 1
    State.handUrgent
      { s with demand := { s.demand with
          noticeLeft := left
          repeatDue := if left = 0 then none else s.demand.repeatDue.map (· + 20000)
          notice := if left = 0 then none else some n } }
      .emergencyNotice (emergencyNoticeBytes n.cause copy n.bp)

/-- The trigger EMERGENCY_PEER: source address, group, cause and BP (R29). -/
def peerTrigger (f : GoodFrame) : Message :=
  causeOf .emergencyPeer
    (be8 f.source ++ be8 f.group ++ be8 (byteAt f.payload 0 / 16) ++ be16 (be16At f.payload 1))

/-- A received notice at the demand section (R29). -/
def State.takeNotice (s : State) (f : GoodFrame) : State :=
  if s.demand.mode = .emergency then s.restartExit
  else (s.enterEmergency .peer (be8 f.source)).deliver (peerTrigger f)

/-! ### Leaving EMERGENCY (R31, R32) -/

/-- The exit condition of R31 on the latest pressure set. -/
def exitReady (c : Configuration) (bp : PressItem) : Bool :=
  bp.state == .valid && match bp.value with
    | none => false
    | some p => decide (c.bpRef - 20 ≤ p)

/-- The station leaves EMERGENCY (R31). -/
def State.leaveEmergency (s : State) : State :=
  let s' := s.changeMode (if 0 < s.demand.d ∨ 0 < s.sharing.sd then .service else .released) .exit []
  { s' with demand := { s'.demand with exitTimer := .stopped }, outputs := { s'.outputs with fcmd := s.sharing.fx } }

/-- The exit check (R31). -/
def State.exitCheck (s : State) : State :=
  if exitReady s.config s.acq.latestChans.bp then s.leaveEmergency
  else { s with demand := { s.demand with exitTimer := .expired } }

/-- A pressure set arrival at the demand section (R26, R32). -/
def State.demandArrival (s : State) : State :=
  match localDetection s.config s.acq.latestChans.bp.value s.acq.fall with
  | some (cause, bp) => s.detect cause bp s.acq.fall
  | none => if s.demand.exitTimer = .expired then s.exitCheck else s

end Sys2Proof.Machine
end

