-- ==== Sys2Proof/Machine/Line.lean ====
section
/-! DEFINITION. The Line Unit's statements, transmit classes, line states and receptions (section 4), short of the
emergency notice's effect, which is the demand section's. -/

namespace Sys2Proof.Machine

/-! ### Statements (R77, R78, R107, R108) -/

/-- The CE stated now: that of the most recent control cycle, at most the current AL (R107, R108). A cycle taken in
EMERGENCY brings it to 0 (R98); a statement built between an entry and that cycle follows R107 and R108, to whose section
the row of R27 refers (log entry 13). -/
def State.statedCe (s : State) : Nat := min s.sharing.ce s.slide.al

/-- The effort statement built at this moment (R107, R108). -/
def State.buildStatement (s : State) : Statement :=
  { d := s.demand.d, ce := s.statedCe, fx := s.sharing.fx, al := s.slide.al, vref := s.slide.vref,
    ecmd := s.outputs.ecmd, fcmd := s.outputs.cycle.fcmd, u := s.outputs.cycle.u,
    mode := BitVec.ofNat 8 (modeCode s.demand.mode), flags := s.statementFlags }

/-- A statement entered in the routine slot (R77). -/
def State.enterRoutine (s : State) (f : TxFrame) : State :=
  match s.line.slot with
  | none => { s with line := { s.line with slot := some f } }
  | some old =>
    if s.line.tx.carries .routine then
      let s' := { s with line := { s.line with nextStatement := some f } }
      if s.line.nextStatement.isSome then s'.bump .superseded else s'
    else State.bump { s with line := { s.line with slot := some (f.inPlaceOf old) } } .superseded

/-- Whether both spacing intervals of R78 have passed. -/
def State.spaced (s : State) : Bool :=
  let apart (t : Option Time) : Bool := match t with
    | none => true
    | some t => decide (20 ≤ since s.now t)
  apart (s.line.lastQueuedAt.map reading) && apart s.line.lastSentEnd

/-- A statement queued: built, recorded as the last one queued, entered by R77, the timer restarted at 100 ms and
nothing due any more (R78). -/
def State.queueStatement (s : State) : State :=
  let v := s.buildStatement
  let s' := s.enterRoutine (newFrame .statement (statementBytes v))
  { s' with line := { s'.line with
      due := false, statementDue := some (s.clock + 100000), lastQueued := some v, lastQueuedAt := some s.clock,
      queuedInActive := true } }

/-- An occasion makes a statement due in ACTIVE; it is queued at once or held by the spacing (R78). -/
def State.makeDue (s : State) : State :=
  if s.line.state = .active then
    if s.spaced then s.queueStatement else { s with line := { s.line with due := true } }
  else s

/-! ### Line states (R67 to R70) -/

/-- A change of line state with its event record (R67). -/
def State.setLine (s : State) (new : LineState) (cause : EventCause) : State :=
  State.logEvent { s with line := { s.line with state := new } } .line
    (be8 (lineCode s.line.state) ++ be8 (lineCode new) ++ be8 (eventCauseCode cause))

/-- Entry into ACTIVE at the end of LISTENING (R67). -/
def State.listenEnds (s : State) : State :=
  let s' := s.setLine .active .listenEnd
  State.queueStatement { s' with line := { s'.line with
    activeSince := some s.now, listenDue := none, queuedInActive := false } }

/-- Entry into ACTIVE by a probe that has been sent (R67, R69). -/
def State.probeSent (s : State) : State :=
  let s' := s.setLine .active .probeSent
  { s' with line := { s'.line with activeSince := some s.now, hold := 2000, holdDue := none,
                                   statementDue := s.line.lastQueuedAt.map (· + 100000), queuedInActive := false } }

/-- The classes emptied and the statement timer stopped, each urgent entry counted as discarded (R68, R70). -/
def State.emptyClasses (s : State) : State :=
  State.bumpN { s with line := { s.line with
      queue := [], slot := none, nextStatement := none, statementDue := none, due := false } }
    .urgentDiscarded s.line.queue.length

/-- Why a frame was abandoned (R68, code set of R188). -/
inductive Abandon where
  | excessive | late
deriving DecidableEq, Repr

def abandonCode : Abandon → Nat
  | .excessive => 1 | .late => 2

/-- Entry into ISOLATED by a third abandonment (R68). -/
def State.isolate (s : State) (kind : FrameKind) (why : Abandon) : State :=
  let s₁ := (s.setLine .isolated .trouble).emptyClasses
  let s₂ : State := { s₁ with line := { s₁.line with hold := 2000, holdDue := some (s.clock + 2000 * 1000) } }
  s₂.deliver (causeOf .lineIsolated (be8 (frameCode kind) ++ be8 (abandonCode why)))

/-- What an abandonment does to the line (R68, R69). -/
def State.abandoned (s : State) (kind : FrameKind) (why : Abandon) : State :=
  if s.line.state = .isolated then
    let hold := min 16000 (2 * s.line.hold)
    { s with line := { s.line with hold := hold, holdDue := some (s.clock + hold * 1000) } }
  else if s.line.state = .active then
    let s' := { s with line := { s.line with trouble := min 3 (s.line.trouble + 1) } }
    if 3 ≤ s.line.trouble + 1 then s'.isolate kind why else s'
  else s

/-- A probe built and placed in the routine slot; the statement counts as queued (R69, R78). -/
def State.placeProbe (s : State) : State :=
  let v := s.buildStatement
  { s with line := { s.line with
      slot := some (newFrame .statement (statementBytes v)), holdDue := none,
      lastQueued := some v, lastQueuedAt := some s.clock } }

/-- A clash: counted, and the second one takes the line to CLASHED (R70). -/
def State.clash (s : State) (f : GoodFrame) : State :=
  let s₁ := State.bump { s with line := { s.line with clashes := min 2 (s.line.clashes + 1) } } .addressClashes
  if 2 ≤ s.line.clashes + 1 ∧
      (s.line.state = .listening ∨ s.line.state = .active ∨ s.line.state = .isolated) then
    let s₂ := (s₁.setLine .clashed .clash).emptyClasses
    let s₃ : State := { s₂ with line := { s₂.line with holdDue := none, listenDue := none } }
    s₃.deliver (causeOf .addressClash (be8 (frameCode f.kind) ++ be8 f.group ++ [f.seq]))
  else s₁

/-! ### Attempts (R71 to R74) -/

/-- The frame at the head of a class. -/
def Line.head (l : Line) : TxClass → Option TxFrame
  | .urgent => l.queue.head?
  | .routine => l.slot

/-- The frame at the head of a class changed. -/
def Line.setHead (l : Line) (c : TxClass) (f : TxFrame) : Line :=
  match c with
  | .urgent => { l with queue := f :: l.queue.tail }
  | .routine => { l with slot := some f }

/-- The class that the next attempt takes: the urgent queue when it holds an entry (R71). -/
def Line.nextClass (l : Line) : TxClass := if l.queue.isEmpty then .routine else .urgent

/-- The head of a class leaves it; from the routine slot, the next statement enters it with k = 0 (R72, R74, R77). -/
def Line.leave (l : Line) (c : TxClass) : Line :=
  match c with
  | .urgent => { l with queue := l.queue.tail }
  | .routine => { l with slot := l.nextStatement, nextStatement := none }

/-- Whether the line has been idle for the gap of 192 µs (R59). -/
def State.gapPassed (s : State) : Bool :=
  match s.line.lastActivityEnd with
  | none => true
  | some t => decide (t + 192 ≤ s.clock)

/-- Whether an attempt may start now, and of which class (R71). -/
def State.attemptClass (s : State) : Option TxClass :=
  if s.line.tx = .idle ∧ (s.line.state = .active ∨ s.line.state = .isolated) ∧ s.gapPassed = true then
    match s.line.head s.line.nextClass with
    | none => none
    | some f => if f.wait = none then some s.line.nextClass else none
  else none

/-- The header and payload of the station's own frame (R60). -/
def State.ownBody (s : State) (f : TxFrame) : List Byte :=
  frameBody f.kind s.address s.config.group (f.seq.getD 0) f.payload

/-- The frame as the transmitter drives it: header, payload and the CRC-16 after the last covered byte (R60, R188). -/
def State.ownFrame (s : State) (f : TxFrame) : List Byte := withCrc16 (s.ownBody f)

/-- A frame with the sequence number of its first attempt: the one it has, or the next one of the station (R60). -/
def Line.numbered (l : Line) (f : TxFrame) : TxFrame := { f with seq := some (f.seq.getD l.nextSeq) }

/-- An attempt starts: the frame at the head of the class goes out, and a first attempt takes the next sequence number
(R60, R71). -/
def State.startAttempt (s : State) (c : TxClass) : State :=
  match s.line.head c with
  | none => s
  | some f =>
    let f' := s.line.numbered f
    { s with line := { s.line.setHead c f' with
        tx := .sending c s.clock
        nextSeq := if f.seq.isSome then s.line.nextSeq else s.line.nextSeq + 1
        frameOut := s.ownFrame f' } }

/-- The back-off register advanced by one step (R73). -/
def backoffStep (r : BitVec 16) : BitVec 16 := if r.getLsbD 0 then (r >>> 1) ^^^ 0xB400#16 else r >>> 1

/-- The limit c of R73 for a class (R72). -/
def backoffLimit : TxClass → Nat
  | .urgent => 2 | .routine => 5

/-- The draw of R73 from the advanced register. -/
def backoffDraw (r : BitVec 16) (k : Nat) (c : TxClass) : Nat := r.toNat % 2 ^ min k (backoffLimit c)

/-- The own frame's kind at the head of a class; a class without one gives the statement kind. -/
def Line.headKind (l : Line) (c : TxClass) : FrameKind := ((l.head c).map TxFrame.kind).getD .statement

/-- A collision in the collision window (R72). -/
def State.collide (s : State) (c : TxClass) : State :=
  match s.line.head c with
  | none => s
  | some f =>
    let s₁ := s.bump .collisions
    let jamEnd := s.clock + 128
    if f.k + 1 < 10 then
      { s₁ with line := { s₁.line.setHead c { f with k := f.k + 1 } with tx := .jamming (some c) jamEnd } }
    else
      let s₂ := s₁.bump .excessiveCollisions
      State.abandoned { s₂ with line := { s₂.line.leave c with tx := .jamming none jamEnd } } f.kind .excessive

/-- The end of a jam: the draw of the frame's wait, and a waiting next statement takes the colliding one's place
(R72, R73, R77). -/
def State.jamEnds (s : State) (c : Option TxClass) : State :=
  let idle : Line := { s.line with tx := .idle, lastActivityEnd := some s.clock }
  match c with
  | none => { s with line := idle }
  | some c =>
    match s.line.head c with
    | none => { s with line := idle }
    | some f =>
      let reg := backoffStep s.line.backoff
      let r := backoffDraw reg f.k c
      let f' := { f with wait := if r = 0 then none else some (s.clock + r * 256) }
      let l := { idle.setHead c f' with backoff := reg }
      match c, l.nextStatement with
      | .routine, some n =>
        State.bump { s with line := { l with slot := some (n.inPlaceOf f'), nextStatement := none } } .superseded
      | _, _ => { s with line := l }

/-- A late collision: the frame is abandoned without a jam (R74). -/
def State.lateCollide (s : State) (c : TxClass) : State :=
  match s.line.head c with
  | none => s
  | some f =>
    let s₁ := s.bump .lateCollisions
    State.abandoned
      { s₁ with line := { s₁.line.leave c with tx := .idle, lastActivityEnd := some s.clock } } f.kind .late

/-- The time a frame takes on the line in µs (R59). -/
def frameTime (f : TxFrame) : Nat := (f.payload.length + 8) * 32

/-- A frame copied to the mirror channels whose mirror set has a bit (R66). -/
def State.mirror (s : State) (bit : Nat) (own : Bool) (body check : List Byte) : State :=
  let copied := mirrorRecord s.now own body check s.line.state
  { s with recorder := s.recorder.trace (fun ch => ofKind .peerMirror ch && ch.mirror.getLsbD bit) copied }

/-- An attempt read back clean sends its frame (R66, R69, R74). The mirror copy of a probe is made before the line enters
ACTIVE and bears ISOLATED (log entry 46). -/
def State.sendDone (s : State) (c : TxClass) : State :=
  match s.line.head c with
  | none => s
  | some f =>
    let s₁ := s.bump .framesSent
    let l := { s₁.line.leave c with tx := .idle, lastActivityEnd := some s.clock }
    let s₂ : State := { s₁ with line := { l with
      trouble := 0, lastSentEnd := if f.kind = .statement then some s.now else l.lastSentEnd } }
    let s₃ := s₂.mirror 31 true (s.ownBody f) (be16 (crc16 (s.ownBody f)).toNat)
    if s.line.state = .isolated then s₃.probeSent else s₃

/-! ### Receptions (R61 to R66) -/

/-- What a received bit stream is, by the checks of R61 in their order. -/
inductive Reception where
  | runt | crcError | malformed
  | good (f : GoodFrame)
deriving DecidableEq, Repr

/-- R61. -/
def classify (bs : List Byte) (extraBits : Nat) : Reception :=
  if bs.length < 11 ∨ extraBits ≠ 0 then .runt
  else if crcGood bs then
    match parseFrame bs with
    | none => .malformed
    | some f => .good f
  else .crcError

/-- An incident mark passed to the Recorder with its origin (R65, R155). -/
def markTrigger (f : GoodFrame) : Trigger :=
  { cause := .peerMark, detail := [], origin := some { addr := f.source, number := be32At f.payload 0 } }

end Sys2Proof.Machine
end

