-- ==== Sys2Proof/Machine/AcquisitionOps.lean ====
section
/-! DEFINITION. The Acquisition Unit (section 1): scan completions, tooth pulses, speed windows and the handle, as
functions on the unit. -/

namespace Sys2Proof.Machine

/-! ### Pressure channels (R1 to R6) -/

/-- The sample of a code (R2); absent for an invalid one. -/
def sampleOfCode (code : Nat) : Option Nat :=
  if code < 200 then none
  else if code < 400 then some 0
  else if code ≤ 3600 then some ((code - 400) * 1000 / 3200)
  else if code ≤ 3800 then some 1000
  else none

/-- The sample a channel has at the scan completion (R1): invalid without a conversion or after an error. -/
def Sampled.value : Sampled → Option Nat
  | .none => Option.none
  | .code c => sampleOfCode c.toNat
  | .error => Option.none

/-- A conversion delivered for a channel during the scan: an error makes the sample of the scan invalid, whatever
else is delivered (R1, log entry 32). -/
def Sampled.deliver (old : Sampled) : Conversion → Sampled
  | .error => .error
  | .code c => match old with
    | .error => .error
    | _ => .code c

/-- A scanned channel's step at a scan completion (R3). -/
def PressChan.step (ch : PressChan) : PressChan :=
  match ch.state, ch.sample.value with
  | .absent, _ => { ch with sample := .none }
  | .valid, some v => { ch with sample := .none, last := some v, invalidRun := 0 }
  | .valid, none => { ch with sample := .none, state := .held, invalidRun := 1 }
  | .held, some v => { ch with sample := .none, state := .valid, last := some v, invalidRun := 0 }
  | .held, none =>
    if ch.invalidRun < 3 then { ch with sample := .none, invalidRun := ch.invalidRun + 1 }
    else { ch with sample := .none, state := .failed, invalidRun := 0, validRun := 0 }
  | .failed, some v =>
    if ch.validRun < 4 then { ch with sample := .none, validRun := ch.validRun + 1 }
    else { ch with sample := .none, state := .valid, last := some v, validRun := 0, invalidRun := 0 }
  | .failed, none => { ch with sample := .none, validRun := 0 }

/-- What a channel reports in the pressure set (R3, R4, R6). -/
def PressChan.item (ch : PressChan) : PressItem :=
  { state := ch.state
    value := match ch.state with
      | .valid | .held => ch.last
      | .failed | .absent => none }

/-- Whether a channel enters FAILED at this step (R3). -/
def entersFailed (old new : PressChan) : Bool := old.state != .failed && new.state == .failed

/-- The trigger SENSOR_FAULT of a pressure channel (R3). -/
def pressFault (i : PressId) : Message := causeOf .sensorFault (be8 (pressNumber i))

/-- The capacity of the brake pipe history (R5). -/
def historyCapacity (pscan : Nat) : Nat := if pscan = 10 then 11 else 6

/-- The history after a scan completion that leaves BP as `bp` (R5). -/
def historyAfter (h : List Nat) (bp : PressItem) (pscan : Nat) : List Nat :=
  match bp.state, bp.value with
  | .failed, _ | .absent, _ => []
  | .valid, some v | .held, some v =>
    let h' := h ++ [v]
    if historyCapacity pscan < h'.length then h'.tail else h'
  | .valid, none | .held, none => h

/-- The history fall (R5). -/
def historyFall : List Nat → Int
  | [] => 0
  | [_] => 0
  | x :: y :: rest => (x : Int) - ((y :: rest).getLast (List.cons_ne_nil y rest) : Nat)

/-- A scan completion's work in the AU (R1 to R6), with the SENSOR_FAULT triggers in the order BP, BC,
IND, MR, where R148 lets either of two be taken first (log entry 47). -/
def Acquisition.scan (u : Acquisition) (pscan : Nat) (now : Time) : Acquisition × List Message :=
  let chans := u.chans.map PressChan.step
  let items := chans.map PressChan.item
  let history := historyAfter u.history items.bp pscan
  let fall := historyFall history
  ({ u with chans := chans, history := history, fall := fall,
            latest := some { chans := items, fall := fall, time := now }, scanDue := u.scanDue + pscan * 1000 },
   [PressId.bp, .bc, .ind, .mr].filterMap fun i =>
     if entersFailed (u.chans.get i) (chans.get i) then some (pressFault i) else none)

/-! ### Wheel speeds (R9 to R15) -/

/-- A tooth pulse stamped and counted (R9). -/
def AxleSpeed.pulse (a : AxleSpeed) (t : Stamp) : AxleSpeed :=
  { a with n := min 65535 (a.n + 1), first := if a.n = 0 then some t else a.first, last := some t,
           recent := some t }

/-- The speed measured across the window (R11). -/
def measuredSpeed (n pitch t : Nat) : Nat :=
  if t = 0 then 65535 else min 65535 ((n - 1) * pitch * 1000 / t)

/-- The speed estimated by decay; `tau` is absent when the axle has no most recent pulse (R12). -/
def decayedSpeed (pitch : Nat) (tau : Option Nat) (prevValid : Bool) (prevV : Nat) : Nat :=
  match tau with
  | none => 0
  | some tau =>
    if 1000000 < tau then 0
    else
      let q := if tau = 0 then 65535 else pitch * 1000 / tau
      if prevValid then min prevV q else min 65535 q

/-- The time in µs between two stamps, modulo 2^32 (R9). -/
def stampsApart (t u : Stamp) : Nat := (t - u).toNat

/-- The speed of an axle with fewer than two pulses in its window: by decay (R12), but 0 in the first speed set after
reset (R18). A single pulse in that first window would give the quotient of R12's last row; the model takes R18's sentence
as the exception that it makes for that one set, and R12's row for a speed left invalid by a fault (log entry 51). -/
def AxleSpeed.estimated (a : AxleSpeed) (pitch : Nat) (firstSet : Bool) (t : Stamp) : Nat :=
  if firstSet then 0 else decayedSpeed pitch (a.recent.map (stampsApart t)) a.prevValid a.prevV

/-- One axle at a speed window expiry: its speed (R11 to R13), its deceleration (R14), and its window cleared
(R10). -/
def AxleSpeed.expiry (a : AxleSpeed) (pitch : Nat) (firstSet fault : Bool) (t : Stamp) : AxleSpeed :=
  let v :=
    if fault then 0
    else
      match a.first, a.last with
      | some f, some l =>
        if 2 ≤ a.n then measuredSpeed a.n pitch (stampsApart l f) else a.estimated pitch firstSet t
      | _, _ => a.estimated pitch firstSet t
  { n := 0, first := none, last := none,
    recent := match a.recent with
      | none => none
      | some r => if 1000000 < stampsApart t r then none else some r
    prevV := v, prevValid := !fault, v := v, valid := !fault, faulted := fault,
    dv := if a.prevValid && !fault then (a.prevV : Int) - (v : Int) else 0 }

/-! ### Handle (R16, R17) -/

/-- The handle demand and HANDLE_FAULT of a duty (R17). -/
def handleOf (duty : Nat) : Nat × Bool :=
  if duty < 50 then (0, true)
  else if duty < 100 then (0, false)
  else if duty ≤ 900 then ((duty - 100) * 1000 / 800, false)
  else if duty ≤ 950 then (1000, false)
  else (0, true)

/-- The high time up to a time, when the input stands high since `highSince` (R16). -/
def Handle.total (h : Handle) (level : Bool) (clock : Nat) : Nat :=
  if level then h.highTime + (clock - h.highSince) else h.highTime

/-- An edge of the handle input: the high stretch that ends is totalled (R16). -/
def Handle.edge (h : Handle) (old : Bool) (clock : Nat) : Handle :=
  { h with highTime := h.total old clock, highSince := clock }

/-- The handle at a speed window expiry (R16, R17). -/
def Handle.expiry (h : Handle) (level : Bool) (clock : Nat) : Handle :=
  let duty := h.total level clock / 20
  { highTime := 0, highSince := clock, duty := duty, h := (handleOf duty).1, fault := (handleOf duty).2 }

/-- A speed window expiry's work in the AU (R10 to R17); the speed set is the first one while there is no latest set
(R18). -/
def Acquisition.window (u : Acquisition) (faults : Tri Bool) (level : Bool) (clock : Nat) (now : Time) (t : Stamp) :
    Acquisition :=
  { u with axles := Tri.map2 (fun (a : AxleSpeed) f => a.expiry u.pitch u.speedTime.isNone f t) u.axles faults,
           speedTime := some now, handle := u.handle.expiry level clock, windowDue := u.windowDue + 20000 }

end Sys2Proof.Machine
end

