-- ==== Sys2Proof/Machine/SlideOps.lean ====
section
/-! DEFINITION. The Slide Protection Unit's work at a speed set arrival (section 3), stage by stage as R35 orders it. -/

namespace Sys2Proof.Machine

/-! ### Stage 1: the reference speed (R36 to R39) -/

/-- SLIDE or RECOVER. -/
def AxleState.sliding (a : AxleState) : Bool := a == .slide || a == .recover

/-- SUSPECT, SLIDE or RECOVER: the states that an untrusted-since time runs through (R38). -/
def AxleState.doubtful (a : AxleState) : Bool := a == .suspect || a.sliding

/-- The axles' machines with their speeds, in axle order. -/
def Slide.axles (u : Slide) (sp : Tri AxleSpeed) : List (AxleMachine × AxleSpeed) := u.machines.toList.zip sp.toList

/-- The candidate speeds (R36). -/
def Slide.candidates (u : Slide) (sp : Tri AxleSpeed) : List Nat :=
  ((u.axles sp).filter fun p => p.2.valid && !p.1.state.sliding).map fun p => p.2.v

/-- The largest of some speeds; 0 for none. -/
def largest : List Nat → Nat
  | [] => 0
  | x :: xs => max x (largest xs)

/-- An axle in doubt for more than 500 ms (R38). -/
def AxleMachine.longDoubtful (m : AxleMachine) (now : Time) : Bool :=
  m.state.doubtful &&
    match m.untrusted with
    | none => false
    | some t => decide (500 < since now t)

/-- The assistance condition (R38). -/
def Slide.needsAssistance (u : Slide) (sp : Tri AxleSpeed) (now : Time) : Bool :=
  (u.candidates sp).isEmpty ||
    ((u.axles sp).any (fun p => p.2.valid) && (u.axles sp).all fun p => !p.2.valid || p.1.longDoubtful now)

/-- The Vref values of the eligible peers' last statements (R39, law 11). -/
def eligibleVrefs (es : List PeerEntry) (group : Nat) : List Nat :=
  es.filterMap fun e =>
    match e.last with
    | none => none
    | some v => if e.liveInGroup group && !v.speedAssisted then some v.vref else none

/-- A speed clamped to the range of R36. -/
def Slide.slew (u : Slide) (v : Nat) : Nat := clamp (u.vref - u.ddec) (min 65535 (u.vref + u.dacc)) v

/-- The new Vref and SPEED_ASSISTED (R36, R37, R39). -/
def Slide.newVref (u : Slide) (sp : Tri AxleSpeed) (peers : List Nat) (now : Time) : Nat × Bool :=
  if u.firstPending then (largest (u.candidates sp), (u.candidates sp).isEmpty)
  else if u.needsAssistance sp now then
    match lowerMedian peers with
    | some m => (u.slew m, true)
    | none => (u.vref - u.ddec, true)
  else (u.slew (largest (u.candidates sp)), false)

/-- Stage 1. -/
def Slide.stage1 (u : Slide) (sp : Tri AxleSpeed) (peers : List Nat) (now : Time) : Slide :=
  { u with vref := (u.newVref sp peers now).1, speedAssisted := (u.newVref sp peers now).2, firstPending := false }

/-! ### Stage 2: standstill (R40) -/

/-- Stage 2. -/
def Slide.stage2 (u : Slide) (now : Time) : Slide :=
  if 100 < u.vref then { u with lowStart := none, standstill := false }
  else
    match u.lowStart with
    | none => { u with lowStart := some now }
    | some t => if since now t < 3000 then u else { u with standstill := true }

/-! ### Stage 3: activity and slip (R41) -/

/-- Whether protection is active. -/
def Slide.active (u : Slide) (mode : Mode) : Bool := mode != .released && decide (800 ≤ u.vref)

/-- An axle's relative slip q; 0 without protection or without a valid speed. -/
def Slide.slip (u : Slide) (mode : Mode) (a : AxleSpeed) : Nat :=
  if u.active mode && a.valid then (u.vref - a.v) * 1000 / u.vref else 0

/-! ### Stage 4: the axle machines (R42 to R51) -/

/-- The hold valve of a state (section 3.5). -/
def AxleState.holdValve (a : AxleState) : Bool := a.doubtful
/-- The vent valve of a state (section 3.5). -/
def AxleState.ventValve (a : AxleState) : Bool := a == .slide

/-- What one machine is stepped on. -/
structure AxleStep where
  active     : Bool
  released   : Bool
  standstill : Bool
  valid      : Bool
  q          : Nat
  dv         : Int
  now        : Time
deriving DecidableEq, Repr

/-- Entry into FAULT; an episode open in SLIDE, RECOVER or TIMEOUT ends (R43, R49). -/
def AxleMachine.faulted (m : AxleMachine) : AxleMachine :=
  { m with state := .fault, faultReturn := none, untrusted := none, episodeOpen := false }

/-- Entry into NORMAL, with the end of an open episode (R49). -/
def AxleMachine.normal (m : AxleMachine) : AxleMachine :=
  { m with state := .normal, untrusted := none, episodeOpen := false }

/-- The axle's time in FAULT with a valid speed (R43). -/
def AxleMachine.faultStep (m : AxleMachine) (i : AxleStep) : AxleMachine :=
  if i.valid then
    match m.faultReturn with
    | none => { m with faultReturn := some i.now }
    | some t => if 1000 ≤ since i.now t then m.normal else m
  else { m with faultReturn := none }

/-- Entry into SLIDE from SUSPECT: a new episode (R50). -/
def AxleMachine.beginSlide (m : AxleMachine) : AxleMachine :=
  { m with state := .slide, episodeOpen := true, vent := 0 }

/-- An axle in NORMAL with protection active (R45). -/
def AxleMachine.normalStep (m : AxleMachine) (c : Configuration) (i : AxleStep) : AxleMachine :=
  if c.q1 ≤ i.q ∨ (c.dv1 : Int) ≤ i.dv then
    { m with state := .suspect, high := 0, calm := 0, untrusted := some i.now }
  else m

/-- An axle in SUSPECT with protection active (R46). -/
def AxleMachine.suspectStep (m : AxleMachine) (c : Configuration) (i : AxleStep) : AxleMachine :=
  if c.q2 ≤ i.q then m.beginSlide
  else if c.q1 ≤ i.q then
    let m' := { m with high := m.high + 1, calm := 0 }
    if 5 ≤ m.high + 1 then m'.beginSlide else m'
  else if (c.dv1 : Int) ≤ i.dv then { m with high := 0, calm := 0 }
  else
    let m' := { m with high := 0, calm := m.calm + 1 }
    if 2 ≤ m.calm + 1 then m'.normal else m'

/-- The vent time of the window just closed in SLIDE (R47). -/
def AxleMachine.vented (m : AxleMachine) : AxleMachine :=
  if m.state = .slide then { m with vent := m.vent + 20 } else m

/-- An axle in SLIDE with protection active, its vent time brought up to date (R47). -/
def AxleMachine.slideStep (m : AxleMachine) (c : Configuration) (i : AxleStep) : AxleMachine :=
  if c.tVent ≤ m.vent then { m with state := .timeout, untrusted := none }
  else if i.q < c.q1 then { m with state := .recover, recover := 0 }
  else m

/-- An axle in RECOVER with protection active (R48). -/
def AxleMachine.recoverStep (m : AxleMachine) (c : Configuration) (i : AxleStep) : AxleMachine :=
  if c.q2 ≤ i.q then { m with state := .slide }
  else if c.q1 ≤ i.q then { m with recover := 0 }
  else
    let m' := { m with recover := m.recover + 1 }
    if c.tRec ≤ (m.recover + 1) * 20 then m'.normal else m'

/-- The first of R43 to R48 that applies to a machine. -/
def AxleMachine.stateStep (m : AxleMachine) (c : Configuration) (i : AxleStep) : AxleMachine :=
  match m.state with
  | .fault => m.faultStep i
  | .normal =>
    if !i.valid then m.faulted else if i.active then m.normalStep c i else m
  | .suspect =>
    if !i.valid then m.faulted else if i.active then m.suspectStep c i else m.normal
  | .slide =>
    if !i.valid then m.faulted else if i.active then m.slideStep c i else m.normal
  | .recover =>
    if !i.valid then m.faulted else if i.active then m.recoverStep c i else m.normal
  | .timeout =>
    if !i.valid then m.faulted else if !i.active && (i.released || i.standstill) then m.normal else m

/-- One machine at an arrival: its last q, its step, and the valves of its new state (R41, R42). -/
def AxleMachine.step (m : AxleMachine) (c : Configuration) (i : AxleStep) : AxleMachine :=
  let m' := { m.vented with lastQ := i.q }.stateStep c i
  { m' with holdValve := m'.state.holdValve, ventValve := m'.state.ventValve }

/-- What the machine of an axle is stepped on at an arrival. -/
def Slide.stepInput (u : Slide) (mode : Mode) (now : Time) (a : AxleSpeed) : AxleStep :=
  { active := u.active mode, released := mode == .released, standstill := u.standstill, valid := a.valid,
    q := u.slip mode a, dv := a.dv, now := now }

/-- Stages 3 and 4 on the machines. -/
def Slide.stage4 (u : Slide) (c : Configuration) (mode : Mode) (sp : Tri AxleSpeed) (now : Time) : Slide :=
  { u with machines := Tri.map2 (fun m a => AxleMachine.step m c (u.stepInput mode now a)) u.machines sp }

/-- An axle's machine before and after an arrival, with its speed. -/
structure AxleChange where
  axle : AxleId
  old  : AxleMachine
  new  : AxleMachine
  v    : Nat
deriving DecidableEq, Repr

/-- The three axles' changes in axle order; `u` is the unit before stage 4 and `w` after it. -/
def axleChanges (u w : Slide) (sp : Tri AxleSpeed) : List AxleChange :=
  [⟨.one, u.machines.one, w.machines.one, sp.one.v⟩, ⟨.two, u.machines.two, w.machines.two, sp.two.v⟩,
   ⟨.three, u.machines.three, w.machines.three, sp.three.v⟩]

/-- Entry of an axle into a state. -/
def AxleChange.enters (ch : AxleChange) (a : AxleState) : Bool := ch.old.state != a && ch.new.state == a

/-- The trigger of stage 4 that a change raises: SENSOR_FAULT or VENT_TIMEOUT (R43, R47). -/
def AxleChange.trigger (ch : AxleChange) (vref : Nat) : List Message :=
  if ch.enters .fault then [causeOf .sensorFault (be8 (axleNumber ch.axle))]
  else if ch.enters .timeout then
    [causeOf .ventTimeout (be8 (axleNumber ch.axle) ++ be16 vref ++ be16 ch.new.lastQ ++ be16 ch.new.vent)]
  else []

/-- The event record of a change of state (R51). -/
def AxleChange.record (ch : AxleChange) (vref : Nat) : List Message :=
  if ch.old.state = ch.new.state then []
  else
    [.event .axle
      (be8 (axleNumber ch.axle) ++ be8 (axleCode ch.old.state) ++ be8 (axleCode ch.new.state) ++ be16 vref ++
        be16 ch.v ++ be16 ch.new.lastQ ++ be16 ch.new.vent)]

/-- What stage 4 hands over: the triggers, then the event records at its end (R51). Triggers of different axles at one
arrival are raised in axle order, where R148 lets either be taken first (log entry 47). -/
def stage4Messages (chs : List AxleChange) (vref : Nat) : List Message :=
  chs.flatMap (fun ch => ch.trigger vref) ++ chs.flatMap (fun ch => ch.record vref)

/-! ### Stage 5: the effects of the SLIDE entries (R52 to R55) -/

/-- The adhesion limit of a factor (R52). -/
def adhesionLimit (abase a : Nat) : Nat := abase * a / 1000

/-- One reduction (R52). -/
def reduced (amin a : Nat) : Nat := max amin (a - a / 8)

/-- `n` reductions (R52). -/
def reducedBy (amin : Nat) : Nat → Nat → Nat
  | 0, a => a
  | n + 1, a => reducedBy amin n (reduced amin a)

/-- The changes that enter SLIDE. -/
def slideEntries (chs : List AxleChange) : List AxleChange := chs.filter fun ch => ch.enters .slide

/-- Stage 5 on the unit. -/
def Slide.stage5 (u : Slide) (c : Configuration) (entries : List AxleChange) (now : Time) : Slide :=
  if entries.isEmpty then u
  else
    let a := reducedBy c.amin entries.length u.a
    { u with a := a, al := if a = u.a then u.al else adhesionLimit c.abase a, lastSlide := some now, slideCut := true }

/-- The axles in SLIDE as the bits of the slide notice, axle 1 in bit 0 (R54, section 12.2). -/
def slidingAxles (u : Slide) : Nat :=
  (if u.machines.one.state = .slide then 1 else 0) + (if u.machines.two.state = .slide then 2 else 0) +
    (if u.machines.three.state = .slide then 4 else 0)

/-- The trigger SLIDE_ENTRY of an entry (R55). -/
def AxleChange.slideEntry (ch : AxleChange) (u : Slide) : Message :=
  causeOf .slideEntry
    (be8 (axleNumber ch.axle) ++ be8 (axleCode ch.old.state) ++ be16 ch.new.lastQ ++ be16 u.vref ++ be16 u.a ++
      be16 u.al)

/-- What stage 5 hands over: the slide notice when no other axle was sliding, then the triggers (R54, R55). -/
def stage5Messages (u : Slide) (chs : List AxleChange) : List Message :=
  let entries := slideEntries chs
  if entries.isEmpty then []
  else
    (if (chs.filter fun ch => !ch.enters .slide).all fun ch => !ch.old.state.sliding then
        [Message.urgent .slideNotice (slideNoticeBytes u.al u.a (slidingAxles u) u.vref)]
      else []) ++
    entries.map fun ch => ch.slideEntry u

/-! ### Stages 6 and 7 (R56, R57) -/

/-- Whether no axle is in SUSPECT, SLIDE or RECOVER. -/
def Slide.quiet (u : Slide) : Bool := u.machines.toList.all fun m => !m.state.doubtful

/-- Stage 6. -/
def Slide.stage6 (u : Slide) (c : Configuration) (now : Time) : Slide :=
  let calm := match u.lastSlide with
    | none => true
    | some t => decide (2000 ≤ since now t)
  if u.quiet && calm then
    let a := min 1000 (u.a + c.recStep)
    { u with a := a, al := if a = u.a then u.al else adhesionLimit c.abase a }
  else u

/-- Stage 7 on the unit. -/
def Slide.stage7 (u : Slide) : Slide :=
  { u with slideFlag := u.machines.toList.any fun m => m.state.sliding }

/-- The speed-trace record and the peaks of q that stage 7 hands over (R57). -/
def State.recordSpeeds (s : State) : State :=
  let u := s.slide
  let sp := s.acq.axles
  let copied := speedRecord s.now u.vref u.speedAssisted (sp.map AxleSpeed.v) (sp.map AxleSpeed.valid)
    (u.machines.map AxleMachine.state)
  { s with recorder :=
      (s.recorder.trace (ofKind .speedTrace) copied).peakSlip (u.machines.map AxleMachine.lastQ) s.now }

/-- A speed set arrival at the SPU (R35): each stage's effects are handed over before the next stage begins. -/
def State.speedArrival (s : State) : State :=
  let sp := s.acq.axles
  let u := (s.slide.stage1 sp (eligibleVrefs s.peers.entries s.config.group) s.now).stage2 s.now
  let w := u.stage4 s.config s.demand.mode sp s.now
  let chs := axleChanges u w sp
  let s₄ := State.deliverAll { s with slide := w } (stage4Messages chs w.vref)
  let x := s₄.slide.stage5 s.config (slideEntries chs) s.now
  let s₅ := State.deliverAll { s₄ with slide := x } (stage5Messages x chs)
  State.recordSpeeds { s₅ with slide := (s₅.slide.stage6 s.config s.now).stage7 }

end Sys2Proof.Machine
end

