-- ==== Sys2Proof/Machine/OutputOps.lean ====
section
/-! DEFINITION. The blending and output section (section 7): converter link, fade, the two commands and their ramps, the
cylinder setpoint, the friction response check and the unserved-effort run. -/

namespace Sys2Proof.Machine

/-! ### Link check (R114, R115) -/

/-- The cycle is a miss: a request has been sent and has not been answered (R114). -/
def Outputs.isMiss (o : Outputs) : Bool := o.latest.isSome && !o.answered

/-- The event record of a change of link state (R113, R114). -/
def linkEvent (old new : Bool) (cause : EventCause) : Message :=
  .event .link (be8 (linkCode old) ++ be8 (linkCode new) ++ be8 (eventCauseCode cause))

/-- The link goes DOWN (R114). -/
def Outputs.linkDown (o : Outputs) : Outputs :=
  { o with linkUp := false, fade := false, shortRun := 0, goodRun := 0,
           status := { o.status with eav := 0, eact := 0, ready := false, fault := false } }

/-- The trigger CONVERTER_LOST: Ecmd of the latest request, Eav and Eact before the clear (R114). -/
def converterLost (o : Outputs) : Message :=
  causeOf .converterLost
    (be16 ((o.latest.map Request.ecmd).getD 0) ++ be16 o.status.eav ++ be16 o.status.eact)

/-- What a miss does to the link (R114). -/
def Outputs.miss (o : Outputs) : Outputs × List Message :=
  let o' := { o with missRun := min 3 (o.missRun + 1), validRun := 0 }
  if o.linkUp = true ∧ 3 ≤ o.missRun + 1 then
    (o'.linkDown, [.count .misses, converterLost o, linkEvent true false .misses])
  else (o', [.count .misses])

/-- The fade runs of a cycle that is not a miss, with the link UP (R115). -/
def Outputs.fadeRuns (o : Outputs) (etol : Nat) : Outputs :=
  if etol < o.status.asked ∧ o.status.eact < o.status.asked - etol then
    let short := min 3 (o.shortRun + 1)
    { o with shortRun := short, goodRun := 0, fade := o.fade || decide (3 ≤ short) }
  else if o.fade then
    if 50 ≤ o.goodRun + 1 then { o with shortRun := 0, goodRun := 0, fade := false }
    else { o with shortRun := 0, goodRun := o.goodRun + 1 }
  else { o with shortRun := 0 }

/-- The link check (R114, R115). -/
def Outputs.linkCheck (o : Outputs) (etol : Nat) : Outputs × List Message :=
  if o.isMiss then o.miss
  else if o.linkUp then (o.fadeRuns etol, [])
  else (o, [])

/-- The link check of a control cycle. -/
def State.linkCheck (s : State) : State :=
  let r := s.outputs.linkCheck s.config.etol
  State.deliverAll { s with outputs := r.1 } r.2

/-! ### The two commands (R116 to R120) -/

/-- A command moved toward its target by at most `up` or `down` (R118, R119). -/
def ramp (target up down v : Nat) : Nat :=
  if v < target then min target (v + up) else if target < v then max target (v - down) else v

/-- The halving of a cycle that finds the slide-cut flag set (R117). -/
def halved (cut : Bool) (ecmd : Nat) : Nat := if cut then ecmd / 2 else ecmd

/-- Ecmd of the cycle: halved, ramped and capped (R117, R118). -/
def nextEcmd (c : Configuration) (cut : Bool) (target al ecmd : Nat) : Nat :=
  min (ramp target c.reUp c.reDn (halved cut ecmd)) (min al c.emax)

/-- Fcmd of the cycle, at the fill rate when Ecmd fell (R119). -/
def nextFcmd (c : Configuration) (fell : Bool) (target fcmd : Nat) : Nat :=
  ramp target (if fell then c.rfFill else c.rfUp) c.rfDn fcmd

/-- The commands of the cycle; FADE ends when Ecmd is 0 (R116 to R120). -/
def Outputs.command (o : Outputs) (c : Configuration) (cut : Bool) (et ft al : Nat) : Outputs :=
  let e := nextEcmd c cut et al o.ecmd
  let o' := { o with ecmdStart := o.ecmd, ecmd := e, fcmd := nextFcmd c (decide (e < o.ecmd)) ft o.fcmd }
  if e = 0 then { o' with fade := false, shortRun := 0, goodRun := 0 } else o'

/-! ### The cylinder setpoint outside EMERGENCY (R122) -/

/-- BCset of an Fcmd (R122). -/
def cylinderSet (c : Configuration) (pmaxEff fcmd : Nat) : Nat :=
  if fcmd = 0 then 0 else min pmaxEff (c.pth + ceilDiv (fcmd * 100) c.kf)

/-- The setpoint of the cycle (R121 to R123). -/
def Outputs.setpoint (o : Outputs) (c : Configuration) (mode : Mode) (chans : Quad PressItem) (now : Time) : Outputs :=
  let p := serviceLimit c chans.mr.value
  if mode = .emergency then
    Outputs.drive { o with pmaxEff := p, bcSet := 0 } (emergencyPressure c chans.ind.value) now
  else
    let set := cylinderSet c p o.fcmd
    Outputs.drive { o with pmaxEff := p, bcSet := set } (max set (chans.ind.value.getD 0)) now

/-! ### The effort request (R112) -/

/-- The request of the cycle sent and recorded as the latest one (R112). -/
def Outputs.send (o : Outputs) (cut : Bool) : Outputs :=
  let r : Request := { seq := o.nextSeq, ecmd := o.ecmd, slideCut := cut }
  { o with latest := some r, answered := false, nextSeq := o.nextSeq + 1, converterOut := requestFrame r }

/-! ### Unserved effort (R127) -/

/-- The unserved-effort run of a cycle; the second part says whether UNSERVED is raised (R127). -/
def Outputs.unserved (o : Outputs) (uthr u : Nat) (now : Time) : Outputs × Bool :=
  if u ≤ uthr then ({ o with unservedStart := none, unservedRaised := false }, false)
  else
    match o.unservedStart with
    | none => ({ o with unservedStart := some now, unservedRaised := false }, false)
    | some t =>
      if o.unservedRaised = false ∧ 1000 ≤ since now t then ({ o with unservedRaised := true }, true) else (o, false)

/-- The trigger UNSERVED (R127). -/
def unservedTrigger (r : Sharing) : Message := causeOf .unserved (be16 r.u ++ be16 r.sd ++ be16 r.se ++ be16 r.sh)

/-! ### The outputs stage (R111) -/

/-- The target of a command: 0 in EMERGENCY (R118 to R120). -/
def targetIn (mode : Mode) (t : Nat) : Nat := if mode = .emergency then 0 else t

/-- The values that the cycle leaves for statements and summaries (R107, R151). -/
def Outputs.close (o : Outputs) (r : Sharing) : Outputs :=
  { o with cycle := { sd := r.sd, eact := o.status.eact, fcmd := o.fcmd, u := r.u } }

/-- The output section's own state after the outputs stage, short of the unserved run. -/
def Outputs.stage (o : Outputs) (c : Configuration) (mode : Mode) (cut : Bool) (r : Sharing) (chans : Quad PressItem)
    (now : Time) : Outputs :=
  (((o.command c cut (targetIn mode r.et) (targetIn mode r.ft) r.al).setpoint c mode chans now).send cut).close r

/-- The outputs stage of a control cycle (R111, R112, R117 to R123, R127); the slide-cut flag is cleared. -/
def State.outputStage (s : State) : State :=
  let o := s.outputs.stage s.config s.demand.mode s.slide.slideCut s.sharing s.acq.latestChans s.now
  let w := o.unserved s.config.uthr s.sharing.u s.now
  let s' : State := { s with outputs := w.1, slide := { s.slide with slideCut := false } }
  if w.2 then s'.deliver (unservedTrigger s.sharing) else s'

/-- The blend-trace record and the peaks of the cycle (R128). -/
def State.recordBlend (s : State) : State :=
  let o := s.outputs
  let r := s.sharing
  let copied := blendRecord s.now s.demand.mode
    [s.demand.d, r.sd, r.ce, r.et, o.ecmd, o.status.eact, r.ft, o.fcmd, r.u, o.bcOut]
  { s with recorder :=
      (s.recorder.trace (ofKind .blendTrace) copied).peakBlend r.u ((o.ecmd : Int) - o.status.eact) s.now }

/-! ### The early statement test (R109) -/

/-- A change that makes an early statement due: at least 100 EU and at least a tenth of the value last queued. -/
def bigChange (new old : Nat) : Bool :=
  let diff := max new old - min new old
  decide (100 ≤ diff) && decide (old ≤ 10 * diff)

/-- Whether the test finds a statement due (R109). -/
def earlyDue (new old : Statement) : Bool :=
  bigChange new.ce old.ce || bigChange new.fx old.fx || bigChange new.al old.al || new.mode != old.mode

/-- The early statement test (R109). -/
def State.earlyTest (s : State) : State :=
  match s.line.lastQueued with
  | none => s
  | some old =>
    if s.line.state = .active ∧ s.line.queuedInActive = true ∧ earlyDue s.buildStatement old = true then s.makeDue
    else s

/-- A control cycle (R109, R111), the next expiry of its timer set. The early statement test comes before the link check,
so a statement that it queues carries FADE and CONVERTER_DOWN as they stood before it (log entry 43). -/
def State.controlCycle (s : State) : State :=
  let s₀ := { s with demand := { s.demand with cycleDue := s.demand.cycleDue + 20000 } }
  s₀.earlyTest.linkCheck.computeDemand.sharingStage.outputStage.evaluateMode.recordBlend

/-! ### Status replies (R113) -/

/-- A reply that passes the sequence check (R113). -/
def Outputs.expects (o : Outputs) (f : StatusFrame) : Bool :=
  match o.latest with
  | none => false
  | some r => r.seq == f.echo && !o.answered

/-- The status stored from a valid reply, by the clamps of R113. -/
def clampedStatus (c : Configuration) (r : Request) (f : StatusFrame) : ConverterStatus :=
  { eav := min f.eav c.emax, eact := min (min f.eact c.emax) (r.ecmd + c.etol), ready := f.ready, fault := f.fault,
    asked := r.ecmd }

/-- A valid reply taken (R113). -/
def Outputs.take (o : Outputs) (c : Configuration) (r : Request) (f : StatusFrame) : Outputs × List Message :=
  let run := min 5 (o.validRun + 1)
  let up := !o.linkUp && run == 5
  ({ o with answered := true, status := clampedStatus c r f, validRun := run, missRun := 0, linkUp := o.linkUp || up },
   (if r.ecmd + c.etol < min f.eact c.emax then [.count .overshoots] else []) ++
     if up then [linkEvent false true .replies] else [])

/-- A status frame completes on the converter link (R113). -/
def State.statusArrival (s : State) (frame : List Byte) : State :=
  match parseStatus frame with
  | none => s.bump .frameErrors
  | some f =>
    match s.outputs.latest with
    | none => s.bump .lateReplies
    | some r =>
      if s.outputs.expects f then
        let w := s.outputs.take s.config r f
        State.deliverAll { s with outputs := w.1 } w.2
      else s.bump .lateReplies

/-! ### Friction response (R125, R126) -/

/-- BCout is settled (R124). -/
def Outputs.settled (o : Outputs) (now : Time) : Bool := decide (1000 ≤ since now o.settleTime)

/-- The deviation run after a pressure set arrival (R125). -/
def deviation (o : Outputs) (bc : Option Nat) (doubtful : Bool) (now : Time) : Option Time :=
  match bc with
  | none => none
  | some p =>
    if doubtful = true ∨ o.settled now = false ∨ max p o.bcOut - min p o.bcOut ≤ 60 then none
    else some (o.devStart.getD now)

/-- The trigger FRICTION_FAULT (R125). -/
def frictionTrigger (bc bcOut : Nat) (mode : Mode) : Message :=
  causeOf .frictionFault (be16 bc ++ be16 bcOut ++ be8 (modeCode mode))

/-- The friction response check while the latch is clear (R125). -/
def State.frictionCheck (s : State) : State :=
  let bc := s.acq.latestChans.bc.value
  match deviation s.outputs bc (!s.slide.quiet) s.now with
  | none => { s with outputs := { s.outputs with devStart := none } }
  | some t =>
    if 3000 ≤ since s.now t then
      State.deliver { s with outputs := { s.outputs with devStart := none, frictionFault := true } }
        (frictionTrigger (bc.getD 0) s.outputs.bcOut s.demand.mode)
    else { s with outputs := { s.outputs with devStart := some t } }

/-- Whether the latch clears at this arrival (R126). -/
def frictionClears (mode : Mode) (bc : Option Nat) : Bool :=
  mode == .released && match bc with
    | none => false
    | some p => decide (p ≤ 20)

/-- A pressure set arrival at the output section (R123, R125, R126). -/
def State.outputArrival (s : State) : State :=
  let s₁ := if s.demand.mode = .emergency then s.driveEmergency else s
  if s₁.outputs.frictionFault then
    if frictionClears s₁.demand.mode s₁.acq.latestChans.bc.value then
      { s₁ with outputs := { s₁.outputs with frictionFault := false } }
    else s₁
  else s₁.frictionCheck

end Sys2Proof.Machine
end

