-- ==== Sys2Proof/Machine/Control.lean ====
section
/-! DEFINITION. The meanings of the Blending Unit's commands: CONTROL_CYCLE, NOTICE_REPEAT_EXPIRY, EXIT_TIMER_EXPIRY,
STATUS_REPLY_ARRIVAL. -/

namespace Sys2Proof.Machine

/-- CONTROL_CYCLE (R111). -/
def execControlCycle (dt : Nat) (s : State) : Host.Outcome State Fault Refusal :=
  .next (s.eventIf dt (fun s => decide (s.demand.cycleDue ≤ s.clock)) State.controlCycle)

/-- NOTICE_REPEAT_EXPIRY (R28). -/
def execNoticeRepeatExpiry (dt : Nat) (s : State) : Host.Outcome State Fault Refusal :=
  .next (s.eventIf dt (fun s => s.timerDue s.demand.repeatDue) State.repeatNotice)

/-- When the exit timer expires. -/
def ExitTimer.due : ExitTimer → Option Nat
  | .running t => some t
  | .stopped => none
  | .expired => none

/-- EXIT_TIMER_EXPIRY (R31). -/
def execExitTimerExpiry (dt : Nat) (s : State) : Host.Outcome State Fault Refusal :=
  .next (s.eventIf dt (fun s => s.timerDue s.demand.exitTimer.due) State.exitCheck)

/-- STATUS_REPLY_ARRIVAL (R113). -/
def execStatusReplyArrival (dt : Nat) (frame : List Byte) (s : State) : Host.Outcome State Fault Refusal :=
  .next (s.event dt fun s => s.statusArrival frame)

end Sys2Proof.Machine
end

