-- ==== Sys2Proof/Machine/LineEvents.lean ====
section
/-! DEFINITION. The meanings of the Line Unit's commands: receptions, the line's timers, statements, attempts and the
ageing of the peer table. -/

namespace Sys2Proof.Machine

/-- A good frame whose source is not the station's own address, by kind (R62 to R65). A notice or a mark that itself opens
an incident acts before it counts as hearing, so the peer snapshot holds the age before it; R83 leaves either order open (log
entry 52). -/
def State.dispatch (s : State) (f : GoodFrame) : State :=
  match f.kind with
  | .statement => s.peerStatement f
  | .slideNotice => s.peerHear f (some (be16At f.payload 0))
  | .emergencyNotice => (s.takeNotice f).peerHear f none
  | .incidentMark => (s.raise (markTrigger f)).peerHear f none

/-- A good frame bearing the station's own address (R64, R70): the clash is taken before the notice's effect (log entry
45). -/
def State.ownAddressFrame (s : State) (f : GoodFrame) : State :=
  if f.kind = .emergencyNotice then (s.clash f).takeNotice f else s.clash f

/-- A good frame taken and copied to the mirror channels (R62 to R66, R70). -/
def State.takeFrame (s : State) (f : GoodFrame) : State :=
  if f.source = s.address then s.ownAddressFrame f
  else (s.dispatch f).mirror f.source false f.body f.check

/-- A receive completion (R61); the line's idle time runs from its end (R59). -/
def State.receive (s : State) (frame : List Byte) (extraBits : Nat) : State :=
  let s' : State := { s with line := { s.line with lastActivityEnd := some s.clock } }
  match classify frame extraBits with
  | .runt => s'.bump .runts
  | .crcError => s'.bump .crcErrors
  | .malformed => s'.bump .malformed
  | .good f => s'.takeFrame f

/-- The line unit takes receptions: transmitter idle, line state not OFF (R61). -/
def State.receives (s : State) : Bool := s.line.tx == .idle && s.line.state != .off

/-- RECEIVE_COMPLETION (R61). -/
def execReceiveCompletion (dt : Nat) (frame : List Byte) (extraBits : Nat) (s : State) :
    Host.Outcome State Fault Refusal :=
  .next (s.eventIf dt State.receives fun s => s.receive frame extraBits)

/-- LISTEN_TIMER_EXPIRY (R67). -/
def execListenTimerExpiry (dt : Nat) (s : State) : Host.Outcome State Fault Refusal :=
  .next (s.eventIf dt (fun s => s.line.state == .listening && s.timerDue s.line.listenDue) State.listenEnds)

/-- The statement timer expires: it is no longer running until the statement is queued, and a statement is due (R78).
-/
def State.statementTimer (s : State) : State :=
  State.makeDue { s with line := { s.line with statementDue := none } }

/-- STATEMENT_TIMER_EXPIRY (R78). -/
def execStatementTimerExpiry (dt : Nat) (s : State) : Host.Outcome State Fault Refusal :=
  .next (s.eventIf dt (fun s => s.line.state == .active && s.timerDue s.line.statementDue) State.statementTimer)

/-- DUE_STATEMENT_QUEUED (R78): both spacing intervals have passed. -/
def execDueStatementQueued (dt : Nat) (s : State) : Host.Outcome State Fault Refusal :=
  .next (s.eventIf dt (fun s => s.line.due && s.line.state == .active && s.spaced) State.queueStatement)

/-- HOLD_TIMER_EXPIRY (R69). -/
def execHoldTimerExpiry (dt : Nat) (s : State) : Host.Outcome State Fault Refusal :=
  .next (s.eventIf dt (fun s => s.line.state == .isolated && s.timerDue s.line.holdDue) State.placeProbe)

/-- An attempt of the class that R71 chooses, if one may start. -/
def State.tryAttempt (s : State) : State :=
  match s.attemptClass with
  | none => s
  | some c => s.startAttempt c

/-- ATTEMPT_START (R71). -/
def execAttemptStart (dt : Nat) (s : State) : Host.Outcome State Fault Refusal := .next (s.event dt State.tryAttempt)

/-- The collision window in µs: 64 bit times of 4 µs (R59). -/
def collisionWindow : Nat := 256

/-- A collision of the attempt in progress, inside the window (R72). -/
def State.collisionEvent (s : State) : State :=
  match s.line.tx with
  | .sending c start => if s.clock < start + collisionWindow then s.collide c else s
  | .idle => s
  | .jamming _ _ => s

/-- COLLISION (R72). -/
def execCollision (dt : Nat) (s : State) : Host.Outcome State Fault Refusal := .next (s.event dt State.collisionEvent)

/-- The end of the jam in progress (R72, R73). -/
def State.jamEvent (s : State) : State :=
  match s.line.tx with
  | .jamming c until_ => if until_ ≤ s.clock then s.jamEnds c else s
  | .idle => s
  | .sending _ _ => s

/-- JAM_END (R72, R73). -/
def execJamEnd (dt : Nat) (s : State) : Host.Outcome State Fault Refusal := .next (s.event dt State.jamEvent)

/-- The back-off wait of the head of a class ends (R72). -/
def State.waitEnds (s : State) (c : TxClass) : State :=
  match s.line.head c with
  | none => s
  | some f => if s.timerDue f.wait then { s with line := s.line.setHead c { f with wait := none } } else s

/-- BACKOFF_WAIT_END (R72). -/
def execBackoffWaitEnd (dt : Nat) (cls : TxClass) (s : State) : Host.Outcome State Fault Refusal :=
  .next (s.event dt fun s => s.waitEnds cls)

/-- A collision of the attempt in progress at bit time 64 or later (R74). -/
def State.lateEvent (s : State) : State :=
  match s.line.tx with
  | .sending c start => if start + collisionWindow ≤ s.clock then s.lateCollide c else s
  | .idle => s
  | .jamming _ _ => s

/-- LATE_COLLISION (R74). -/
def execLateCollision (dt : Nat) (s : State) : Host.Outcome State Fault Refusal := .next (s.event dt State.lateEvent)

/-- When the attempt of the head of a class ends, sent from `start` on. -/
def State.attemptEnd (s : State) (c : TxClass) (start : Nat) : Nat :=
  start + ((s.line.head c).map frameTime).getD 0

/-- The end of an attempt read back clean (R74). -/
def State.sentEvent (s : State) : State :=
  match s.line.tx with
  | .sending c start => if s.attemptEnd c start ≤ s.clock then s.sendDone c else s
  | .idle => s
  | .jamming _ _ => s

/-- FRAME_SENT (R74). -/
def execFrameSent (dt : Nat) (s : State) : Host.Outcome State Fault Refusal := .next (s.event dt State.sentEvent)

/-- The ageing timer expires: its next expiry is set and the entries are aged (R90). -/
def State.ageingExpires (s : State) : State :=
  State.agePeers { s with peers := { s.peers with ageingDue := s.peers.ageingDue + 20000 } }

/-- AGEING_TIMER_EXPIRY (R90). -/
def execAgeingTimerExpiry (dt : Nat) (s : State) : Host.Outcome State Fault Refusal :=
  .next (s.eventIf dt (fun s => decide (s.peers.ageingDue ≤ s.clock)) State.ageingExpires)

end Sys2Proof.Machine
end

