-- ==== Sys2Proof/Machine/ImageCheck.lean ====
section
/-! DEFINITION. The configuration image (section 12.5) and its checks in the order of R175. -/

namespace Sys2Proof.Machine

/-- The length of the image. -/
def imageLength : Nat := 256

/-- One bit of a byte of the image. -/
def bitAt (bs : List Byte) (i n : Nat) : Bool := (bs.getD i 0).getLsbD n

/-- The place of channel c's entry. -/
def channelOffset (c : Nat) : Nat := 80 + 6 * c
/-- The place of the entry of the cause with index i from 0. -/
def triggerOffset (i : Nat) : Nat := 128 + 3 * i

/-- Channel c's entry; an unknown kind, which the range check refuses, reads as PRESSURE_TRACE. -/
def channelAt (bs : List Byte) (c : Nat) : ChannelCfg :=
  let o := channelOffset c
  { enable := bitAt bs o 7, kind := (kindOfCode (byteAt bs o % 8)).getD .pressureTrace, alloc := byteAt bs (o + 1),
    mirror := BitVec.ofNat 32 (be32At bs (o + 2)) }

/-- The trigger line of the cause with index i. -/
def triggerAt (bs : List Byte) (i : Nat) : TriggerLine :=
  let o := triggerOffset i
  { enable := bitAt bs o 7, importance := if bitAt bs o 6 then .high else .low, post := be16At bs (o + 1) }

/-- The parameters that an image carries. -/
def configOf (bs : List Byte) : Configuration :=
  { pscan := byteAt bs 2, indEn := bitAt bs 1 7, mrEn := bitAt bs 1 6, z := byteAt bs 5, dw := be16At bs 6,
    bpRef := be16At bs 8, rmin := be16At bs 10, rfull := be16At bs 12, dfull := be16At bs 14, bpEmerg := be16At bs 16,
    remerg := be16At bs 18, decelMax := be16At bs 20, accelMax := be16At bs 22, q1 := be16At bs 24, q2 := be16At bs 26,
    dv1 := be16At bs 28, tRec := be16At bs 30, tVent := be16At bs 32, amin := be16At bs 34, abase := be16At bs 36,
    recStep := byteAt bs 38, lineEn := bitAt bs 1 5, group := byteAt bs 3,
    roster := (List.range (byteAt bs 64)).map fun i => byteAt bs (65 + i),
    emax := be16At bs 40, etol := be16At bs 42, reUp := be16At bs 44, reDn := be16At bs 46, rfUp := be16At bs 48,
    rfDn := be16At bs 50, rfFill := be16At bs 52, pth := be16At bs 54, kf := be16At bs 56, pmax := be16At bs 58,
    pemg := be16At bs 60, uthr := be16At bs 62,
    channels := (List.range 8).map (channelAt bs), triggers := (List.range 13).map (triggerAt bs),
    gate := byteAt bs 4, sendMarks := bitAt bs 1 4 }

/-- Every reserved byte and bit is 0 (R175, section 12.5). -/
def reservedZero (bs : List Byte) : Bool :=
  decide (byteAt bs 1 % 16 = 0) && decide (byteAt bs 39 = 0) &&
    (List.range 15).all (fun i => decide (i < byteAt bs 64) || decide (byteAt bs (65 + i) = 0)) &&
    (List.range 8).all (fun c => decide (byteAt bs (channelOffset c) / 8 % 16 = 0)) &&
    (List.range 13).all (fun i => decide (byteAt bs (triggerOffset i) % 64 = 0)) &&
    (List.range 87).all fun i => decide (byteAt bs (167 + i) = 0)

/-- A value in a range. -/
def within (lo hi v : Nat) : Bool := decide (lo ≤ v) && decide (v ≤ hi)

/-- A channel's allocation and mirror set in their ranges (R131, R175). -/
def ChannelCfg.inRange (c : ChannelCfg) : Bool := within 2 48 c.alloc && !c.mirror.getLsbD 0

/-- Whether no value of a list stands in it twice. -/
def distinct : List Nat → Bool
  | [] => true
  | x :: xs => !xs.contains x && distinct xs

/-- Every parameter in its range and every relation between them (R175 and the parameter tables of sections 1 to 9). -/
def configInRange (c : Configuration) : Bool :=
  (c.pscan == 10 || c.pscan == 20) && within 40 250 c.z && within 800 1300 c.dw &&
  within 450 700 c.bpRef && within 10 100 c.rmin && within (c.rmin + 10) 400 c.rfull && within 0 4095 c.dfull &&
  within 100 (c.bpRef - 100) c.bpEmerg && within 20 200 c.remerg &&
  within 500 5000 c.decelMax && within 100 2000 c.accelMax && within 10 100 c.q1 && within (c.q1 + 10) 300 c.q2 &&
  within 20 300 c.dv1 && within 100 1000 c.tRec && c.tRec % 20 == 0 && within 1000 10000 c.tVent &&
  c.tVent % 20 == 0 && within 200 900 c.amin && within 1 20 c.recStep && within 100 4095 c.abase &&
  within 0 7 c.group &&
  within 0 4095 c.emax && within 20 500 c.etol && within 1 400 c.reUp && within 1 400 c.reDn && within 1 400 c.rfUp &&
  within 1 400 c.rfDn && within c.rfUp 400 c.rfFill && within 0 100 c.pth && within 50 2000 c.kf &&
  within 100 700 c.pmax && within c.pmax 800 c.pemg && within 50 4095 c.uthr &&
  decide (c.roster.length ≤ 15) && c.roster.all (within 1 30) && distinct c.roster &&
  decide (c.channels.length = 8) && c.channels.all (fun ch => ChannelCfg.inRange ch) &&
  decide (c.triggers.length = 13) && c.triggers.all (fun t => decide (t.post ≤ 10000)) && within 1 4 c.gate

/-- Every channel's kind is one of the five (R175). -/
def kindsKnown (bs : List Byte) : Bool :=
  (List.range 8).all fun c => (kindOfCode (byteAt bs (channelOffset c) % 8)).isSome

/-- The check word of the image: the CRC-16 over offsets 0..253 stands at 254 (R175, section 12.5). -/
def imageCrcGood (bs : List Byte) : Bool := (bs.drop 254) == be16 (crc16 (bs.take 254)).toNat

/-- The source that the checks of R175 from the check word onward give an image: LOADED when it passes all. -/
def checkImage (bs : List Byte) : ConfigSource :=
  if imageCrcGood bs = false then .badCrc
  else if byteAt bs 0 ≠ 1 then .badVersion
  else if reservedZero bs = false then .badReserved
  else if kindsKnown bs = false ∨ configInRange (configOf bs) = false then .badRange
  else .loaded

/-- The configuration that an image of a checked source puts in force: its own when LOADED, otherwise the default,
never a part of it (R175). -/
def configFrom (src : ConfigSource) (bs : List Byte) : Configuration :=
  if src = .loaded then configOf bs else defaultConfig

end Sys2Proof.Machine
end

