-- ==== Sys2Proof/Machine/StoreOps.lean ====
section
/-! DEFINITION. The flash interface's arbiter and the ends of its operations (section 10): the scan, the store, the
erasure of all slots, the image write. What a write tells the Service Port stands in ServiceOps. -/

namespace Sys2Proof.Machine

/-! ### The arbiter (R170) -/

/-- An erase that begins a store, a retry or a cleanup, which waits while the warning stands (R169, log entry 20). -/
def FlashOp.beginsStore : FlashOp → Bool
  | .eraseTarget _ | .eraseCleanup _ => true
  | _ => false

/-- The slot that an operation erases. -/
def FlashOp.erases : FlashOp → Option Nat
  | .eraseTarget k | .eraseCleanup k | .eraseAll k => some k
  | _ => none

/-- A read of bytes of a slot for READ_INCIDENT. -/
def FlashOp.readsSlot (k : Nat) : FlashOp → Bool
  | .readIncident slot _ _ => slot == k
  | _ => false

/-- Whether the arbiter may issue a waiting operation: the warning holds the erases that begin a store, and an erase
waits for a waiting read of its slot (R169, R170, log entries 19 and 20). -/
def Store.mayIssue (st : Store) (powerFail : Bool) (op : FlashOp) : Bool :=
  !(powerFail && op.beginsStore) &&
    match op.erases with
    | none => true
    | some k => !st.requests.any (FlashOp.readsSlot k)

/-- The operation served next: the one that asked first among those that may be issued (R170). -/
def Store.nextOp (st : Store) (powerFail : Bool) : Option FlashOp := st.requests.find? (st.mayIssue powerFail)

/-- The directory as an operation is issued: the target's line becomes EMPTY (R166). -/
def Store.issueLine (st : Store) : FlashOp → Store
  | .eraseTarget k => st.setLine k .empty
  | _ => st

/-- The interface issues the next operation (R170). -/
def Store.issue (st : Store) (op : FlashOp) : Store :=
  ({ st with inFlight := some op, requests := st.requests.erase op } : Store).issueLine op

/-- The arbiter at work: with the interface free, the next operation is issued (R170). -/
def State.grantFlash (s : State) : State :=
  match s.store.inFlight, s.store.nextOp s.powerFail with
  | none, some op => { s with store := s.store.issue op }
  | _, _ => s

/-! ### The scan at reset (R164) -/

/-- A line that keeps its retained indication while fewer than 48 before it do. -/
def keepRetained : Nat → List DirLine → List DirLine
  | _, [] => []
  | n, .valid i true c z :: ls =>
    if n < 48 then .valid i true c z :: keepRetained (n + 1) ls else .valid i false c z :: keepRetained n ls
  | n, l :: ls => l :: keepRetained n ls

/-- Whether a line is VALID with the retained indication. -/
def DirLine.isRetained : DirLine → Bool
  | .valid _ r _ _ => r
  | _ => false

/-- The incident number of a VALID line. -/
def DirLine.number : DirLine → Option Nat
  | .valid n _ _ _ => some n
  | _ => none

/-- The largest number on a VALID line with its slot, slots counted from `slot`; of two lines with one number, the
first. -/
def largestNumber : Nat → List DirLine → Option (Nat × Nat)
  | _, [] => none
  | slot, l :: ls =>
    match l.number, largestNumber (slot + 1) ls with
    | none, r => r
    | some n, none => some (n, slot)
    | some n, some (m, k) => if n < m then some (m, k) else some (n, slot)

/-- The engine at the end of the scan (R164). -/
def Store.scanEnded (st : Store) : Store :=
  let lines := keepRetained 0 st.lines
  let top := largestNumber 1 lines
  let largest := (top.map Prod.fst).getD 0
  { st with scan := none, lines := lines, lastWritten := top.map Prod.snd,
            nextNumber := if lastNumber ≤ largest then lastNumber else largest + 1,
            exhausted := decide (lastNumber ≤ largest), retained := (lines.filter DirLine.isRetained).length }

/-- The read of one slot of the scan ends (R164). -/
def State.scanRead (s : State) (slot : Nat) (ok : Bool) : State :=
  let line := if ok then scanLine s.flash slot else .empty
  let st : Store := { s.store.setLine slot line with inFlight := none }
  if slot < 63 then
    let next : Store := { st with scan := some (slot + 1) }
    { s with store := next.ask (.scanRead (slot + 1)) }
  else State.startTest { s with store := st.scanEnded, recorder := { s.recorder with state := .idle } }

/-! ### Storing (R166 to R168) -/

/-- A cleanup fails: the entry is dropped (R168). Its line stays BAD, and where its header said RETAINED the slot may still
hold a retained record (R163, log entry 50). -/
def State.cleanupFailed (s : State) (job : StoreJob) : State :=
  State.dropAndTest { s with store := { s.store with
    mayHold := if job.retained then s.store.mayHold ++ [job.target] else s.store.mayHold } }

/-- The erase of a target or a cleanup ends (R166, R168). -/
def State.slotErased (s : State) (cleanup : Bool) (job : StoreJob) (ok : Bool) : State :=
  if cleanup then
    if ok then s.retryOrDrop { job with cleanup := false } else s.cleanupFailed job
  else if ok then s.programNext { job with position := 0 }
  else s.slotFailed job

/-- A body program of `n` bytes ends (R166, R168). -/
def State.bodyProgrammed (s : State) (n : Nat) (job : StoreJob) (ok : Bool) : State :=
  if ok then s.programNext { job with position := job.position + n } else s.slotFailed job

/-- The header program ends (R167, R168). -/
def State.headerProgrammed (s : State) (job : StoreJob) (ok : Bool) : State :=
  if ok then s.storeComplete job else s.commitFailed job

/-- Whether a flash operation ended with success. -/
def resultOk : FlashResult → Bool
  | .ok => true
  | .failed _ => false

/-- The waiting erase of a store held in IDLE, or the start test, when the warning ceases (R165, R169). -/
def State.warningCeases (s : State) : State :=
  let s' := { s with powerFail := false }
  if s.store.phase = .idle then
    match s.store.job with
    | some job => s'.reErase job
    | none => s'.startTest
  else s'

/-! ### Erasing all and writing the image (R171, R172) -/

/-- The engine refuses ERASE_INCIDENTS and WRITE_CONFIG (R171, R172). -/
def State.engineRefuses (s : State) : Bool :=
  s.store.scan.isSome || s.store.phase != .idle || s.store.job.isSome || !s.recorder.pendingQueue.isEmpty ||
    s.powerFail

/-- The slots noted as retained when ERASE_INCIDENTS is taken: those whose lines are VALID with the retained indication
(R171), and those of BAD lines that may still hold a retained record, which R163 counts when this erase fails too (log entry
50). -/
def Store.retainedSlots (st : Store) : List Nat :=
  (List.range' 1 63).filter fun k => (st.lineOf k).isRetained || st.mayHold.contains k

/-- The engine takes ERASE_INCIDENTS (R171). -/
def Store.beginEraseAll (st : Store) : Store :=
  let st' : Store :=
    { st with noted := st.retainedSlots, mayHold := [], lines := List.replicate 63 .empty, retained := 0,
              lastWritten := none, phase := .erasingAll, eraseNext := some 1 }
  st'.ask (.eraseAll 1)

/-- An erase of ERASING_ALL fails: the line is BAD, and a noted slot counts as retained (R163, R171). The count is not held
to 48: it passes 48 where 48 counted slots and one noted after a failed cleanup all fail, by R163's definition of the count
and against the range of section 10's state table (log entry 50). -/
def Store.eraseFailed (st : Store) (slot : Nat) : Store :=
  let held := st.noted.contains slot
  { st.setLine slot .bad with
    retained := st.retained + (if held then 1 else 0)
    mayHold := if held then st.mayHold ++ [slot] else st.mayHold }

/-- One erase of ERASING_ALL ends (R171). -/
def State.erasedOne (s : State) (slot : Nat) (ok : Bool) : State :=
  let st : Store := if ok then s.store else s.store.eraseFailed slot
  if slot < 63 then
    let next : Store := { st with eraseNext := some (slot + 1) }
    { s with store := next.ask (.eraseAll (slot + 1)) }
  else State.startTest { s with store := { st with phase := .idle, eraseNext := none, noted := [] } }

/-- The engine takes an image (R172). -/
def Store.beginConfig (st : Store) (image : List Byte) : Store :=
  let st' : Store := { st with phase := .writingConfig, config := some { image := image, position := 0 } }
  st'.ask .eraseConfig

/-- The next image program asked for; nothing when the image is done (R172). -/
def Store.nextConfig (st : Store) (job : ConfigJob) : Option Store :=
  match job.image.drop job.position with
  | [] => none
  | left =>
    let st' : Store := { st with config := some job }
    some (st'.ask (.programConfig job.position (chunk left)))

/-- WRITING_CONFIG ends (R172). -/
def State.endConfig (s : State) : State :=
  State.startTest { s with store := { s.store with phase := .idle, config := none } }

end Sys2Proof.Machine
end

