-- ==== Sys2Proof/Machine/Recording.lean ====
section
/-! DEFINITION. The meanings of the Recorder's commands: WINDOW_TIMER_EXPIRY, POWER_FAIL_WARNING_STANDING and
POWER_FAIL_WARNING_CEASES. -/

namespace Sys2Proof.Machine

/-- The capture window has run (R156). -/
def State.windowOver (s : State) : Bool :=
  match s.recorder.capture with
  | none => false
  | some i => decide (i.windowEnd * 1000 ≤ s.clock)

/-- WINDOW_TIMER_EXPIRY (R156). -/
def execWindowTimerExpiry (dt : Nat) (s : State) : Host.Outcome State Fault Refusal :=
  .next (s.eventIf dt State.windowOver fun s => s.closeIncident false)

/-- The warning becomes standing: an incident in capture closes at once (R157). -/
def State.warningStands (s : State) : State := State.closeIncident { s with powerFail := true } true

/-- POWER_FAIL_WARNING_STANDING (R157, R169). The level is followed during the reset sequence too (log entry 9). -/
def execPowerFailWarningStanding (dt : Nat) (s : State) : Host.Outcome State Fault Refusal :=
  .next
    (if s.runPhase = .running then s.event dt State.warningStands
     else { s.advance dt with powerFail := true })

/-- POWER_FAIL_WARNING_CEASES (R157, R169). -/
def execPowerFailWarningCeases (dt : Nat) (s : State) : Host.Outcome State Fault Refusal :=
  .next
    (if s.runPhase = .running then s.event dt State.warningCeases
     else { s.advance dt with powerFail := false })

end Sys2Proof.Machine
end

