-- ==== Sys2Proof/Machine/Operands.lean ====
section
/-! DEFINITION. The request payloads of the service commands (section 12.4): each reader answers nothing when the
length is wrong for the command or a field lies outside its range (R177). -/

namespace Sys2Proof.Machine

/-- A payload of no bytes. -/
def noPayload (p : List Byte) : Option Unit := if p.length = 0 then some () else none

/-- READ_PEER: an address 1..30 (R179). -/
def peerAddress (p : List Byte) : Option Nat :=
  if p.length = 1 ∧ 1 ≤ byteAt p 0 ∧ byteAt p 0 ≤ 30 then some (byteAt p 0) else none

/-- LIST_INCIDENTS: a first slot 1..63 (R180). -/
def firstSlot (p : List Byte) : Option Nat :=
  if p.length = 1 ∧ 1 ≤ byteAt p 0 ∧ byteAt p 0 ≤ 63 then some (byteAt p 0) else none

/-- What READ_INCIDENT names (R181). -/
structure IncidentRange where
  number : Nat
  offset : Nat
  length : Nat
deriving DecidableEq, Repr

/-- READ_INCIDENT: incident number, offset, length 1..240 (R181). -/
def incidentRange (p : List Byte) : Option IncidentRange :=
  if p.length = 9 ∧ 1 ≤ byteAt p 8 ∧ byteAt p 8 ≤ 240 then
    some { number := be32At p 0, offset := be32At p 4, length := byteAt p 8 }
  else none

/-- CLEAR_CHANNEL: a channel number 0..7 (R143). -/
def channelNumber (p : List Byte) : Option Nat := if p.length = 1 ∧ byteAt p 0 ≤ 7 then some (byteAt p 0) else none

/-- A chunk of an image (R185). -/
structure Chunk where
  offset : Nat
  final  : Bool
  bytes  : List Byte
deriving DecidableEq, Repr

/-- WRITE_CONFIG: image offset, final indication 0 or 1, 1..240 bytes of image (R185, section 12.4). -/
def imageChunk (p : List Byte) : Option Chunk :=
  if 4 ≤ p.length ∧ p.length ≤ 243 ∧ byteAt p 2 ≤ 1 then
    some { offset := be16At p 0, final := decide (byteAt p 2 = 1), bytes := p.drop 3 }
  else none

end Sys2Proof.Machine
end

