-- ==== Sys2Proof/Machine/ServiceOps.lean ====
section
/-! DEFINITION. The Service Port (section 11): responses, the order of R177, and each command's service. -/

namespace Sys2Proof.Machine

/-! ### Responses (R177, section 12.4) -/

/-- The command codes of section 12.4. -/
inductive Command where
  | readStatus | readPeers | readPeer | listIncidents | readIncident | readCounters | clearCounters | trigger
  | clearChannel | eraseIncidents | writeConfig | restart
deriving DecidableEq, Repr

def commandCode : Command → Byte
  | .readStatus => 1 | .readPeers => 2 | .readPeer => 3 | .listIncidents => 4 | .readIncident => 5
  | .readCounters => 6 | .clearCounters => 7 | .trigger => 8 | .clearChannel => 9 | .eraseIncidents => 10
  | .writeConfig => 11 | .restart => 12

/-- A response formed: it enters the response queue as the newest (R177). -/
def State.respondCode (s : State) (command : Byte) (code : Code) (values : List Byte) : State :=
  { s with service := { s.service with
      responses := s.service.responses ++ [{ command := command, code := code, values := values }] } }

/-- The frame of the response at the head of the queue has gone out on the service link (R177, R188). -/
def State.sendHead (s : State) : State :=
  match s.service.responses.head? with
  | none => s
  | some r => { s with serviceOut := responseFrame r }

/-- A response to one of the twelve commands. -/
def State.respond (s : State) (c : Command) (code : Code) (values : List Byte) : State :=
  s.respondCode (commandCode c) code values

/-- A complete request has been received and the receiver hunts again (R176). -/
def State.hunt (s : State) : State := { s with service := { s.service with receiver := .hunting } }

/-- A request arrival in the order of R177: BUSY while a request is in progress, BAD_REQUEST when its payload is not
read, otherwise the command's own service. -/
def State.request {α : Type} (s : State) (c : Command) (operand : Option α) (serve : α → State → State) : State :=
  let s := s.hunt
  if s.service.inProgress.isSome then s.respond c .busy []
  else
    match operand with
    | none => s.respond c .badRequest []
    | some x => serve x s

/-- Standstill and RELEASED (R177). -/
def State.atRest (s : State) : Bool := s.slide.standstill && s.demand.mode == .released

/-- The request in progress. -/
def State.setInProgress (s : State) (q : Option Service) : State :=
  { s with service := { s.service with inProgress := q } }

/-! ### READ_STATUS, READ_PEERS, READ_PEER (R178, R179) -/

/-- A flag as a value without a field of its own: 2 bytes (section 12.4, log entry 26). -/
def flag16 (b : Bool) : List Byte := be16 b.toNat

/-- The values of READ_STATUS in the order of R178, SD, Fcmd and U those of the most recent control cycle. R128 would have
Fcmd as an exit from EMERGENCY sets it; R178, which gives the command's answer, names the cycle's (log entry 44). -/
def State.statusValues (s : State) : List Byte :=
  be8 s.address ++ be8 s.config.group ++ be8 (modeCode s.demand.mode) ++ be8 (lineCode s.line.state) ++
  be16 (recorderCode s.recorder.state) ++ be16 (phaseCode s.store.phase) ++
  be16 s.slide.vref ++ flag16 s.slide.speedAssisted ++ flag16 s.slide.standstill ++
  be16 s.demand.d ++ be16 s.outputs.cycle.sd ++ be16 s.outputs.ecmd ++ be16 s.outputs.cycle.fcmd ++
  be16 s.outputs.cycle.u ++
  [s.statementFlags] ++ flag16 s.recorder.defaultRecorder ++ be8 (sourceCode s.source) ++ flag16 s.powerFail ++
  be16 s.recorder.spare.length ++ be16 s.recorder.pendingQueue.length

/-- One line of READ_PEERS (R179). -/
def peerLine (e : PeerEntry) : List Byte :=
  be8 e.addr ++ flag16 e.fixed ++ be8 (peerCode e.state) ++ be8 (groupCode e.group)

/-- The fields of READ_PEER in the order of R179, the presence byte first. -/
def peerValues (e : PeerEntry) (now : Time) : List Byte :=
  be8 (bitIf e.heard.isSome 0 + bitIf e.last.isSome 1 + bitIf e.lastSeq.isSome 2 + bitIf e.excess.isSome 3) ++
  be8 (peerCode e.state) ++ be8 (groupCode e.group) ++ be32 ((e.heard.map (since now)).getD 0) ++
  (match e.last with
   | none => List.replicate 18 0
   | some v => statementBytes v) ++
  flag16 e.fixed ++ [e.lastSeq.getD 0] ++ be16 e.missed ++ be16 ((e.excess.map Excess.count).getD 0)

/-- READ_PEER's service (R179). -/
def State.servePeer (addr : Nat) (s : State) : State :=
  match findPeer s.peers.entries addr with
  | none => s.respond .readPeer .notFound []
  | some e => s.respond .readPeer .ok (peerValues e s.now)

/-! ### LIST_INCIDENTS, READ_INCIDENT (R180, R181) -/

/-- The VALID lines from a slot upward, each with its slot. -/
def Store.validFrom (st : Store) (slot : Nat) : List (Nat × DirLine) :=
  ((List.range' 1 63).filter fun k => decide (slot ≤ k)).filterMap fun k =>
    match st.lineOf k with
    | .valid n r c z => some (k, .valid n r c z)
    | _ => none

/-- One line of the listing, 7 bytes (R180). -/
def listLine : Nat × DirLine → List Byte
  | (k, .valid n r c _) => be8 k ++ be32 n ++ be8 c ++ [beBool r]
  | (_, _) => []

/-- The next slot after the last one listed, 0 when no VALID line lies beyond (R180, log entry 28). -/
def nextListed (lines : List (Nat × DirLine)) : Nat :=
  if 32 < lines.length then ((lines[31]?).map Prod.fst).getD 0 + 1 else 0

/-- The values of LIST_INCIDENTS (R180). -/
def Store.listing (st : Store) (slot : Nat) : List Byte :=
  let lines := st.validFrom slot
  (lines.take 32).flatMap listLine ++ be8 (nextListed lines) ++ be8 st.retained

/-- The slot and body length of the record with a number, from the directory (R163). -/
def Store.findNumber (st : Store) (number : Nat) : Option (Nat × Nat) :=
  (st.validFrom 1).findSome? fun p =>
    match p.2 with
    | .valid n _ _ z => if n = number then some (p.1, z) else none
    | _ => none

/-- READ_INCIDENT's service at its arrival (R181). -/
def State.serveIncident (r : IncidentRange) (s : State) : State :=
  match s.store.findNumber r.number with
  | none => s.respond .readIncident .notFound []
  | some (slot, size) =>
    if headerSize + size ≤ r.offset then s.respond .readIncident .badRequest []
    else
      let n := min r.length (headerSize + size - r.offset)
      State.setInProgress { s with store := s.store.ask (.readIncident slot r.offset n) } (some .readIncident)

/-- The flash read of READ_INCIDENT ends (R181). -/
def State.incidentRead (s : State) (slot offset n : Nat) (ok : Bool) : State :=
  let s' := State.setInProgress { s with store := { s.store with inFlight := none } } none
  if ok then s'.respond .readIncident .ok (Memory.readBytes 0xFF s.flash (slotAddress slot + offset) n)
  else s'.respond .readIncident .busy []

/-! ### Counters, TRIGGER, CLEAR_CHANNEL (R143, R182, R183) -/

/-- The values of READ_COUNTERS in the order of R182. -/
def State.counterValues (s : State) : List Byte :=
  countersBeforeLost.flatMap (fun i => be16 (s.counters.get i)) ++
    s.recorder.chans.flatMap (fun ch => be16 ch.lost) ++
    countersAfterLost.flatMap fun i => be16 (s.counters.get i)

/-- Every counter and every missed count at 0 (R182). -/
def State.clearCounters (s : State) : State :=
  { s with
    counters := zeroCounters
    recorder := { s.recorder with chans := s.recorder.chans.map fun (ch : Channel) => { ch with lost := 0 } }
    peers := { s.peers with entries := s.peers.entries.map fun (e : PeerEntry) => { e with missed := 0 } } }

/-- TRIGGER's service (R183). -/
def State.serveTrigger (s : State) : State :=
  (s.respond .trigger .ok []).deliver (causeOf .manual [])

/-- CLEAR_CHANNEL's service (R143). -/
def State.serveClear (c : Nat) (s : State) : State :=
  match s.recorder.chans[c]? with
  | none => s.respond .clearChannel .badRequest []
  | some ch =>
    if ch.state = .off then s.respond .clearChannel .badRequest []
    else if s.slide.standstill = false then s.respond .clearChannel .notStandstill []
    else if s.recorder.state = .capturing then s.respond .clearChannel .busy []
    else
      State.respond { s with recorder := { s.recorder with chans := s.recorder.chans.set c ch.cleared } }
        .clearChannel .ok []

/-! ### ERASE_INCIDENTS, WRITE_CONFIG, RESTART (R171, R172, R184 to R186) -/

/-- ERASE_INCIDENTS's service (R184). -/
def State.serveErase (s : State) : State :=
  if s.atRest = false then s.respond .eraseIncidents .notStandstill []
  else if s.engineRefuses then s.respond .eraseIncidents .busy []
  else State.respond { s with store := s.store.beginEraseAll } .eraseIncidents .ok []

/-- The image assembly changed. -/
def State.setAssembly (s : State) (a : Option (List Byte)) : State :=
  { s with service := { s.service with assembly := a } }

/-- The assembly that a chunk makes; absent when the chunk does not fit (R185). -/
def assembled (old : Option (List Byte)) (c : Chunk) : Option (List Byte) :=
  if c.offset = 0 then some c.bytes
  else
    match old with
    | none => none
    | some a => if c.offset = a.length ∧ a.length + c.bytes.length ≤ imageLength then some (a ++ c.bytes) else none

/-- A complete assembly checked and handed to the engine (R185). -/
def State.finishImage (s : State) (image : List Byte) : State :=
  let s' := s.setAssembly none
  if image.length < imageLength then s'.respond .writeConfig .badImage (be8 (sourceCode Config.shortImageSource))
  else if checkImage image ≠ .loaded then
    s'.respond .writeConfig .badImage (be8 (sourceCode (checkImage image)))
  else if s.engineRefuses then s'.respond .writeConfig .busy []
  else State.setInProgress { s' with store := s'.store.beginConfig image } (some .writeConfig)

/-- WRITE_CONFIG's service (R185). -/
def State.serveChunk (c : Chunk) (s : State) : State :=
  if s.atRest = false then (s.setAssembly none).respond .writeConfig .notStandstill []
  else
    match assembled s.service.assembly c with
    | none => (s.setAssembly none).respond .writeConfig .badRequest []
    | some a =>
      if c.final then s.finishImage a else (s.setAssembly (some a)).respond .writeConfig .ok []

/-- The engine's report of WRITING_CONFIG answered, then the engine in IDLE (R172, R185). -/
def State.configDone (s : State) (ok : Bool) : State :=
  let s' :=
    if ok then s.respond .writeConfig .ok []
    else s.respond .writeConfig .badImage (be8 (sourceCode .readFailed))
  (s'.setInProgress none).endConfig

/-- The erase of slot 0 or an image program ends: the next program, or the end (R172). -/
def State.configStep (s : State) (job : ConfigJob) (ok : Bool) : State :=
  if ok then
    match s.store.nextConfig job with
    | none => s.configDone true
    | some st => { s with store := st }
  else s.configDone false

/-- RESTART's service (R186). -/
def State.serveRestart (s : State) : State :=
  if s.atRest = false then s.respond .restart .notStandstill []
  else (s.respond .restart .ok []).setInProgress (some .restart)

/-- The response at the head of the queue is the OK of a RESTART in progress (R186). -/
def State.restartAtHead (s : State) : Bool :=
  s.service.inProgress == some .restart &&
    match s.service.responses.head? with
    | none => false
    | some r => r == { command := commandCode .restart, code := .ok, values := [] }

/-! ### Requests (R177): what a request of each command does at its arrival -/

/-- A command code that section 12.4 does not name. -/
def unknownCode (code : Byte) : Bool := decide (code.toNat = 0) || decide (12 < code.toNat)

/-- An unknown command's response (R177). -/
def State.takeUnknown (s : State) (code : Byte) : State :=
  if s.service.inProgress.isSome then s.hunt.respondCode code .busy [] else s.hunt.respondCode code .badRequest []

/-- A READ_STATUS request (R178). -/
def State.takeReadStatus (s : State) (payload : List Byte) : State :=
  s.request .readStatus (noPayload payload) fun _ s => s.respond .readStatus .ok s.statusValues

/-- A READ_PEERS request (R179). -/
def State.takeReadPeers (s : State) (payload : List Byte) : State :=
  s.request .readPeers (noPayload payload) fun _ s => s.respond .readPeers .ok (s.peers.entries.flatMap peerLine)

/-- A READ_PEER request (R179). -/
def State.takeReadPeer (s : State) (payload : List Byte) : State :=
  s.request .readPeer (peerAddress payload) State.servePeer

/-- A LIST_INCIDENTS request (R180). -/
def State.takeListIncidents (s : State) (payload : List Byte) : State :=
  s.request .listIncidents (firstSlot payload) fun k s => s.respond .listIncidents .ok (s.store.listing k)

/-- A READ_INCIDENT request (R181). -/
def State.takeReadIncident (s : State) (payload : List Byte) : State :=
  s.request .readIncident (incidentRange payload) State.serveIncident

/-- A READ_COUNTERS request (R182). -/
def State.takeReadCounters (s : State) (payload : List Byte) : State :=
  s.request .readCounters (noPayload payload) fun _ s => s.respond .readCounters .ok s.counterValues

/-- A CLEAR_COUNTERS request (R182). -/
def State.takeClearCounters (s : State) (payload : List Byte) : State :=
  s.request .clearCounters (noPayload payload) fun _ s => s.clearCounters.respond .clearCounters .ok []

/-- A TRIGGER request (R183). -/
def State.takeTrigger (s : State) (payload : List Byte) : State :=
  s.request .trigger (noPayload payload) fun _ s => s.serveTrigger

/-- A CLEAR_CHANNEL request (R143). -/
def State.takeClearChannel (s : State) (payload : List Byte) : State :=
  s.request .clearChannel (channelNumber payload) State.serveClear

/-- An ERASE_INCIDENTS request (R171, R184). -/
def State.takeEraseIncidents (s : State) (payload : List Byte) : State :=
  s.request .eraseIncidents (noPayload payload) fun _ s => s.serveErase

/-- A WRITE_CONFIG request (R172, R185). -/
def State.takeWriteConfig (s : State) (payload : List Byte) : State :=
  s.request .writeConfig (imageChunk payload) State.serveChunk

/-- A RESTART request (R186). -/
def State.takeRestart (s : State) (payload : List Byte) : State :=
  s.request .restart (noPayload payload) fun _ s => s.serveRestart

/-- A complete request with a good CRC, by its command code (R176, R177, section 12.4). -/
def State.takeRequest (s : State) (code : Byte) (payload : List Byte) : State :=
  match code.toNat with
  | 1 => s.takeReadStatus payload
  | 2 => s.takeReadPeers payload
  | 3 => s.takeReadPeer payload
  | 4 => s.takeListIncidents payload
  | 5 => s.takeReadIncident payload
  | 6 => s.takeReadCounters payload
  | 7 => s.takeClearCounters payload
  | 8 => s.takeTrigger payload
  | 9 => s.takeClearChannel payload
  | 10 => s.takeEraseIncidents payload
  | 11 => s.takeWriteConfig payload
  | 12 => s.takeRestart payload
  | _ => s.takeUnknown code

end Sys2Proof.Machine
end

