-- ==== Sys2Proof/Machine/ResetOps.lean ====
section
/-! DEFINITION. The reset sequence (R174) and what it leaves in the flash of an operation in flight (R173). -/

namespace Sys2Proof.Machine

/-- What a cut-off leaves: a slot being erased holds no valid record, and slot 0 being written fails its check; where
the bytes left would say otherwise, the slot stands erased (R173, log entry 23). -/
def settleCut (flash : Memory) : FlashOp → Memory
  | .eraseTarget k | .eraseCleanup k | .eraseAll k =>
    if scanLine flash k = .empty then flash else flash.clear (slotAddress k) slotSize
  | .eraseConfig | .programConfig _ _ =>
    if checkImage (Memory.readBytes 0xFF flash 0 imageLength) = .loaded then flash.clear 0 slotSize else flash
  | .readImage | .readIncident _ _ _ | .scanRead _ | .programBody _ _ _ | .programHeader _ _ => flash

/-- The flash after the operation in flight was cut off with `left` in the region it was to change (R173). An operation
asked for and not granted has changed nothing (log entry 23). -/
def State.cutOff (s : State) (left : List Byte) : Memory :=
  match s.store.inFlight with
  | none => s.flash
  | some op => settleCut (op.leftBy s.flash left) op

/-- The reset sequence starts (R174): the straps are sampled; with CFGDEF set the default is in force and every unit
takes its reset state; otherwise the read of slot 0 is asked for, with every unit standing in the reset state of the
default configuration until it ends (log entry 9). -/
def State.beginReset (s : State) (straps : Straps) (left : List Byte) : State :=
  let s' : State := { s with flash := s.cutOff left, address := straps.address.toNat, cfgdef := straps.cfgdef }
  if straps.cfgdef then s'.reinit defaultConfig .defaultStrap
  else
    { s'.reinit defaultConfig s.source with
      runPhase := .loading, store := { resetStore with requests := [.readImage] } }

/-- The image as slot 0 holds it. -/
def State.slotImage (s : State) : List Byte := Memory.readBytes 0xFF s.flash 0 imageLength

/-- The read of slot 0 ends: the image is checked, the configuration put in force, and every unit takes its reset
state (R174, R175). -/
def State.imageRead (s : State) (ok : Bool) : State :=
  let src := if ok then checkImage s.slotImage else .readFailed
  s.reinit (configFrom src s.slotImage) src

end Sys2Proof.Machine
end

