-- ==== Sys2Proof/Machine/Resets.lean ====
section
/-! DEFINITION. The meanings of the commands that start and end the reset sequence: RESET, RESTART_RESPONSE_SENT and
CONFIG_IMAGE_READ_COMPLETION. -/

namespace Sys2Proof.Machine

/-- RESET (R174): the sequence starts whatever the part does. -/
def execReset (_dt : Nat) (straps : Straps) (left : List Byte) (s : State) : Host.Outcome State Fault Refusal :=
  .next (s.beginReset straps left)

/-- RESTART_RESPONSE_SENT (R186): the OK of RESTART at the head of the queue has been sent, every response before it
too, and the part starts the reset sequence as the reset pin does. -/
def execRestartResponseSent (dt : Nat) (straps : Straps) (left : List Byte) (s : State) :
    Host.Outcome State Fault Refusal :=
  .next (if s.restartAtHead then s.sendHead.beginReset straps left else s.advance dt)

/-- CONFIG_IMAGE_READ_COMPLETION (R175). -/
def execConfigImageReadCompletion (dt : Nat) (ok : Bool) (s : State) : Host.Outcome State Fault Refusal :=
  .next
    (if s.runPhase = .loading ∧ s.store.inFlight = some .readImage then s.imageRead ok else s.advance dt)

end Sys2Proof.Machine
end

