-- ==== Sys2Proof/Machine/Sensors.lean ====
section
/-! DEFINITION. The meanings of the Acquisition Unit's commands: PRESSURE_CONVERSION_COMPLETION, SCAN_COMPLETION,
TOOTH_PULSE, SPEED_WINDOW_EXPIRY, HANDLE_INPUT_EDGE. -/

namespace Sys2Proof.Machine

/-- A conversion delivered; a channel left out of the scan is never sampled (R1). -/
def State.convert (s : State) (i : PressId) (c : Conversion) : State :=
  let ch := s.acq.chans.get i
  if ch.state = .absent then s
  else { s with acq := { s.acq with chans := s.acq.chans.set i { ch with sample := ch.sample.deliver c } } }

/-- PRESSURE_CONVERSION_COMPLETION (R1): the result stands until the scan completion. -/
def execPressureConversionCompletion (dt : Nat) (channel : PressId) (result : Conversion) (s : State) :
    Host.Outcome State Fault Refusal :=
  .next (s.event dt fun s => s.convert channel result)

/-- The pressure-trace record and the peaks of an arrived set (R6, R135, R144). -/
def State.recordPressures (s : State) : State :=
  match s.acq.latest with
  | none => s
  | some p =>
    let r := s.recorder.trace (ofKind .pressureTrace) (pressureRecord p)
    { s with recorder := r.peakPressure p.chans.bp.value p.chans.bc.value s.now }

/-- A scan completion: the channels, the history and the set; its SENSOR_FAULT triggers; then the set's arrival at the
demand section, the output section, the traces and the peaks (R1 to R6). The set is the latest one when the triggers are
delivered, so the summary of an incident that one of them opens shows this scan's set (log entry 11). -/
def State.scanCompletes (s : State) : State :=
  let r := s.acq.scan s.config.pscan s.now
  (State.deliverAll { s with acq := r.1 } r.2).demandArrival.outputArrival.recordPressures

/-- SCAN_COMPLETION (R1). -/
def execScanCompletion (dt : Nat) (s : State) : Host.Outcome State Fault Refusal :=
  .next (s.eventIf dt (fun s => decide (s.acq.scanDue ≤ s.clock)) State.scanCompletes)

/-- TOOTH_PULSE (R9). -/
def execToothPulse (dt : Nat) (axle : AxleId) (s : State) : Host.Outcome State Fault Refusal :=
  .next (s.event dt fun s =>
    { s with acq := { s.acq with axles := s.acq.axles.set axle ((s.acq.axles.get axle).pulse s.stamp) } })

/-- A speed window expiry: the AU's work, the speed set's arrival at the SPU, and a change of standstill handed to the
demand section (R10 to R17, R35, R40). -/
def State.windowExpires (s : State) (faults : Tri Bool) : State :=
  let t := State.speedArrival { s with acq := s.acq.window faults s.handleLevel s.clock s.now s.stamp }
  if t.slide.standstill = s.slide.standstill then t else t.standstillChanged

/-- SPEED_WINDOW_EXPIRY (R10); the flags are the open/short monitors of axles 1, 2, 3. -/
def execSpeedWindowExpiry (dt : Nat) (fault1 fault2 fault3 : Bool) (s : State) : Host.Outcome State Fault Refusal :=
  .next (s.eventIf dt (fun s => decide (s.acq.windowDue ≤ s.clock)) fun s =>
    s.windowExpires ⟨fault1, fault2, fault3⟩)

/-- An edge of the handle input (R16). -/
def State.handleEdge (s : State) (high : Bool) : State :=
  { s with handleLevel := high, acq := { s.acq with handle := s.acq.handle.edge s.handleLevel s.clock } }

/-- HANDLE_INPUT_EDGE (R16). The level of the input is followed during the reset sequence too (log entry 9). -/
def execHandleInputEdge (dt : Nat) (high : Bool) (s : State) : Host.Outcome State Fault Refusal :=
  .next ((s.advance dt).handleEdge high)

end Sys2Proof.Machine
end

