-- ==== Sys2Proof/Machine/Receiver.lean ====
section
/-! DEFINITION. The receiver of the service link (R176): hunting for a start byte, assembling a request, the three ways in
which a request is discarded, and the arrival of a complete one. -/

namespace Sys2Proof.Machine

/-- The start byte (section 12.4). -/
def startByte : Byte := 0x7E#8

/-- The 50 ms that a request has from its start byte (R176), in µs. -/
def requestTime : Nat := 50000

/-- Whether the bytes after a start byte make a whole request: command, length, payload and two CRC bytes (R176). -/
def requestWhole (bs : List Byte) : Bool := decide (2 ≤ bs.length) && decide (bs.length = byteAt bs 1 + 4)

/-- What the receiver finds in the bytes it has taken (R176). -/
inductive Heard where
  | nothing | discard
  | request (code : Byte) (payload : List Byte)
deriving DecidableEq, Repr

/-- A whole request at its CRC check: its command code and its payload, or a discard (R176). -/
def checkRequest (bs : List Byte) : Heard :=
  if crcGood bs then .request (bs.getD 0 0) ((bs.drop 2).take (byteAt bs 1)) else .discard

/-- One byte at the receiver, ended at a time of the exact clock: the receiver after it and what it finds (R176). -/
def Receiver.take (r : Receiver) (time : Nat) (b : LinkByte) : Receiver × Heard :=
  match r with
  | .hunting => (if b.framing = false ∧ b.value = startByte then .assembling [] time else .hunting, .nothing)
  | .assembling bs start =>
    if b.framing then (.hunting, .discard)
    else
      let all := bs ++ [b.value]
      if requestWhole all then (.hunting, checkRequest all) else (.assembling all start, .nothing)

/-- A request whose 50 ms ended before a time is discarded (R176). -/
def Receiver.expire (r : Receiver) (ended : Nat → Bool) : Receiver × Heard :=
  match r with
  | .hunting => (.hunting, .nothing)
  | .assembling bs start =>
    if ended (start + requestTime) then (.hunting, .discard) else (.assembling bs start, .nothing)

/-- The receiver in a state, with what it has found: a discard is counted as a service frame error (R176, R182), and a
request arrives (R177). -/
def State.setReceiver (s : State) (r : Receiver × Heard) : State :=
  let s' : State := { s with service := { s.service with receiver := r.1 } }
  match r.2 with
  | .nothing => s'
  | .discard => s'.bump .serviceErrors
  | .request code payload => s'.takeRequest code payload

/-- One byte heard now: a request whose 50 ms had ended by then is discarded before it (R176). -/
def State.hearByte (s : State) (b : LinkByte) : State :=
  let s' := s.setReceiver (s.service.receiver.expire fun due => decide (due < s.clock))
  s'.setReceiver (s'.service.receiver.take s.clock b)

/-- Bytes heard one after the other, each in an event of its own at its time (R176). -/
def State.hearBytes (s : State) : List LinkByte → State
  | [] => s
  | b :: bs => (s.event b.wait fun s => s.hearByte b).hearBytes bs

/-- A request not complete at the end of its 50 ms is discarded (R176). -/
def State.timeOut (s : State) : State := s.setReceiver (s.service.receiver.expire fun due => decide (due ≤ s.clock))

/-- The time until the last of some bytes has been heard. -/
def heardTime (bs : List LinkByte) : Nat := sumOf (bs.map LinkByte.wait)

end Sys2Proof.Machine
end

