-- ==== Sys2Proof/Machine/ServiceCommands.lean ====
section
/-! DEFINITION. The meanings of the Service Port's commands: bytes heard, the requests of section 11.4 but for the reset
that follows RESTART, and SERVICE_RESPONSE_SENT. -/

namespace Sys2Proof.Machine

/-- SERVICE_FRAME_ERROR (R176, R182): the bytes are heard at their times, every discard among them is counted and every
complete request arrives. -/
def execServiceFrameError (dt : Nat) (bytes : List LinkByte) (s : State) : Host.Outcome State Fault Refusal :=
  .next ((s.hearBytes bytes).advance (dt - heardTime bytes))

/-- REQUEST_TIMEOUT (R176, R182): the bytes are heard at their times, and a request not complete at the end of its 50 ms is
discarded. -/
def execRequestTimeout (span : LinkSpan) (s : State) : Host.Outcome State Fault Refusal :=
  .next ((s.hearBytes span.bytes).event (span.dt - heardTime span.bytes) State.timeOut)

/-- UNKNOWN_COMMAND (R177). -/
def execUnknownCommand (dt : Nat) (code : Byte) (_payload : List Byte) (s : State) :
    Host.Outcome State Fault Refusal :=
  .next (s.eventIf dt (fun _ => unknownCode code) fun s => s.takeUnknown code)

/-- READ_STATUS (R178). -/
def execReadStatus (dt : Nat) (payload : List Byte) (s : State) : Host.Outcome State Fault Refusal :=
  .next (s.event dt fun s => s.takeReadStatus payload)

/-- READ_PEERS (R179). -/
def execReadPeers (dt : Nat) (payload : List Byte) (s : State) : Host.Outcome State Fault Refusal :=
  .next (s.event dt fun s => s.takeReadPeers payload)

/-- READ_PEER (R179). -/
def execReadPeer (dt : Nat) (payload : List Byte) (s : State) : Host.Outcome State Fault Refusal :=
  .next (s.event dt fun s => s.takeReadPeer payload)

/-- LIST_INCIDENTS (R180). -/
def execListIncidents (dt : Nat) (payload : List Byte) (s : State) : Host.Outcome State Fault Refusal :=
  .next (s.event dt fun s => s.takeListIncidents payload)

/-- READ_INCIDENT (R181). -/
def execReadIncident (dt : Nat) (payload : List Byte) (s : State) : Host.Outcome State Fault Refusal :=
  .next (s.event dt fun s => s.takeReadIncident payload)

/-- READ_COUNTERS (R182). -/
def execReadCounters (dt : Nat) (payload : List Byte) (s : State) : Host.Outcome State Fault Refusal :=
  .next (s.event dt fun s => s.takeReadCounters payload)

/-- CLEAR_COUNTERS (R182). -/
def execClearCounters (dt : Nat) (payload : List Byte) (s : State) : Host.Outcome State Fault Refusal :=
  .next (s.event dt fun s => s.takeClearCounters payload)

/-- TRIGGER (R183). -/
def execTrigger (dt : Nat) (payload : List Byte) (s : State) : Host.Outcome State Fault Refusal :=
  .next (s.event dt fun s => s.takeTrigger payload)

/-- CLEAR_CHANNEL (R143). -/
def execClearChannel (dt : Nat) (payload : List Byte) (s : State) : Host.Outcome State Fault Refusal :=
  .next (s.event dt fun s => s.takeClearChannel payload)

/-- ERASE_INCIDENTS (R171, R184). -/
def execEraseIncidents (dt : Nat) (payload : List Byte) (s : State) : Host.Outcome State Fault Refusal :=
  .next (s.event dt fun s => s.takeEraseIncidents payload)

/-- WRITE_CONFIG (R172, R185). -/
def execWriteConfig (dt : Nat) (payload : List Byte) (s : State) : Host.Outcome State Fault Refusal :=
  .next (s.event dt fun s => s.takeWriteConfig payload)

/-- RESTART (R186). -/
def execRestart (dt : Nat) (payload : List Byte) (s : State) : Host.Outcome State Fault Refusal :=
  .next (s.event dt fun s => s.takeRestart payload)

/-- The response at the head of the queue has been sent and leaves it (R177); the OK of a RESTART leaves with the reset
that it starts (R186, log entry 33). -/
def State.responseSent (s : State) : State :=
  if s.restartAtHead then s
  else
    let s' := s.sendHead
    { s' with service := { s'.service with responses := s'.service.responses.tail } }

/-- SERVICE_RESPONSE_SENT (R177). -/
def execServiceResponseSent (dt : Nat) (s : State) : Host.Outcome State Fault Refusal :=
  .next (s.event dt State.responseSent)

end Sys2Proof.Machine
end

