-- ==== Sys2Proof/Machine/StoreEvents.lean ====
section
/-! DEFINITION. The meanings of the flash interface's commands: the grant and the end of each kind of operation. An end
is an event only of an operation of its kind in flight. -/

namespace Sys2Proof.Machine

/-- FLASH_INTERFACE_GRANT (R170); slot 0 is read through it during the reset sequence too. -/
def execFlashInterfaceGrant (dt : Nat) (s : State) : Host.Outcome State Fault Refusal :=
  .next (s.advance dt).grantFlash

/-- The end of a scan read (R164). -/
def State.scanReadEvent (s : State) (ok : Bool) : State :=
  match s.store.inFlight with
  | some (.scanRead slot) => s.scanRead slot ok
  | _ => s

/-- SCAN_READ_COMPLETION (R164). -/
def execScanReadCompletion (dt : Nat) (ok : Bool) (s : State) : Host.Outcome State Fault Refusal :=
  .next (s.event dt fun s => s.scanReadEvent ok)

/-- The end of a target or cleanup erase (R166, R168). -/
def State.slotEraseEvent (s : State) (r : FlashResult) : State :=
  match s.store.inFlight, s.store.job with
  | some (.eraseTarget k), some job => (s.endOp (.eraseTarget k) r).slotErased false job (resultOk r)
  | some (.eraseCleanup k), some job => (s.endOp (.eraseCleanup k) r).slotErased true job (resultOk r)
  | _, _ => s

/-- SLOT_ERASE_COMPLETION (R166, R168). -/
def execSlotEraseCompletion (dt : Nat) (result : FlashResult) (s : State) : Host.Outcome State Fault Refusal :=
  .next (s.event dt fun s => s.slotEraseEvent result)

/-- The end of a body program (R166, R168). -/
def State.bodyEvent (s : State) (r : FlashResult) : State :=
  match s.store.inFlight, s.store.job with
  | some (.programBody k p bs), some job => (s.endOp (.programBody k p bs) r).bodyProgrammed bs.length job (resultOk r)
  | _, _ => s

/-- BODY_PROGRAM_COMPLETION (R166, R168). -/
def execBodyProgramCompletion (dt : Nat) (result : FlashResult) (s : State) : Host.Outcome State Fault Refusal :=
  .next (s.event dt fun s => s.bodyEvent result)

/-- The end of a header program (R167, R168). -/
def State.headerEvent (s : State) (r : FlashResult) : State :=
  match s.store.inFlight, s.store.job with
  | some (.programHeader k bs), some job => (s.endOp (.programHeader k bs) r).headerProgrammed job (resultOk r)
  | _, _ => s

/-- HEADER_PROGRAM_COMPLETION (R167, R168). -/
def execHeaderProgramCompletion (dt : Nat) (result : FlashResult) (s : State) : Host.Outcome State Fault Refusal :=
  .next (s.event dt fun s => s.headerEvent result)

/-- The end of one erase of ERASING_ALL (R171). -/
def State.eraseAllEvent (s : State) (r : FlashResult) : State :=
  match s.store.inFlight with
  | some (.eraseAll k) => (s.endOp (.eraseAll k) r).erasedOne k (resultOk r)
  | _ => s

/-- ERASE_ALL_COMPLETION (R171). -/
def execEraseAllCompletion (dt : Nat) (result : FlashResult) (s : State) : Host.Outcome State Fault Refusal :=
  .next (s.event dt fun s => s.eraseAllEvent result)

/-- The end of the erase of slot 0 (R172). -/
def State.configEraseEvent (s : State) (r : FlashResult) : State :=
  match s.store.inFlight, s.store.config with
  | some .eraseConfig, some job => (s.endOp .eraseConfig r).configStep { job with position := 0 } (resultOk r)
  | _, _ => s

/-- CONFIG_ERASE_COMPLETION (R172). -/
def execConfigEraseCompletion (dt : Nat) (result : FlashResult) (s : State) : Host.Outcome State Fault Refusal :=
  .next (s.event dt fun s => s.configEraseEvent result)

/-- The end of an image program (R172). -/
def State.configProgramEvent (s : State) (r : FlashResult) : State :=
  match s.store.inFlight, s.store.config with
  | some (.programConfig p bs), some job =>
    (s.endOp (.programConfig p bs) r).configStep { job with position := p + bs.length } (resultOk r)
  | _, _ => s

/-- CONFIG_PROGRAM_COMPLETION (R172). -/
def execConfigProgramCompletion (dt : Nat) (result : FlashResult) (s : State) : Host.Outcome State Fault Refusal :=
  .next (s.event dt fun s => s.configProgramEvent result)

/-- The end of the read of READ_INCIDENT (R181). -/
def State.incidentReadEvent (s : State) (ok : Bool) : State :=
  match s.store.inFlight with
  | some (.readIncident slot offset n) => s.incidentRead slot offset n ok
  | _ => s

/-- INCIDENT_READ_COMPLETION (R181). -/
def execIncidentReadCompletion (dt : Nat) (ok : Bool) (s : State) : Host.Outcome State Fault Refusal :=
  .next (s.event dt fun s => s.incidentReadEvent ok)

end Sys2Proof.Machine
end

