-- ==== Sys2Proof/Machine/Dispatch.lean ====
section
/-! DEFINITION. The meaning of every command, one arm for each row of the table. -/

namespace Sys2Proof.Machine

/-- A command's effect on everything but the queue of commands. -/
def exec (i : Instr) (s : State) : Host.Outcome State Fault Refusal :=
  match i with
  | .reset dt straps left => Sys2Proof.Machine.execReset dt straps left s
  | .configImageReadCompletion dt ok => Sys2Proof.Machine.execConfigImageReadCompletion dt ok s
  | .scanCompletion dt => Sys2Proof.Machine.execScanCompletion dt s
  | .toothPulse dt axle => Sys2Proof.Machine.execToothPulse dt axle s
  | .speedWindowExpiry dt fault1 fault2 fault3 => Sys2Proof.Machine.execSpeedWindowExpiry dt fault1 fault2 fault3 s
  | .controlCycle dt => Sys2Proof.Machine.execControlCycle dt s
  | .noticeRepeatExpiry dt => Sys2Proof.Machine.execNoticeRepeatExpiry dt s
  | .exitTimerExpiry dt => Sys2Proof.Machine.execExitTimerExpiry dt s
  | .statusReplyArrival dt frame => Sys2Proof.Machine.execStatusReplyArrival dt frame s
  | .receiveCompletion dt frame extraBits => Sys2Proof.Machine.execReceiveCompletion dt frame extraBits s
  | .listenTimerExpiry dt => Sys2Proof.Machine.execListenTimerExpiry dt s
  | .statementTimerExpiry dt => Sys2Proof.Machine.execStatementTimerExpiry dt s
  | .dueStatementQueued dt => Sys2Proof.Machine.execDueStatementQueued dt s
  | .holdTimerExpiry dt => Sys2Proof.Machine.execHoldTimerExpiry dt s
  | .attemptStart dt => Sys2Proof.Machine.execAttemptStart dt s
  | .collision dt => Sys2Proof.Machine.execCollision dt s
  | .jamEnd dt => Sys2Proof.Machine.execJamEnd dt s
  | .backoffWaitEnd dt cls => Sys2Proof.Machine.execBackoffWaitEnd dt cls s
  | .lateCollision dt => Sys2Proof.Machine.execLateCollision dt s
  | .frameSent dt => Sys2Proof.Machine.execFrameSent dt s
  | .ageingTimerExpiry dt => Sys2Proof.Machine.execAgeingTimerExpiry dt s
  | .windowTimerExpiry dt => Sys2Proof.Machine.execWindowTimerExpiry dt s
  | .powerFailWarningStanding dt => Sys2Proof.Machine.execPowerFailWarningStanding dt s
  | .powerFailWarningCeases dt => Sys2Proof.Machine.execPowerFailWarningCeases dt s
  | .scanReadCompletion dt ok => Sys2Proof.Machine.execScanReadCompletion dt ok s
  | .flashInterfaceGrant dt => Sys2Proof.Machine.execFlashInterfaceGrant dt s
  | .slotEraseCompletion dt result => Sys2Proof.Machine.execSlotEraseCompletion dt result s
  | .bodyProgramCompletion dt result => Sys2Proof.Machine.execBodyProgramCompletion dt result s
  | .headerProgramCompletion dt result => Sys2Proof.Machine.execHeaderProgramCompletion dt result s
  | .eraseAllCompletion dt result => Sys2Proof.Machine.execEraseAllCompletion dt result s
  | .configEraseCompletion dt result => Sys2Proof.Machine.execConfigEraseCompletion dt result s
  | .configProgramCompletion dt result => Sys2Proof.Machine.execConfigProgramCompletion dt result s
  | .incidentReadCompletion dt ok => Sys2Proof.Machine.execIncidentReadCompletion dt ok s
  | .serviceFrameError dt bytes => Sys2Proof.Machine.execServiceFrameError dt bytes s
  | .requestTimeout span => Sys2Proof.Machine.execRequestTimeout span s
  | .unknownCommand dt code payload => Sys2Proof.Machine.execUnknownCommand dt code payload s
  | .readStatus dt payload => Sys2Proof.Machine.execReadStatus dt payload s
  | .readPeers dt payload => Sys2Proof.Machine.execReadPeers dt payload s
  | .readPeer dt payload => Sys2Proof.Machine.execReadPeer dt payload s
  | .listIncidents dt payload => Sys2Proof.Machine.execListIncidents dt payload s
  | .readIncident dt payload => Sys2Proof.Machine.execReadIncident dt payload s
  | .readCounters dt payload => Sys2Proof.Machine.execReadCounters dt payload s
  | .clearCounters dt payload => Sys2Proof.Machine.execClearCounters dt payload s
  | .trigger dt payload => Sys2Proof.Machine.execTrigger dt payload s
  | .clearChannel dt payload => Sys2Proof.Machine.execClearChannel dt payload s
  | .eraseIncidents dt payload => Sys2Proof.Machine.execEraseIncidents dt payload s
  | .writeConfig dt payload => Sys2Proof.Machine.execWriteConfig dt payload s
  | .restart dt payload => Sys2Proof.Machine.execRestart dt payload s
  | .restartResponseSent dt straps left => Sys2Proof.Machine.execRestartResponseSent dt straps left s
  | .pressureConversionCompletion dt channel result => Sys2Proof.Machine.execPressureConversionCompletion dt channel result s
  | .handleInputEdge dt high => Sys2Proof.Machine.execHandleInputEdge dt high s
  | .serviceResponseSent dt => Sys2Proof.Machine.execServiceResponseSent dt s

end Sys2Proof.Machine
end

