-- ==== Sys2Proof/Safety.lean ====
section
/-! DEFINITION. What a sound state is, in the terms that the statements use: the laws that the manual gives (laws 1 to
6, 8 and 9) and the ranges of its state tables, each as a predicate on the state or on one unit. -/

namespace Sys2Proof.Machine

/-! ### Recorder (R75, R130, R133, R146, R159) -/

/-- Every block of the pool, once for each place that holds it: the spare pool, the channels' holdings, the frozen
lists of the pending incidents. -/
def Recorder.blockList (r : Recorder) : List Nat :=
  r.spare ++ r.chans.flatMap Channel.holding ++ r.pendingQueue.flatMap PendingEntry.blocks

/-- Law 1: each of the 96 blocks is in exactly one place (R130). -/
def Recorder.Partition (r : Recorder) : Prop := r.blockList.Perm (List.range 96)

/-- Law 2: no channel's holding exceeds its allocation, and a channel that is not enabled holds nothing (R133). -/
def Recorder.HoldingsBounded (r : Recorder) : Prop :=
  ∀ ch ∈ r.chans, ch.holding.length ≤ ch.alloc ∧ (ch.enable = false → ch.holding = [])

/-- A Recorder holds its blocks as another one does: the same spare pool and arbiter, and in every channel the same holding,
but for the order that later event records give the blocks within it. -/
def Recorder.HoldsAs (t r : Recorder) : Prop :=
  t.spare = r.spare ∧ t.lastServed = r.lastServed ∧ t.chans.length = r.chans.length ∧
    ∀ (c : Nat) (ch old : Channel), t.chans[c]? = some ch → r.chans[c]? = some old →
      ch.holding.Perm old.holding ∧ ch.alloc = old.alloc ∧ ch.enable = old.enable

/-- Blocks have come back to the spare pool, which stays in order, and a round of the spare arbiter has then run (R141). -/
def Recorder.RoundAfter (r : Recorder) (back : List Nat) (capped : Bool) (t : Recorder) : Prop :=
  ∃ pool : List Nat, pool.Perm (r.spare ++ back) ∧ (r.spare.Pairwise (· ≤ ·) → pool.Pairwise (· ≤ ·)) ∧
    t.HoldsAs (Recorder.round { r with spare := pool } capped)

/-- The spare pool and every channel's list of empty granted blocks are in ascending order, so that the first block of each
is the lowest (R140, R141). -/
def Recorder.Ascending (r : Recorder) : Prop :=
  r.spare.Pairwise (· < ·) ∧ ∀ ch ∈ r.chans, ch.empty.Pairwise (· < ·)

/-- The memories in their canonical form. -/
def State.MemoriesCanonical (s : State) : Prop :=
  Memory.wf 0 s.recorder.blocks = true ∧ Memory.wf 0xFF s.flash = true

/-- Reads of the scan at reset that wait or run. -/
def Store.scanOps (st : Store) : List FlashOp :=
  (st.inFlight.toList ++ st.requests).filter fun op => match op with
    | .scanRead _ => true
    | _ => false

/-- The incident state as R146 has it: an incident is in capture exactly in CAPTURING, at most four incidents are
pending, and the scan at reset is read only in SCANNING, one slot at a time. -/
def State.RecorderSound (s : State) : Prop :=
  (s.recorder.capture.isSome = true ↔ s.recorder.state = .capturing) ∧ s.recorder.pendingQueue.length ≤ 4 ∧
    s.store.scanOps.length ≤ 1 ∧ (s.store.scanOps ≠ [] → s.recorder.state = .scanning)

/-! ### Slide protection (laws 5 and 8) -/

/-- Law 5, with AL as R52 works it out. -/
def State.AdhesionSound (s : State) : Prop :=
  s.config.amin ≤ s.slide.a ∧ s.slide.a ≤ 1000 ∧ s.slide.al = s.config.abase * s.slide.a / 1000

/-- Law 8 for one axle: the vent valve is open in SLIDE only, each valve stands as the state gives it, and the episode
has vented for whole windows and at most T_vent, less while it may still vent. -/
def AxleMachine.VentSound (m : AxleMachine) (tVent : Nat) : Prop :=
  m.ventValve = m.state.ventValve ∧ m.holdValve = m.state.holdValve ∧ m.vent % 20 = 0 ∧ m.vent ≤ tVent ∧
    (m.state = .slide ∨ m.state = .recover → m.vent < tVent)

/-- Law 8. -/
def State.VentsSound (s : State) : Prop :=
  s.slide.machines.one.VentSound s.config.tVent ∧ s.slide.machines.two.VentSound s.config.tVent ∧
    s.slide.machines.three.VentSound s.config.tVent

/-! ### Demand and outputs (R30, laws 3, 4 and 9) -/

/-- The exit timer runs, or has expired, only in EMERGENCY at standstill (R30). -/
def State.ExitTimerSound (s : State) : Prop :=
  s.demand.exitTimer ≠ .stopped → s.demand.mode = .emergency ∧ s.slide.standstill = true

/-- Law 3: the targets stay within the AL and the FX of their cycle (R106). -/
def State.TargetsSafe (s : State) : Prop :=
  s.sharing.et + s.sharing.ft ≤ s.sharing.al ∧ s.sharing.ft ≤ s.sharing.fx

/-- Law 4: the latest request asks no more than Emax and than the AL of its cycle (R118). -/
def State.RequestSafe (s : State) : Prop :=
  ∀ r, s.outputs.latest = some r → r.ecmd ≤ s.config.emax ∧ r.ecmd ≤ s.sharing.al

/-- Law 9 for the setpoint: in EMERGENCY it is the larger of Pemg and IND, IND counting as 0 without a value (R123). -/
def State.EmergencyHeld (s : State) : Prop :=
  s.demand.mode = .emergency →
    s.outputs.bcOut = max s.config.pemg ((s.acq.latestChans.ind.value).getD 0)

/-! ### Line and peers (R75, law 6) -/

/-- At most four urgent entries, and none outside ACTIVE (R75, R68, R70). -/
def State.UrgentSound (s : State) : Prop :=
  s.line.queue.length ≤ 4 ∧ (s.line.state ≠ .active → s.line.queue = [])

/-- Law 6: at most 15 entries, one for an address, in ascending order, none for the station's own address (R81). -/
def State.PeersSound (s : State) : Prop :=
  s.peers.entries.length ≤ 15 ∧ s.peers.entries.Pairwise (fun e f => e.addr < f.addr) ∧
    ∀ e ∈ s.peers.entries, e.addr ≠ s.address

/-! ### Counters and configuration (R79, R175) -/

/-- Every counter and every lost-record count within 0..65535 (section 0.5.3). -/
def State.CountersSound (s : State) : Prop :=
  (∀ i, s.counters.get i ≤ 65535) ∧ ∀ ch ∈ s.recorder.chans, ch.lost ≤ 65535

/-- Every parameter in force is in its range (R175). -/
def State.ConfigSound (s : State) : Prop := configInRange s.config = true

/-! ### Commands by what they may touch -/

/-- The commands by which the reset sequence starts or ends (R174, R175, R186). -/
def resetCommand : Instr → Bool
  | .reset _ _ _ => true
  | .restartResponseSent _ _ _ => true
  | .configImageReadCompletion _ _ => true
  | _ => false

/-- The commands that act while the part reads slot 0 in steps 1 to 3 of R174: the reset sequence's own, the flash
interface's grant and the levels of the two inputs (log entry 9). -/
def actsWhileLoading : Instr → Bool
  | .flashInterfaceGrant _ => true
  | .powerFailWarningStanding _ => true
  | .powerFailWarningCeases _ => true
  | .handleInputEdge _ _ => true
  | c => resetCommand c

/-- A statement may be queued now: 20 ms since the last one queued and since the last one sent ended (R78). -/
def State.BothIntervalsPassed (s : State) : Prop :=
  (∀ q, s.line.lastQueuedAt = some q → 20 ≤ since s.now (reading q)) ∧
    ∀ e, s.line.lastSentEnd = some e → 20 ≤ since s.now e

/-- A counter after one more count (section 0.5.3). -/
def countedOnce (n : Nat) : Nat := if n < 65535 then n + 1 else n

/-- The service request that a command stands for: its elapsed time, its command code and its payload (section 12.4). -/
def requestOf : Instr → Option (Nat × Byte × List Byte)
  | .unknownCommand dt code p => if unknownCode code then some (dt, code, p) else none
  | .readStatus dt p => some (dt, 1, p)
  | .readPeers dt p => some (dt, 2, p)
  | .readPeer dt p => some (dt, 3, p)
  | .listIncidents dt p => some (dt, 4, p)
  | .readIncident dt p => some (dt, 5, p)
  | .readCounters dt p => some (dt, 6, p)
  | .clearCounters dt p => some (dt, 7, p)
  | .trigger dt p => some (dt, 8, p)
  | .clearChannel dt p => some (dt, 9, p)
  | .eraseIncidents dt p => some (dt, 10, p)
  | .writeConfig dt p => some (dt, 11, p)
  | .restart dt p => some (dt, 12, p)
  | _ => none

/-- A request that R177 answers BAD_REQUEST before any of its own conditions: an unknown command, a wrong payload length
or a field outside its range (section 12.4). -/
def badRequest (code : Byte) (p : List Byte) : Bool :=
  match code.toNat with
  | 1 | 2 | 6 | 7 | 8 | 10 | 12 => decide (p.length ≠ 0)
  | 3 => decide (p.length ≠ 1 ∨ byteAt p 0 = 0 ∨ 30 < byteAt p 0)
  | 4 => decide (p.length ≠ 1 ∨ byteAt p 0 = 0 ∨ 63 < byteAt p 0)
  | 5 => decide (p.length ≠ 9 ∨ byteAt p 8 = 0 ∨ 240 < byteAt p 8)
  | 9 => decide (p.length ≠ 1 ∨ 7 < byteAt p 0)
  | 11 => decide (p.length < 4 ∨ 243 < p.length ∨ 1 < byteAt p 2)
  | _ => true

/-- A request arrives on the service link: time has passed and the receiver hunts again (R176). -/
def State.arrival (s : State) (dt : Nat) : State :=
  { s.advance dt with service := { s.service with receiver := .hunting } }

/-- A response formed at the end of the queue (R177). -/
def State.answers (s : State) (command : Byte) (code : Code) (values : List Byte) : State :=
  { s with service := { s.service with
      responses := s.service.responses ++ [{ command := command, code := code, values := values }] } }

/-! ### Triggers and records -/

/-- The Recorder takes every trigger into the incident in capture, a SLIDE_ENTRY within the holdoff apart: every cause is
enabled and none is gated (R148). -/
def State.TakesTriggers (s : State) (inc : Incident) : Prop :=
  s.recorder.state = .capturing ∧ s.recorder.capture = some inc ∧ inc.causes.length ≤ 8 ∧
    s.recorder.pendingQueue.length < s.config.gate ∧ ∀ c, (s.triggerLine c).enable = true

/-- The entry that a trigger makes in a cause list, at an offset in ms from the open time (R154). -/
def Trigger.entry (x : Trigger) (offset : Nat) : CauseEntry :=
  { cause := x.cause, offset := offset, detail := x.detail, origin := x.origin }

/-- Triggers have been appended to the incident in capture one after the other, as far as its cause list has room (R154). -/
def State.TookTriggers (t : State) (inc : Incident) (new : List Trigger) : Prop :=
  t.recorder.state = .capturing ∧ ∃ after, t.recorder.capture = some after ∧
    after = { inc with
      causes := (inc.causes ++ new.map fun x => x.entry (t.nowMs - inc.openMs)).take 8
      overflowed := inc.overflowed || decide (8 < inc.causes.length + new.length)
      windowEnd := after.windowEnd }

/-- Beside the channels of event records, a record has been offered to the channels that `sel` picks and to no other
(R135): each of them, with the bytes of its blocks, stands as the offer leaves it, and the others stand. -/
def Recorder.OfferedTo (t r : Recorder) (sel : Channel → Prop) (rec : TraceRecord) : Prop :=
  ∀ (c : Nat) (ch : Channel), c < 8 → r.chans[c]? = some ch → ch.kind ≠ .eventLog →
    let same (u : Recorder) : Prop := t.chans[c]? = u.chans[c]? ∧
      (r.Partition → Memory.wf 0 r.blocks = true → ∀ b ∈ ch.holding, ∀ i, i < 512 →
        Memory.read 0 t.blocks (512 * b + i) = Memory.read 0 u.blocks (512 * b + i))
    (sel ch → same (r.offer c rec).1) ∧ (¬sel ch → same r)

/-- A peak that keeps the largest value has been offered one (R144). -/
def PeakAfter (old new : Option Peak) (v : Int) (now : Time) : Prop :=
  (old = none → new = some ⟨v, now⟩) ∧
  ∀ k, old = some k → (k.value < v → new = some ⟨v, now⟩) ∧ (v ≤ k.value → new = some k)

/-- The peaks that an event finds: all absent when it has opened an incident, else those before it (R144). -/
def State.peaksFound (t s : State) : Peaks :=
  if s.recorder.capture = none ∧ t.recorder.capture ≠ none then ⟨none, none, none, none, none, none, none⟩
  else s.recorder.peaks

/-! ### Frames -/

/-- A state stands as another one but for what messages change: the Line Unit's line, the counters, the Recorder and the
Store Engine. -/
def State.SameButMessages (t u : State) : Prop :=
  { t with line := u.line, counters := u.counters, recorder := u.recorder, store := u.store } = u

/-- A Line Unit stands as another one but for the entries of its urgent queue. -/
def Line.SameButQueue (l m : Line) : Prop := { l with queue := m.queue } = m

end Sys2Proof.Machine
end

