-- ==== Sys2Proof/Certificates/Slice0/Obligations.lean ====
section
/-! DEFINITION. The statements for the provers, in the order of the manual's sections: the machine and its reset, the
Acquisition Unit, the slide protection, the demand, the sharing and the outputs, the line, the peer table, the Recorder,
the Store Engine, the Service Port, the encodings. -/

open Sys2Proof Sys2Proof.Machine

/-! ### The machine and its reset -/

/-- A step takes the command at the front of the queue and runs it on the state with the rest of the queue; on an empty
queue the block idles. The queue is the model's form of R174's and section 0.5's events that come one at a time (log
entries 4 and 5). -/
def Obligations.StepRunsFrontCommand : Prop :=
  (∀ (c : Instr) (rest : List Instr) (s : State), s.pending = c :: rest →
    step s = exec c { s with pending := rest }) ∧
  ∀ s : State, s.pending = [] → step s = .next s

/-- Every command answers a next state and leaves the queue of commands as it was. A command that neither starts nor ends
the reset sequence leaves the configuration in force, its source, the sampled address and strap and the run phase as they
were (R1, R147, R174). While slot 0 is read at reset, a command other than the reset sequence's own, the flash grant and
the two input levels changes the time alone (R174, log entry 9). -/
def Obligations.CommandsKeepQueueAndSetup : Prop :=
  ∀ (c : Instr) (s : State), ∃ t, exec c s = .next t ∧ t.pending = s.pending ∧
    (resetCommand c = false →
      t.config = s.config ∧ t.source = s.source ∧ t.address = s.address ∧ t.cfgdef = s.cfgdef ∧
        t.runPhase = s.runPhase) ∧
    (s.runPhase = .loading → actsWhileLoading c = false → { t with clock := s.clock } = s)

/-- RESET samples the straps. With CFGDEF set the default configuration is in force from DEFAULT_STRAP and every unit
takes its reset state; with CFGDEF clear the read of slot 0 is asked for, and until it ends every unit stands in the
reset state of the default configuration (R174; the standing state is log entry 9's). The flash is left as the operation
in flight leaves it when it is cut off (R173; the bytes left are log entry 23's). The levels of the two inputs, the last
frame sent on the service link and the queue of commands are kept (log entries 5, 7 and 41). -/
def Obligations.ResetSamplesStrapsAndInitialises : Prop :=
  ∀ (dt : Nat) (straps : Straps) (left : List Byte) (s : State),
    exec (.reset dt straps left) s = .next
      { clock := 0
        runPhase := if straps.cfgdef then .running else .loading
        address := straps.address.toNat
        cfgdef := straps.cfgdef
        config := defaultConfig
        source := if straps.cfgdef then .defaultStrap else s.source
        powerFail := s.powerFail
        handleLevel := s.handleLevel
        acq := resetAcquisition defaultConfig
        slide := resetSlide defaultConfig
        demand := resetDemand
        sharing := resetSharing defaultConfig
        outputs := resetOutputs defaultConfig
        line := resetLine defaultConfig straps.address.toNat
        peers := resetPeers defaultConfig straps.address.toNat
        recorder := resetRecorder defaultConfig
        store := if straps.cfgdef then resetStore else { resetStore with requests := [.readImage] }
        service := resetService
        counters := zeroCounters
        flash := s.cutOff left
        serviceOut := s.serviceOut
        pending := s.pending }

/-- The end of the read of slot 0 puts a configuration in force by the checks of R175 in their order: the image's own
when every check passes, otherwise the whole default with the source of the first failure and DEFAULT_CONFIG set. What
is in force is in range, and every unit takes its reset state under it (R174). -/
def Obligations.ImageReadPutsConfigurationInForce : Prop :=
  ∀ (dt : Nat) (ok : Bool) (s : State), s.runPhase = .loading → s.store.inFlight = some .readImage →
    let image := Memory.readBytes 0xFF s.flash 0 256
    ∃ t, exec (.configImageReadCompletion dt ok) s = .next t ∧
      t.source =
        (if ok = false then .readFailed
         else if image.drop 254 ≠ be16 (crc16 (image.take 254)).toNat then .badCrc
         else if byteAt image 0 ≠ 1 then .badVersion
         else if reservedZero image = false then .badReserved
         else if kindsKnown image = false ∨ configInRange (configOf image) = false then .badRange
         else .loaded) ∧
      t.config = (if t.source = .loaded then configOf image else defaultConfig) ∧
      configInRange t.config = true ∧
      t.defaultConfigFlag = decide (t.source ≠ .loaded) ∧
      t = { s with
        clock := 0, runPhase := .running, config := t.config, source := t.source,
        acq := resetAcquisition t.config, slide := resetSlide t.config, demand := resetDemand,
        sharing := resetSharing t.config, outputs := resetOutputs t.config,
        line := resetLine t.config s.address, peers := resetPeers t.config s.address,
        recorder := resetRecorder t.config, store := resetStore, service := resetService, counters := zeroCounters }

/-- The invariants stated below hold in the state after reset. -/
def Obligations.InvariantsHoldAtReset : Prop :=
  State.reset.ConfigSound ∧ State.reset.AdhesionSound ∧ State.reset.VentsSound ∧ State.reset.ExitTimerSound ∧
    State.reset.EmergencyHeld ∧ State.reset.TargetsSafe ∧ State.reset.RequestSafe ∧ State.reset.UrgentSound ∧
    State.reset.PeersSound ∧ State.reset.RecorderSound ∧ State.reset.CountersSound ∧ State.reset.MemoriesCanonical ∧
    State.reset.recorder.Partition ∧ State.reset.recorder.HoldingsBounded ∧ State.reset.recorder.Ascending

/-! ### Acquisition Unit -/

/-- The first conversion delivered for a scanned channel in a scan is held for the scan completion; a channel left out of
the scan is never sampled (R1). The sample of a code is that of the table of R2, and an error or a missing conversion gives
none. -/
def Obligations.ConversionStandsAndGivesSample : Prop :=
  (∀ (dt : Nat) (i : PressId) (r : Conversion) (s : State), s.runPhase = .running →
    ((s.acq.chans.get i).state = .absent →
      exec (.pressureConversionCompletion dt i r) s = .next (s.advance dt)) ∧
    ((s.acq.chans.get i).state ≠ .absent → (s.acq.chans.get i).sample = .none →
      exec (.pressureConversionCompletion dt i r) s = .next
        { s.advance dt with acq := { s.acq with chans := s.acq.chans.set i { s.acq.chans.get i with
            sample := match r with
              | .code c => .code c
              | .error => .error } } })) ∧
  (∀ c : BitVec 12,
    (c.toNat ≤ 199 → (Sampled.code c).value = none) ∧
    (200 ≤ c.toNat → c.toNat ≤ 399 → (Sampled.code c).value = some 0) ∧
    (400 ≤ c.toNat → c.toNat ≤ 3600 → (Sampled.code c).value = some ((c.toNat - 400) * 1000 / 3200)) ∧
    (3601 ≤ c.toNat → c.toNat ≤ 3800 → (Sampled.code c).value = some 1000) ∧
    (3801 ≤ c.toNat → (Sampled.code c).value = none)) ∧
  Sampled.none.value = none ∧ Sampled.error.value = none

/-- At a scan completion each channel steps by the table of R3 on its sample of the scan, the history is updated by R5,
and the set of R6 becomes the latest one. Beside the unit, only the Blending Unit's sections, the urgent queue, the counters,
the Recorder and the Store Engine can change. -/
def Obligations.ScanStepsChannelsAndHistory : Prop :=
  ∀ (dt : Nat) (i : PressId) (s : State), s.runPhase = .running → s.acq.scanDue ≤ s.clock + dt →
    let old := s.acq.chans.get i
    let sample := old.sample.value
    let cap := if s.config.pscan = 10 then 11 else 6
    ∃ t, exec (.scanCompletion dt) s = .next t ∧
      (old.state = .absent → t.acq.chans.get i = { old with sample := .none }) ∧
      (∀ v, old.state = .valid → sample = some v →
        t.acq.chans.get i = { old with sample := .none, last := some v, invalidRun := 0 }) ∧
      (old.state = .valid → sample = none →
        t.acq.chans.get i = { old with sample := .none, state := .held, invalidRun := 1 }) ∧
      (∀ v, old.state = .held → sample = some v →
        t.acq.chans.get i = { old with sample := .none, state := .valid, last := some v, invalidRun := 0 }) ∧
      (old.state = .held → sample = none → old.invalidRun < 3 →
        t.acq.chans.get i = { old with sample := .none, invalidRun := old.invalidRun + 1 }) ∧
      (old.state = .held → sample = none → 3 ≤ old.invalidRun →
        t.acq.chans.get i = { old with sample := .none, state := .failed, invalidRun := 0, validRun := 0 }) ∧
      (∀ v, old.state = .failed → sample = some v → old.validRun < 4 →
        t.acq.chans.get i = { old with sample := .none, validRun := old.validRun + 1 }) ∧
      (∀ v, old.state = .failed → sample = some v → 4 ≤ old.validRun →
        t.acq.chans.get i =
          { old with sample := .none, state := .valid, last := some v, validRun := 0, invalidRun := 0 }) ∧
      (old.state = .failed → sample = none → t.acq.chans.get i = { old with sample := .none, validRun := 0 }) ∧
      (t.acq.chans.bp.state = .failed → t.acq.history = []) ∧
      (∀ v, t.acq.chans.bp.state = .valid ∨ t.acq.chans.bp.state = .held → t.acq.chans.bp.last = some v →
        s.acq.history.length ≤ cap →
          t.acq.history = (s.acq.history ++ [v]).drop (s.acq.history.length + 1 - cap)) ∧
      (t.acq.chans.bp.state = .valid ∨ t.acq.chans.bp.state = .held → t.acq.chans.bp.last = none →
        t.acq.history = s.acq.history) ∧
      (t.acq.history.length < 2 → t.acq.fall = 0) ∧
      (∀ x y, 2 ≤ t.acq.history.length → t.acq.history.head? = some x → t.acq.history.getLast? = some y →
        t.acq.fall = (x : Int) - y) ∧
      t.acq = { s.acq with
        chans := t.acq.chans, history := t.acq.history, fall := t.acq.fall, scanDue := s.acq.scanDue + s.config.pscan * 1000,
        latest := some { chans := t.acq.chans.map PressChan.item, fall := t.acq.fall, time := (s.advance dt).now } } ∧
      t.SameButMessages
        { s.advance dt with acq := t.acq, demand := t.demand, outputs := t.outputs, sharing := t.sharing } ∧
      t.line.SameButQueue s.line

/-- A tooth pulse is counted and stamped in its axle's window (R9); nothing else changes. At a speed window expiry each
axle's speed is measured or estimated by R11 and R12, or discarded by R13, its deceleration follows R14, and its window is
cleared by R10. In the first speed set after reset an axle with fewer than two pulses reads 0 (R18; that R18's sentence is an
exception to R12's last row is log entry 51). Beside the unit and the slide protection, only the exit timer, the urgent queue, the counters, the Recorder
and the Store Engine can change. -/
def Obligations.ToothPulsesGiveAxleSpeeds : Prop :=
  (∀ (dt : Nat) (i : AxleId) (s : State), s.runPhase = .running →
    exec (.toothPulse dt i) s = .next
      { s.advance dt with acq := { s.acq with axles := s.acq.axles.set i { s.acq.axles.get i with
          n := min 65535 ((s.acq.axles.get i).n + 1)
          first := if (s.acq.axles.get i).n = 0 then some (s.advance dt).stamp else (s.acq.axles.get i).first
          last := some (s.advance dt).stamp
          recent := some (s.advance dt).stamp } } }) ∧
  ∀ (dt : Nat) (f₁ f₂ f₃ : Bool) (i : AxleId) (s : State), s.runPhase = .running → s.acq.windowDue ≤ s.clock + dt →
    let a := s.acq.axles.get i
    let fault := (Tri.mk f₁ f₂ f₃).get i
    let now := (s.advance dt).stamp
    let age (r : Stamp) : Nat := (now - r).toNat
    ∃ t, exec (.speedWindowExpiry dt f₁ f₂ f₃) s = .next t ∧
      let b := t.acq.axles.get i
      (fault = true → b.v = 0 ∧ b.valid = false ∧ b.faulted = true ∧ b.dv = 0) ∧
      (fault = false → b.valid = true ∧ b.faulted = false ∧
        b.dv = (if a.prevValid then (a.prevV : Int) - b.v else 0) ∧
        (∀ f l, 2 ≤ a.n → a.first = some f → a.last = some l →
          b.v = if (l - f).toNat = 0 then 65535
            else min 65535 ((a.n - 1) * s.acq.pitch * 1000 / (l - f).toNat)) ∧
        (a.n < 2 → s.acq.speedTime = none → b.v = 0) ∧
        (a.n < 2 → a.recent = none → b.v = 0) ∧
        (∀ r, a.n < 2 → a.recent = some r → 1000000 < age r → b.v = 0) ∧
        (∀ r, a.n < 2 → s.acq.speedTime ≠ none → a.recent = some r → age r ≤ 1000000 →
          b.v = min (if a.prevValid then a.prevV else 65535)
            (if age r = 0 then 65535 else s.acq.pitch * 1000 / age r))) ∧
      b.prevV = b.v ∧ b.prevValid = b.valid ∧ b.n = 0 ∧ b.first = none ∧ b.last = none ∧
      b.recent = (a.recent.bind fun r => if 1000000 < age r then none else some r) ∧
      t.acq.windowDue = s.acq.windowDue + 20000 ∧ t.acq.speedTime = some (s.advance dt).now ∧
      t.acq.chans = s.acq.chans ∧ t.acq.history = s.acq.history ∧ t.acq.latest = s.acq.latest ∧
      t.SameButMessages { s.advance dt with
        acq := t.acq, slide := t.slide, demand := { s.demand with exitTimer := t.demand.exitTimer } } ∧
      t.line.SameButQueue s.line

/-- The high time of the handle input is totalled up to each edge (R16), and at the speed window expiry it gives the duty
of R16 and the handle demand and HANDLE_FAULT of R17; the total then starts anew. A duty above 1000 ‰, which a window
longer than 20 ms can give, is read as the last line of R17's table (log entry 38), and an edge is totalled in every phase of
the reset sequence (log entries 7 and 9). -/
def Obligations.HandleInputGivesDemand : Prop :=
  (∀ (dt : Nat) (high : Bool) (s : State),
    exec (.handleInputEdge dt high) s = .next
      { s.advance dt with
        handleLevel := high
        acq := { s.acq with handle := { s.acq.handle with
          highTime := s.acq.handle.highTime + (if s.handleLevel then s.clock + dt - s.acq.handle.highSince else 0)
          highSince := s.clock + dt } } }) ∧
  ∀ (dt : Nat) (f₁ f₂ f₃ : Bool) (s : State), s.runPhase = .running → s.acq.windowDue ≤ s.clock + dt →
    let duty := (s.acq.handle.highTime + (if s.handleLevel then s.clock + dt - s.acq.handle.highSince else 0)) / 20
    ∃ t, exec (.speedWindowExpiry dt f₁ f₂ f₃) s = .next t ∧
      t.acq.handle.duty = duty ∧ t.acq.handle.highTime = 0 ∧ t.acq.handle.highSince = s.clock + dt ∧
      (duty ≤ 49 → t.acq.handle.h = 0 ∧ t.acq.handle.fault = true) ∧
      (50 ≤ duty → duty ≤ 99 → t.acq.handle.h = 0 ∧ t.acq.handle.fault = false) ∧
      (100 ≤ duty → duty ≤ 900 → t.acq.handle.h = (duty - 100) * 1000 / 800 ∧ t.acq.handle.fault = false) ∧
      (901 ≤ duty → duty ≤ 950 → t.acq.handle.h = 1000 ∧ t.acq.handle.fault = false) ∧
      (951 ≤ duty → t.acq.handle.h = 0 ∧ t.acq.handle.fault = true)

/-! ### Slide protection -/

/-- Stage 1 of a speed set arrival takes Vref from the station's own candidates or, under the assistance condition of R38,
from its peers (R36, R37, R39): outside the first set it moves by at most Ddec down and Dacc up. The AU's work and the
arrival are the one event SPEED_WINDOW_EXPIRY. -/
def Obligations.SpeedSetUpdatesReferenceSpeed : Prop :=
  ∀ (dt : Nat) (f₁ f₂ f₃ : Bool) (s : State), s.runPhase = .running → s.acq.windowDue ≤ s.clock + dt →
    s.slide.vref ≤ 65535 →
    let u := s.slide
    let low := u.vref - u.ddec
    let high := min 65535 (u.vref + u.dacc)
    let peers := eligibleVrefs s.peers.entries s.config.group
    ∃ t, exec (.speedWindowExpiry dt f₁ f₂ f₃) s = .next t ∧
      let own := u.candidates t.acq.axles
      let assisted := u.needsAssistance t.acq.axles (s.advance dt).now
      t.slide.firstPending = false ∧
      (u.firstPending = true → t.slide.vref = largest own ∧ t.slide.speedAssisted = own.isEmpty) ∧
      (u.firstPending = false → low ≤ t.slide.vref ∧ t.slide.vref ≤ high ∧ t.slide.speedAssisted = assisted) ∧
      (u.firstPending = false → assisted = false → t.slide.vref = max low (min high (largest own))) ∧
      (∀ m, u.firstPending = false → assisted = true → lowerMedian peers = some m →
        t.slide.vref = max low (min high m)) ∧
      (u.firstPending = false → assisted = true → peers = [] → t.slide.vref = low)

/-- Stage 2 of a speed set arrival keeps the low-speed run and the standstill flag by R40, and a change of the flag reaches
the demand section in the same arrival (R30). -/
def Obligations.SpeedSetUpdatesStandstill : Prop :=
  ∀ (dt : Nat) (f₁ f₂ f₃ : Bool) (s : State), s.runPhase = .running → s.acq.windowDue ≤ s.clock + dt →
    let now := (s.advance dt).now
    ∃ t, exec (.speedWindowExpiry dt f₁ f₂ f₃) s = .next t ∧
      (100 < t.slide.vref → t.slide.lowStart = none ∧ t.slide.standstill = false) ∧
      (t.slide.vref ≤ 100 → s.slide.lowStart = none →
        t.slide.lowStart = some now ∧ t.slide.standstill = s.slide.standstill) ∧
      (∀ r, t.slide.vref ≤ 100 → s.slide.lowStart = some r → since now r < 3000 →
        t.slide.lowStart = some r ∧ t.slide.standstill = s.slide.standstill) ∧
      (∀ r, t.slide.vref ≤ 100 → s.slide.lowStart = some r → 3000 ≤ since now r →
        t.slide.lowStart = some r ∧ t.slide.standstill = true) ∧
      (t.slide.standstill = s.slide.standstill → t.demand = s.demand) ∧
      (s.slide.standstill = true → t.slide.standstill = false →
        t.demand = { s.demand with exitTimer := .stopped }) ∧
      (s.slide.standstill = false → t.slide.standstill = true →
        t.demand = { s.demand with exitTimer :=
          if s.demand.mode = .emergency then .running (s.clock + dt + 60000000) else s.demand.exitTimer })

/-- At a speed set arrival each axle is stepped by the first of R43 to R48 that applies to it: FAULT and the entry into it
by R43; with protection inactive (R41) by R44; with protection active by R45, R46, R47 and R48 on its relative slip q, an
axle in TIMEOUT staying there. The vent time of the window just closed is added first (R47), and the valves take the values
of the new state (R42). -/
def Obligations.AxleMachinesStepByTables : Prop :=
  ∀ (dt : Nat) (f₁ f₂ f₃ : Bool) (i : AxleId) (s : State), s.runPhase = .running → s.acq.windowDue ≤ s.clock + dt →
    let fault := (Tri.mk f₁ f₂ f₃).get i
    let m := s.slide.machines.get i
    let c := s.config
    let now := (s.advance dt).now
    ∃ t, exec (.speedWindowExpiry dt f₁ f₂ f₃) s = .next t ∧
      let n := t.slide.machines.get i
      let active := s.demand.mode ≠ .released ∧ 800 ≤ t.slide.vref
      let q := (t.slide.vref - (t.acq.axles.get i).v) * 1000 / t.slide.vref
      let dv := (t.acq.axles.get i).dv
      n.lastQ = (if active ∧ fault = false then q else 0) ∧
      (n.state ≠ .slide ∨ m.state ≠ .suspect → n.vent = m.vent + (if m.state = .slide then 20 else 0)) ∧
      (fault = true → n.state = .fault ∧ n.faultReturn = none ∧
        (m.state = .slide ∨ m.state = .recover ∨ m.state = .timeout → n.episodeOpen = false)) ∧
      (fault = false → m.state = .fault →
        (m.faultReturn = none → n.state = .fault ∧ n.faultReturn = some now) ∧
        (∀ r, m.faultReturn = some r → since now r < 1000 → n.state = .fault ∧ n.faultReturn = some r) ∧
        (∀ r, m.faultReturn = some r → 1000 ≤ since now r → n.state = .normal)) ∧
      (fault = false → ¬active →
        (m.state = .suspect ∨ m.state = .slide ∨ m.state = .recover → n.state = .normal ∧ n.episodeOpen = false) ∧
        (m.state = .timeout → s.demand.mode = .released ∨ t.slide.standstill = true →
          n.state = .normal ∧ n.episodeOpen = false) ∧
        (m.state = .timeout → s.demand.mode ≠ .released → t.slide.standstill = false → n.state = .timeout) ∧
        (m.state = .normal → n.state = .normal)) ∧
      (fault = false → active →
        (m.state = .normal → c.q1 ≤ q ∨ (c.dv1 : Int) ≤ dv →
          n.state = .suspect ∧ n.high = 0 ∧ n.calm = 0 ∧ n.untrusted = some now) ∧
        (m.state = .normal → q < c.q1 → dv < (c.dv1 : Int) → n.state = .normal) ∧
        (m.state = .suspect → c.q2 ≤ q → n.state = .slide ∧ n.episodeOpen = true ∧ n.vent = 0) ∧
        (m.state = .suspect → c.q1 ≤ q → q < c.q2 → n.high = m.high + 1 ∧ n.calm = 0) ∧
        (m.state = .suspect → c.q1 ≤ q → q < c.q2 → 5 ≤ m.high + 1 →
          n.state = .slide ∧ n.episodeOpen = true ∧ n.vent = 0) ∧
        (m.state = .suspect → c.q1 ≤ q → q < c.q2 → m.high + 1 < 5 → n.state = .suspect) ∧
        (m.state = .suspect → q < c.q1 → q < c.q2 → (c.dv1 : Int) ≤ dv →
          n.state = .suspect ∧ n.high = 0 ∧ n.calm = 0) ∧
        (m.state = .suspect → q < c.q1 → q < c.q2 → dv < (c.dv1 : Int) → n.high = 0 ∧ n.calm = m.calm + 1) ∧
        (m.state = .suspect → q < c.q1 → q < c.q2 → dv < (c.dv1 : Int) → m.calm + 1 < 2 → n.state = .suspect) ∧
        (m.state = .suspect → q < c.q1 → q < c.q2 → dv < (c.dv1 : Int) → 2 ≤ m.calm + 1 → n.state = .normal) ∧
        (m.state = .slide → c.tVent ≤ m.vent + 20 → n.state = .timeout) ∧
        (m.state = .slide → m.vent + 20 < c.tVent → q < c.q1 → n.state = .recover ∧ n.recover = 0) ∧
        (m.state = .slide → m.vent + 20 < c.tVent → c.q1 ≤ q → n.state = .slide) ∧
        (m.state = .timeout → n.state = .timeout) ∧
        (m.state = .recover → c.q2 ≤ q → n.state = .slide ∧ n.episodeOpen = m.episodeOpen) ∧
        (m.state = .recover → c.q1 ≤ q → q < c.q2 → n.state = .recover ∧ n.recover = 0) ∧
        (m.state = .recover → q < c.q1 → q < c.q2 → n.recover = m.recover + 1) ∧
        (m.state = .recover → q < c.q1 → q < c.q2 → (m.recover + 1) * 20 < c.tRec → n.state = .recover) ∧
        (m.state = .recover → q < c.q1 → q < c.q2 → c.tRec ≤ (m.recover + 1) * 20 →
          n.state = .normal ∧ n.episodeOpen = false)) ∧
      n.holdValve = (n.state == .suspect || n.state == .slide || n.state == .recover) ∧
      n.ventValve = (n.state == .slide)

/-- The axles that enter SLIDE at an arrival reduce the adhesion factor once each, set the slide-cut flag and the time of
the last SLIDE entry (R52, R53). At an arrival without an entry the factor recovers by recstep when no axle is in SUSPECT,
SLIDE or RECOVER after stage 4 and no SLIDE entry lies less than 2000 ms back, and stands otherwise (R56). AL follows each
change of the factor. -/
def Obligations.SlideEntryReducesAdhesion : Prop :=
  ∀ (dt : Nat) (f₁ f₂ f₃ : Bool) (s : State), s.runPhase = .running → s.acq.windowDue ≤ s.clock + dt →
    ∃ t, exec (.speedWindowExpiry dt f₁ f₂ f₃) s = .next t ∧
      let now := (s.advance dt).now
      let enters (i : AxleId) : Nat :=
        if (s.slide.machines.get i).state ≠ .slide ∧ (t.slide.machines.get i).state = .slide then 1 else 0
      let n := enters .one + enters .two + enters .three
      let quiet := ∀ i, (t.slide.machines.get i).state ≠ .suspect ∧ (t.slide.machines.get i).state ≠ .slide ∧
        (t.slide.machines.get i).state ≠ .recover
      let recovers := quiet ∧ ∀ l, s.slide.lastSlide = some l → 2000 ≤ since now l
      (0 < n →
        t.slide.slideCut = true ∧ t.slide.lastSlide = some now ∧
        t.slide.a = (fun a => max s.config.amin (a - a / 8))^[n] s.slide.a) ∧
      (n = 0 → t.slide.slideCut = s.slide.slideCut ∧ t.slide.lastSlide = s.slide.lastSlide ∧
        (recovers → t.slide.a = min 1000 (s.slide.a + s.config.recStep)) ∧ (¬recovers → t.slide.a = s.slide.a)) ∧
      t.slide.al = (if t.slide.a = s.slide.a then s.slide.al else s.config.abase * t.slide.a / 1000)

/-- The slide notice at its two ends. At a speed set arrival the SPU hands one over when an axle enters SLIDE and no other
axle was in SLIDE or RECOVER before (R54): in ACTIVE, while no mark can be handed too and the queue has room, it joins the
urgent queue as its newest entry, and outside ACTIVE it is discarded and counted (R75). A good slide notice of another
station in order at an entry in JOINING, LIVE or UNRULY counts as hearing and lowers the AL and CE of the entry's last
statement and sets its SLIDE flag (R92, R93); at an entry in SILENT or ABSENT, or without an entry, it changes nothing in the
table, and a duplicate or stale one is counted. -/
def Obligations.SlideNoticeIsSentAndTaken : Prop :=
  (∀ (dt : Nat) (f₁ f₂ f₃ : Bool) (s : State), s.runPhase = .running → s.acq.windowDue ≤ s.clock + dt →
    ∃ t, exec (.speedWindowExpiry dt f₁ f₂ f₃) s = .next t ∧
      let enters (i : AxleId) : Prop :=
        (s.slide.machines.get i).state ≠ .slide ∧ (t.slide.machines.get i).state = .slide
      let hands := (∃ i, enters i) ∧ ∀ i, ¬enters i →
        (s.slide.machines.get i).state ≠ .slide ∧ (s.slide.machines.get i).state ≠ .recover
      let bit (i : AxleId) (n : Nat) : Nat := if (t.slide.machines.get i).state = .slide then n else 0
      let notice : TxFrame :=
        { kind := .slideNotice, seq := none, k := 0, wait := none
          payload := be16 t.slide.al ++ be16 t.slide.a ++ be8 (bit .one 1 + bit .two 2 + bit .three 4) ++
            be16 t.slide.vref }
      (s.line.state = .active → s.line.queue.length < 4 → s.config.sendMarks = false ∨ s.recorder.capture ≠ none →
        (hands → t.line.queue = s.line.queue ++ [notice]) ∧ (¬hands → t.line.queue = s.line.queue)) ∧
      (s.line.state ≠ .active → t.line.queue = s.line.queue ∧
        (hands → t.counters.urgentDiscarded = countedOnce s.counters.urgentDiscarded) ∧
        (¬hands → t.counters.urgentDiscarded = s.counters.urgentDiscarded))) ∧
  ∀ (dt : Nat) (frame : List Byte) (f : GoodFrame) (s : State), s.runPhase = .running → s.line.tx = .idle →
    s.line.state ≠ .off → classify frame 0 = .good f → f.kind = .slideNotice → f.source ≠ s.address →
    let al := be16At f.payload 0
    ∃ t, exec (.receiveCompletion dt frame 0) s = .next t ∧
      t.SameButMessages { s.advance dt with peers := { s.peers with entries := t.peers.entries } } ∧
      (findPeer s.peers.entries f.source = none → t.peers = s.peers) ∧
      ∀ e, findPeer s.peers.entries f.source = some e →
        (e.state = .silent ∨ e.state = .absent → t.peers.entries = setPeer s.peers.entries e) ∧
        ∀ last, e.state = .joining ∨ e.state = .live ∨ e.state = .unruly → e.lastSeq = some last →
          (f.seq = last → t.peers.entries = setPeer s.peers.entries e ∧
            t.counters.duplicates = countedOnce s.counters.duplicates) ∧
          (128 ≤ (f.seq - last).toNat → t.peers.entries = setPeer s.peers.entries e ∧
            t.counters.staleFrames = countedOnce s.counters.staleFrames) ∧
          (f.seq ≠ last → (f.seq - last).toNat < 128 →
            t.peers.entries = setPeer s.peers.entries
              { e with
                lastSeq := some f.seq
                missed := min 65535 (e.missed + ((f.seq - last).toNat - 1))
                heard := some (s.advance dt).now
                last := e.last.map fun v => { v with al := al, ce := min v.ce al, flags := v.flags ||| 0x80#8 } })

/-- Laws 5 and 8: every step keeps the adhesion factor between amin and 1000‰ with AL worked out from it, and, under a
configuration in range, each vent valve tied to SLIDE and each episode's vent time within T_vent. -/
def Obligations.AdhesionAndVentTimeStayInRange : Prop :=
  (∀ s t : State, s.AdhesionSound → step s = .next t → t.AdhesionSound) ∧
  ∀ s t : State, s.ConfigSound → s.VentsSound → step s = .next t → t.ConfigSound ∧ t.VentsSound

/-! ### Demand and modes -/

/-- The demand of a control cycle: from the station's own brake pipe by R20, from its eligible peers by R21, or held by
R22, and the handle's part by R23; and the mode evaluation of R24 that closes the cycle. The cycle leaves its SD, Eact,
Fcmd and U for the statements and summaries that follow (log entry 44). Beside the Blending Unit and the slide-cut flag,
only the line, the counters, the Recorder and the Store Engine can change. -/
def Obligations.ControlCycleComputesDemandAndMode : Prop :=
  ∀ (dt : Nat) (s : State), s.runPhase = .running → s.demand.cycleDue ≤ s.clock + dt →
    let c := s.config
    let bp := s.acq.latestChans.bp.value
    let peers := eligibleDemands s.peers.entries c.group
    ∃ t, exec (.controlCycle dt) s = .next t ∧
      (∀ p, bp = some p →
        t.demand.dBp =
          (if c.bpRef - p < c.rmin then 0
           else if c.bpRef - p < c.rfull then c.dfull * (c.bpRef - p - c.rmin) / (c.rfull - c.rmin)
           else c.dfull) ∧
        t.demand.lastOwn = t.demand.dBp ∧ t.demand.assisted = false) ∧
      (bp = none → t.demand.assisted = true ∧ t.demand.lastOwn = s.demand.lastOwn ∧
        (∀ x, lowerMedian peers = some x → t.demand.dBp = x) ∧ (peers = [] → t.demand.dBp = s.demand.lastOwn)) ∧
      t.demand.dH = c.dfull * s.acq.handle.h / 1000 ∧
      t.demand.d = min 4095 (max t.demand.dBp t.demand.dH) ∧
      (s.demand.mode = .emergency → t.demand.mode = .emergency) ∧
      (s.demand.mode ≠ .emergency →
        (0 < t.demand.d ∨ 0 < t.sharing.sd ∨ 0 < t.outputs.ecmd ∨ 0 < t.outputs.fcmd → t.demand.mode = .service) ∧
        (t.demand.d = 0 → t.sharing.sd = 0 → t.outputs.ecmd = 0 → t.outputs.fcmd = 0 → t.demand.mode = .released)) ∧
      t.outputs.cycle =
        { sd := t.sharing.sd, eact := t.outputs.status.eact, fcmd := t.outputs.fcmd, u := t.sharing.u } ∧
      t.demand.cycleDue = s.demand.cycleDue + 20000 ∧
      t.SameButMessages { s.advance dt with
        slide := { s.slide with slideCut := false }, demand := t.demand, sharing := t.sharing, outputs := t.outputs }

/-- At the expiry of the exit timer the station leaves EMERGENCY when BP is VALID and at least BPref − 20 kPa, and the
check stays pending otherwise (R31). While it is pending it is repeated with each arriving pressure set that does not meet the
local emergency test (R32). The set reaches the demand section before the output section, so a station that leaves has its
BCout of before (R31; the order is log entry 12's). -/
def Obligations.ExitCheckAtExpiryAndWhilePending : Prop :=
  (∀ (dt due : Nat) (s : State), s.runPhase = .running → s.demand.exitTimer = .running due → due ≤ s.clock + dt →
    let bp := s.acq.latestChans.bp
    let new : Mode := if 0 < s.demand.d ∨ 0 < s.sharing.sd then .service else .released
    (∀ p, bp.state = .valid → bp.value = some p → s.config.bpRef ≤ p + 20 →
      exec (.exitTimerExpiry dt) s = .next
        { s.advance dt with
          demand := { s.demand with mode := new, exitTimer := .stopped }
          outputs := { s.outputs with fcmd := s.sharing.fx }
          recorder := s.recorder.logEvent (s.advance dt).now .mode
            (be8 (modeCode s.demand.mode) ++ be8 (modeCode new) ++ be8 5) }) ∧
    ((bp.state ≠ .valid ∨ bp.value = none ∨ ∃ p, bp.value = some p ∧ p + 20 < s.config.bpRef) →
      exec (.exitTimerExpiry dt) s = .next
        { s.advance dt with demand := { s.demand with exitTimer := .expired } })) ∧
  ∀ (dt : Nat) (s : State), s.runPhase = .running → s.acq.scanDue ≤ s.clock + dt → s.demand.mode = .emergency →
    s.demand.exitTimer = .expired →
    ∃ t, exec (.scanCompletion dt) s = .next t ∧
      t.SameButMessages { s.advance dt with acq := t.acq, demand := t.demand, outputs := t.outputs } ∧
      let bp := t.acq.latestChans.bp
      (∀ p, bp.state = .valid → bp.value = some p → s.config.bpEmerg ≤ p → t.acq.fall < (s.config.remerg : Int) →
        s.config.bpRef ≤ p + 20 →
        t.demand = { s.demand with
          mode := if 0 < s.demand.d ∨ 0 < s.sharing.sd then .service else .released
          exitTimer := .stopped } ∧
        t.outputs.fcmd = s.sharing.fx ∧ t.outputs.bcOut = s.outputs.bcOut) ∧
      (bp.state ≠ .valid → (∀ p, bp.value = some p → s.config.bpEmerg ≤ p) →
        (∀ p, bp.value = some p → t.acq.fall < (s.config.remerg : Int)) →
        t.demand = s.demand ∧ t.outputs.fcmd = s.outputs.fcmd) ∧
      (∀ p, bp.value = some p → s.config.bpEmerg ≤ p → t.acq.fall < (s.config.remerg : Int) →
        p + 20 < s.config.bpRef → t.demand = s.demand ∧ t.outputs.fcmd = s.outputs.fcmd)

/-- A pressure set whose BP carries a value below BPemerg, or whose history fall reaches Remerg, takes a station outside
EMERGENCY into it with the effects of R27, SD, E_t, F_t and U at 0 among them, the stated CE by R107 (log entry 13), and begins
the notice sequence: its first copy is handed to the urgent queue in that event (R26, R28). A station already in EMERGENCY
restarts its exit timer and hands no copy (R26, R30). A set that meets neither test, with no exit check pending, leaves the
demand section as it was. The notice repeat timer hands over the second and the third copy 20 ms apart, and then the sequence
ends (R28). -/
def Obligations.LocalDetectionEntersEmergency : Prop :=
  (∀ (dt : Nat) (s : State), s.runPhase = .running → s.acq.scanDue ≤ s.clock + dt →
      ∃ t, exec (.scanCompletion dt) s = .next t ∧
        let bp := t.acq.latestChans.bp.value
        let timer : ExitTimer := if s.slide.standstill then .running (s.clock + dt + 60000000) else .stopped
        let noMarks := s.config.sendMarks = false ∨ s.line.state ≠ .active ∨ s.recorder.capture ≠ none
        (∀ p, s.demand.mode ≠ .emergency → bp = some p →
          p < s.config.bpEmerg ∨ (s.config.remerg : Int) ≤ t.acq.fall →
          let cause : Detection := if p < s.config.bpEmerg then .level else .rate
          t.demand = { s.demand with
            mode := .emergency
            exitTimer := timer
            notice := some { cause := cause, bp := p }
            noticeLeft := 2
            repeatDue := some (s.clock + dt + 20000) } ∧
          t.outputs.bcOut = max s.config.pemg (t.acq.latestChans.ind.value.getD 0) ∧ t.outputs.bcSet = 0 ∧
          t.outputs.ecmd = s.outputs.ecmd ∧ t.outputs.fcmd = s.outputs.fcmd ∧
          t.sharing = { s.sharing with sd := 0, et := 0, ft := 0, u := 0 } ∧
          t.buildStatement.ce = min s.sharing.ce s.slide.al ∧
          (noMarks → t.line =
            (s.handUrgent .emergencyNotice (be8 (detectionCode cause * 16 + 1) ++ be16 p)).line) ∧
          (s.line.state ≠ .active →
            t.counters.urgentDiscarded = countedOnce s.counters.urgentDiscarded)) ∧
        (∀ p, s.demand.mode = .emergency → bp = some p →
          p < s.config.bpEmerg ∨ (s.config.remerg : Int) ≤ t.acq.fall →
          t.demand = { s.demand with exitTimer := timer } ∧ t.sharing = s.sharing ∧ t.outputs.fcmd = s.outputs.fcmd ∧
            (noMarks → t.line = s.line)) ∧
        (s.demand.exitTimer ≠ .expired → bp = none → t.demand = s.demand ∧ t.sharing = s.sharing) ∧
        (∀ p, s.demand.exitTimer ≠ .expired → bp = some p → s.config.bpEmerg ≤ p →
          t.acq.fall < (s.config.remerg : Int) → t.demand = s.demand ∧ t.sharing = s.sharing)) ∧
  ∀ (dt due : Nat) (n : NoticeContents) (s : State), s.runPhase = .running → s.demand.repeatDue = some due →
    due ≤ s.clock + dt → s.demand.notice = some n →
    (s.demand.noticeLeft = 2 → exec (.noticeRepeatExpiry dt) s = .next
      (State.handUrgent
        { s.advance dt with demand := { s.demand with noticeLeft := 1, repeatDue := some (due + 20000) } }
        .emergencyNotice (be8 (detectionCode n.cause * 16 + 2) ++ be16 n.bp))) ∧
    (s.demand.noticeLeft = 1 → exec (.noticeRepeatExpiry dt) s = .next
      (State.handUrgent
        { s.advance dt with demand := { s.demand with noticeLeft := 0, repeatDue := none, notice := none } }
        .emergencyNotice (be8 (detectionCode n.cause * 16 + 3) ++ be16 n.bp)))

/-- A received emergency notice, of whatever group and sender, takes a station outside EMERGENCY into it with the effects of
R27 (the stated CE by R107: log entry 13), restarts the exit timer of one in it, and begins no notice sequence (R29, R64, law 10). -/
def Obligations.ReceivedNoticeEntersEmergency : Prop :=
  ∀ (dt : Nat) (frame : List Byte) (f : GoodFrame) (s : State), s.runPhase = .running → s.line.tx = .idle →
    s.line.state ≠ .off → classify frame 0 = .good f → f.kind = .emergencyNotice →
    ∃ t, exec (.receiveCompletion dt frame 0) s = .next t ∧
      t.demand = { s.demand with
        mode := .emergency
        exitTimer := if s.slide.standstill then .running (s.clock + dt + 60000000) else .stopped } ∧
      (s.demand.mode ≠ .emergency →
        t.outputs.bcOut = max s.config.pemg (s.acq.latestChans.ind.value.getD 0) ∧ t.outputs.bcSet = 0) ∧
      (s.demand.mode ≠ .emergency →
        t.sharing = { s.sharing with sd := 0, et := 0, ft := 0, u := 0 } ∧
          t.buildStatement.ce = min s.sharing.ce s.slide.al) ∧
      (s.demand.mode = .emergency → t.outputs = s.outputs ∧ t.sharing = s.sharing) ∧
      t.SameButMessages { s.advance dt with
        demand := t.demand, outputs := t.outputs, sharing := t.sharing, peers := t.peers }

/-! ### Sharing and outputs -/

/-- The shares of the members of one set, each computed by its own station over the same members (R102 to R105): in case A
the electric targets together never pass the demand; in case B every station loads its CE, and when the headroom covers
the shortfall the friction targets together cover it, none above its own headroom. -/
def Obligations.SharesCoverTheGroupsDemand : Prop :=
  ∀ (r : Sharing) (ms : List Member),
    let sd := sumOf (ms.map Member.d)
    let se := sumOf (ms.map Member.ce)
    let sh := sumOf (ms.map fun m => min m.fx (m.al - m.ce))
    let share (m : Member) : Sharing := Sharing.compute { r with ce := m.ce, fx := m.fx, al := m.al } m (ms.erase m)
    (0 < sd → sd ≤ se → sumOf (ms.map fun m => (share m).et) ≤ sd ∧ ∀ m ∈ ms, (share m).et ≤ m.ce ∧ (share m).ft = 0) ∧
    (se < sd → ∀ m ∈ ms, (share m).et = m.ce ∧ (share m).ft ≤ min m.fx (m.al - m.ce)) ∧
    (se < sd → sd - se ≤ sh →
      sd - se ≤ sumOf (ms.map fun m => (share m).ft) ∧ ∀ m ∈ ms, (share m).u = 0) ∧
    (se < sd → sh < sd - se →
      sumOf (ms.map fun m => (share m).ft) = sh ∧ ∀ m ∈ ms, (share m).u = sd - se - sh)

/-- Outside EMERGENCY a control cycle forms the membership set by R100: the station alone off the ACTIVE line or within
300 ms of its entry into ACTIVE, otherwise with the LIVE peers of its group that do not state EMERGENCY; the sums of R102
run over the members' values of R101. The sharing stage sets AL and FX (R99) and CE (R98) from the output section as the link
check leaves it, and takes the case of R102 to R105 on the cycle's own sums; in EMERGENCY it computes nothing (R97). -/
def Obligations.ControlCycleFormsMembershipAndShares : Prop :=
  (∀ (dt : Nat) (s : State), s.runPhase = .running → s.demand.cycleDue ≤ s.clock + dt → s.demand.mode ≠ .emergency →
    let joined := s.line.state = .active ∧ ∃ e, s.line.activeSince = some e ∧ 300 ≤ since (s.advance dt).now e
    let peers : List Statement := s.peers.entries.filterMap fun e =>
      if e.state = .live ∧ e.group = some s.config.group ∧ (e.last.map fun v => v.mode == 2) = some false then e.last
      else none
    ∃ t, exec (.controlCycle dt) s = .next t ∧
      (s.line.state ≠ .active → t.sharing.alone = .line) ∧
      (s.line.state = .active → ¬joined → t.sharing.alone = .joinHold) ∧
      (¬joined → t.sharing.members = 1 ∧ t.sharing.sd = t.demand.d ∧ t.sharing.se = t.sharing.ce) ∧
      (joined → t.sharing.alone = .none ∧ t.sharing.members = 1 + peers.length ∧
        t.sharing.sd = t.demand.d + sumOf (peers.map fun v => min 4095 v.d) ∧
        t.sharing.se = t.sharing.ce + sumOf (peers.map fun v => min 4095 v.ce))) ∧
  ∀ (dt : Nat) (s : State), s.runPhase = .running → s.demand.cycleDue ≤ s.clock + dt →
    let o := (s.outputs.linkCheck s.config.etol).1
    ∃ t, exec (.controlCycle dt) s = .next t ∧
      let r := t.sharing
      r.al = s.slide.al ∧
      r.fx = (if s.outputs.frictionFault then 0
              else min 4095 ((t.outputs.pmaxEff - s.config.pth) * s.config.kf / 100)) ∧
      r.ce =
        (if s.demand.mode = .emergency ∨ o.linkUp = false ∨ s.config.emax = 0 ∨ o.status.fault = true ∨
            o.status.ready = false then 0
         else if o.fade = true then min o.status.eav (min r.al (o.status.eact + s.config.etol))
         else min o.status.eav r.al) ∧
      (s.demand.mode = .emergency →
        r.members = 0 ∧ r.alone = .emergency ∧ r.sd = 0 ∧ r.se = 0 ∧ r.sh = 0 ∧ r.kind = .none ∧ r.et = 0 ∧ r.ft = 0 ∧
          r.u = 0) ∧
      (s.demand.mode ≠ .emergency → r.sd = 0 →
        r.kind = .none ∧ r.fraction = none ∧ r.sh = 0 ∧ r.et = 0 ∧ r.ft = 0 ∧ r.u = 0) ∧
      (s.demand.mode ≠ .emergency → 0 < r.sd → r.sd ≤ r.se →
        r.kind = .a ∧ r.fraction = some (r.sd * 65536 / r.se) ∧ r.et = r.ce * (r.sd * 65536 / r.se) / 65536 ∧
          r.ft = 0 ∧ r.u = 0 ∧ r.sh = 0) ∧
      (s.demand.mode ≠ .emergency → r.se < r.sd →
        r.kind = .b ∧ r.et = r.ce ∧ r.hk = min r.fx (r.al - r.ce) ∧
        (r.sh = 0 → r.fraction = none ∧ r.ft = 0 ∧ r.u = r.sd - r.se) ∧
        (0 < r.sh → r.sd - r.se ≤ r.sh →
          let g := ((r.sd - r.se) * 65536 + (r.sh - 1)) / r.sh
          r.fraction = some g ∧ r.ft = min r.hk ((r.hk * g + 65535) / 65536) ∧ r.u = 0) ∧
        (0 < r.sh → r.sh < r.sd - r.se → r.fraction = none ∧ r.ft = r.hk ∧ r.u = r.sd - r.se - r.sh))

/-- After every step the exit timer is RUNNING or EXPIRED only in EMERGENCY at standstill (R30). Law 9: every step keeps the
cylinder setpoint at the larger of Pemg and the independent pressure while the mode is EMERGENCY, and no step that begins in
EMERGENCY raises Ecmd. Laws 3 and 4: after every step the targets stay within the AL and the FX of their cycle, and the
latest effort request asks no more than Emax and than the AL of its cycle. -/
def Obligations.BrakingStateStaysSound : Prop :=
  (∀ s t : State, s.ExitTimerSound → step s = .next t → t.ExitTimerSound) ∧
  (∀ s t : State, s.EmergencyHeld → step s = .next t →
    t.EmergencyHeld ∧ (s.demand.mode = .emergency → t.outputs.ecmd ≤ s.outputs.ecmd)) ∧
  ∀ s t : State, s.TargetsSafe → s.RequestSafe → step s = .next t → t.TargetsSafe ∧ t.RequestSafe

/-- The outputs stage of a control cycle halves Ecmd when the slide-cut flag is set and clears the flag (R117), moves
both commands by their ramps and caps Ecmd (R118, R119), and sends the effort request of R112. It works out Pmax_eff by R121
and drives the cylinder setpoint: by R122 outside EMERGENCY, by R123 in it. A BCout more than 10 kPa from the settle reference
becomes the reference and sets the settle time; any other leaves both (R124). -/
def Obligations.ControlCycleMovesCommandsAndSetsCylinder : Prop :=
  ∀ (dt : Nat) (s : State), s.runPhase = .running → s.demand.cycleDue ≤ s.clock + dt →
    let c := s.config
    let chans := s.acq.latestChans
    let e := if s.slide.slideCut then s.outputs.ecmd / 2 else s.outputs.ecmd
    let f := s.outputs.fcmd
    let move (target up down v : Nat) : Nat :=
      if v < target then min target (v + up) else if target < v then max target (v - down) else v
    ∃ t, exec (.controlCycle dt) s = .next t ∧
      let et := if s.demand.mode = .emergency then 0 else t.sharing.et
      let ft := if s.demand.mode = .emergency then 0 else t.sharing.ft
      t.outputs.ecmdStart = s.outputs.ecmd ∧
      t.outputs.ecmd = min (move et c.reUp c.reDn e) (min t.sharing.al c.emax) ∧
      t.outputs.fcmd = move ft (if t.outputs.ecmd < s.outputs.ecmd then c.rfFill else c.rfUp) c.rfDn f ∧
      t.slide = { s.slide with slideCut := false } ∧
      t.outputs.latest = some { seq := s.outputs.nextSeq, ecmd := t.outputs.ecmd, slideCut := s.slide.slideCut } ∧
      t.outputs.answered = false ∧ t.outputs.nextSeq = s.outputs.nextSeq + 1 ∧
      t.outputs.converterOut =
        withCrc16 ([1, s.outputs.nextSeq] ++ be16 t.outputs.ecmd ++ [if s.slide.slideCut then 1 else 0]) ∧
      let o := t.outputs
      (chans.mr.value = none → o.pmaxEff = c.pmax) ∧
      (∀ p, chans.mr.value = some p → o.pmaxEff = min c.pmax (p - 50)) ∧
      (s.demand.mode ≠ .emergency → o.fcmd = 0 → o.bcSet = 0) ∧
      (s.demand.mode ≠ .emergency → 0 < o.fcmd → 0 < c.kf →
        o.bcSet = min o.pmaxEff (c.pth + (o.fcmd * 100 + c.kf - 1) / c.kf)) ∧
      (s.demand.mode ≠ .emergency → o.bcOut = max o.bcSet (chans.ind.value.getD 0)) ∧
      (s.demand.mode = .emergency → o.bcSet = 0 ∧ o.bcOut = max c.pemg (chans.ind.value.getD 0)) ∧
      let ref := s.outputs.settleRef
      let moves := o.bcOut ≠ s.outputs.bcOut ∧ (ref + 10 < o.bcOut ∨ o.bcOut + 10 < ref)
      (moves → o.settleRef = o.bcOut ∧ o.settleTime = (s.advance dt).now) ∧
      (¬moves → o.settleRef = ref ∧ o.settleTime = s.outputs.settleTime)

/-- A reply on the converter link: discarded and counted by the frame check or the sequence check, or taken with the clamps
of R113, the run of valid replies and the link's return to UP. -/
def Obligations.StatusReplyIsCheckedAndClamped : Prop :=
  ∀ (dt : Nat) (frame : List Byte) (s : State), s.runPhase = .running →
    (parseStatus frame = none → exec (.statusReplyArrival dt frame) s = .next ((s.advance dt).bump .frameErrors)) ∧
    (∀ f, parseStatus frame = some f →
      (s.outputs.latest = none ∨ s.outputs.answered = true ∨
        ∃ r, s.outputs.latest = some r ∧ r.seq ≠ f.echo) →
      exec (.statusReplyArrival dt frame) s = .next ((s.advance dt).bump .lateReplies)) ∧
    ∀ f r, parseStatus frame = some f → s.outputs.latest = some r → s.outputs.answered = false → r.seq = f.echo →
      let up := s.outputs.linkUp = false ∧ 4 ≤ s.outputs.validRun
      let taken : State := { s.advance dt with outputs := { s.outputs with
        answered := true, validRun := min 5 (s.outputs.validRun + 1), missRun := 0,
        linkUp := s.outputs.linkUp || decide (4 ≤ s.outputs.validRun)
        status := { eav := min f.eav s.config.emax
                    eact := min (min f.eact s.config.emax) (r.ecmd + s.config.etol)
                    ready := f.ready, fault := f.fault, asked := r.ecmd } } }
      let counted := if r.ecmd + s.config.etol < min f.eact s.config.emax then taken.bump .overshoots else taken
      exec (.statusReplyArrival dt frame) s = .next
        (if up then counted.logEvent .link (be8 0 ++ be8 1 ++ be8 18) else counted)

/-- The link check of a control cycle. One that finds the latest request unanswered is a miss, and the third miss in a row
takes an UP link DOWN with the effects of R114. One that does not, with the link UP, steps the fade runs and FADE by R115 on
the last valid status. When Ecmd after its caps is 0, FADE and both runs are cleared (R116). -/
def Obligations.LinkCheckMissesAndFade : Prop :=
  ∀ (dt : Nat) (s : State), s.runPhase = .running → s.demand.cycleDue ≤ s.clock + dt →
    let o := s.outputs
    let miss := o.latest ≠ none ∧ o.answered = false
    let short := s.config.etol < o.status.asked ∧ o.status.eact < o.status.asked - s.config.etol
    ∃ t, exec (.controlCycle dt) s = .next t ∧
      (miss →
        t.outputs.validRun = 0 ∧ t.outputs.missRun = min 3 (o.missRun + 1) ∧
        t.counters.misses = countedOnce s.counters.misses ∧
        (o.linkUp = true → 2 ≤ o.missRun →
          t.outputs.linkUp = false ∧ t.outputs.status.eav = 0 ∧ t.outputs.status.eact = 0 ∧
            t.outputs.status.ready = false ∧ t.outputs.status.fault = false ∧ t.outputs.fade = false ∧
            t.outputs.shortRun = 0 ∧ t.outputs.goodRun = 0) ∧
        (o.linkUp = true → o.missRun < 2 → t.outputs.linkUp = true ∧ t.outputs.status = o.status) ∧
        (o.linkUp = false → t.outputs.linkUp = false ∧ t.outputs.status = o.status)) ∧
      (¬miss →
        t.outputs.validRun = o.validRun ∧ t.outputs.missRun = o.missRun ∧ t.counters.misses = s.counters.misses ∧
        t.outputs.linkUp = o.linkUp ∧ t.outputs.status = o.status) ∧
      (t.outputs.ecmd = 0 → t.outputs.fade = false ∧ t.outputs.shortRun = 0 ∧ t.outputs.goodRun = 0) ∧
      (t.outputs.ecmd ≠ 0 →
        let runs (fade : Bool) (x y : Nat) : Prop :=
          t.outputs.fade = fade ∧ t.outputs.shortRun = x ∧ t.outputs.goodRun = y
        (miss → o.linkUp = false ∨ o.missRun < 2 → runs o.fade o.shortRun o.goodRun) ∧
        (¬miss → o.linkUp = false → runs o.fade o.shortRun o.goodRun) ∧
        (¬miss → o.linkUp = true →
          (short → runs (o.fade || decide (3 ≤ o.shortRun + 1)) (min 3 (o.shortRun + 1)) 0) ∧
          (¬short → o.fade = false → runs false 0 o.goodRun) ∧
          (¬short → o.fade = true → o.goodRun + 1 < 50 → runs true 0 (o.goodRun + 1)) ∧
          (¬short → o.fade = true → 50 ≤ o.goodRun + 1 → runs false 0 0)))

/-- The friction response check at a pressure set arrival: the deviation run is opened, kept or made absent by R125 and
latches FRICTION_FAULT after 3000 ms, and the latch clears in RELEASED at a BC of 20 kPa or less (R126). The check reads the
mode and BCout as the demand section leaves them in the same arrival, which is the model's choice (log entry 12). The
unserved run of a control cycle is opened, kept, raised after 1000 ms or made absent by the table of R127 on the cycle's U. -/
def Obligations.FrictionFaultAndUnservedRuns : Prop :=
  (∀ (dt : Nat) (s : State), s.runPhase = .running → s.acq.scanDue ≤ s.clock + dt →
    ∃ t, exec (.scanCompletion dt) s = .next t ∧
      let now := (s.advance dt).now
      let bc := t.acq.latestChans.bc.value
      let o := t.outputs
      let sliding := ∃ i, (s.slide.machines.get i).state = .suspect ∨ (s.slide.machines.get i).state = .slide ∨
        (s.slide.machines.get i).state = .recover
      let deviates := ¬sliding ∧ 1000 ≤ since now o.settleTime ∧
        ∃ p, bc = some p ∧ (p + 60 < o.bcOut ∨ o.bcOut + 60 < p)
      let clears := t.demand.mode = .released ∧ ∃ p, bc = some p ∧ p ≤ 20
      (s.outputs.frictionFault = true →
        o.devStart = s.outputs.devStart ∧ (clears → o.frictionFault = false) ∧ (¬clears → o.frictionFault = true)) ∧
      (s.outputs.frictionFault = false →
        (¬deviates → o.devStart = none ∧ o.frictionFault = false) ∧
        (deviates → s.outputs.devStart = none → o.devStart = some now ∧ o.frictionFault = false) ∧
        (∀ r, deviates → s.outputs.devStart = some r → since now r < 3000 →
          o.devStart = some r ∧ o.frictionFault = false) ∧
        (∀ r, deviates → s.outputs.devStart = some r → 3000 ≤ since now r →
          o.devStart = none ∧ o.frictionFault = true))) ∧
  ∀ (dt : Nat) (s : State), s.runPhase = .running → s.demand.cycleDue ≤ s.clock + dt →
    ∃ t, exec (.controlCycle dt) s = .next t ∧
      let now := (s.advance dt).now
      let u := t.sharing.u
      let limit := s.config.uthr
      let old := s.outputs
      (u ≤ limit → t.outputs.unservedStart = none ∧ t.outputs.unservedRaised = false) ∧
      (limit < u → old.unservedStart = none →
        t.outputs.unservedStart = some now ∧ t.outputs.unservedRaised = false) ∧
      (∀ r, limit < u → old.unservedStart = some r → old.unservedRaised = true ∨ since now r < 1000 →
        t.outputs.unservedStart = some r ∧ t.outputs.unservedRaised = old.unservedRaised) ∧
      (∀ r, limit < u → old.unservedStart = some r → old.unservedRaised = false → 1000 ≤ since now r →
        t.outputs.unservedStart = some r ∧ t.outputs.unservedRaised = true)

/-! ### The consist brake line -/

/-- A reception is taken only with the transmitter idle and the line not OFF; it is checked in the order of R61 and, at the
first check that fails, counted and discarded with no further effect. -/
def Obligations.ReceptionIsCheckedInOrder : Prop :=
  ∀ (dt extra : Nat) (frame : List Byte) (s : State), s.runPhase = .running →
    let n := frame.length
    let good := frame.drop (n - 2) = be16 (crc16 (frame.take (n - 2))).toNat
    let formed := ∃ k, frameOfCode (byteAt frame 0) = some k ∧ byteAt frame 4 = payloadLength k ∧
      n = 6 + payloadLength k + 2 ∧ 1 ≤ byteAt frame 1 ∧ byteAt frame 1 ≤ 30 ∧ byteAt frame 2 ≤ 7 ∧ byteAt frame 5 = 0
    let heard : State := { s.advance dt with line := { s.line with lastActivityEnd := some (s.clock + dt) } }
    (s.line.tx ≠ .idle ∨ s.line.state = .off → exec (.receiveCompletion dt frame extra) s = .next (s.advance dt)) ∧
    (s.line.tx = .idle → s.line.state ≠ .off →
      (n < 11 ∨ extra ≠ 0 → exec (.receiveCompletion dt frame extra) s = .next (heard.bump .runts)) ∧
      (11 ≤ n → extra = 0 → ¬good → exec (.receiveCompletion dt frame extra) s = .next (heard.bump .crcErrors)) ∧
      (11 ≤ n → extra = 0 → good → ¬formed →
        exec (.receiveCompletion dt frame extra) s = .next (heard.bump .malformed)))

/-- A good frame that bears the station's own address is a clash (R70): the first one counts, the second takes the line to
CLASHED with both classes emptied and the timers stopped; the peer table takes neither (R62 to R64). -/
def Obligations.SecondClashTakesLineToClashed : Prop :=
  ∀ (dt : Nat) (frame : List Byte) (f : GoodFrame) (s : State), s.runPhase = .running → s.line.tx = .idle →
    s.line.state ≠ .off → classify frame 0 = .good f → f.source = s.address →
    ∃ t, exec (.receiveCompletion dt frame 0) s = .next t ∧
      t.SameButMessages { s.advance dt with demand := t.demand, outputs := t.outputs, sharing := t.sharing } ∧
      (f.kind ≠ .emergencyNotice → t.demand = s.demand ∧ t.outputs = s.outputs ∧ t.sharing = s.sharing) ∧
      t.line.clashes = min 2 (s.line.clashes + 1) ∧
      t.counters.addressClashes = countedOnce s.counters.addressClashes ∧
      (s.line.clashes = 0 ∨ s.line.state = .clashed →
        t.line.state = s.line.state ∧ t.line.slot = s.line.slot ∧ t.line.nextStatement = s.line.nextStatement) ∧
      (1 ≤ s.line.clashes → s.line.state ≠ .clashed →
        t.line.state = .clashed ∧ t.line.queue = [] ∧ t.line.slot = none ∧ t.line.nextStatement = none ∧
          t.line.statementDue = none ∧ t.line.due = false ∧ t.line.holdDue = none)

/-- A statement is built from the values of R107. Its CE is that of the most recent control cycle, at most AL (R107, R108),
also between an entry into EMERGENCY and the next cycle, where R27's row has 0 (log entry 13); its Fcmd and U are that cycle's
(log entry 44). At the end of
LISTENING the line enters ACTIVE with a statement in the routine slot and the statement timer at 100 ms (R67); at the hold
timer's expiry in ISOLATED a statement is placed in the slot as a probe, and counts as the last one queued (R69). At the
statement timer's expiry in ACTIVE a statement is queued when both intervals of R78 have passed, and stays due otherwise; a
statement that stayed due is queued in the same way when they have. It enters the routine slot by R77. -/
def Obligations.StatementsAreBuiltQueuedAndPlaced : Prop :=
  ∀ (dt : Nat) (s : State), s.runPhase = .running →
    let now := s.clock + dt
    let v : Statement :=
      { d := s.demand.d, fx := s.sharing.fx, al := s.slide.al, vref := s.slide.vref, ecmd := s.outputs.ecmd
        ce := min s.sharing.ce s.slide.al
        fcmd := s.outputs.cycle.fcmd, u := s.outputs.cycle.u
        mode := BitVec.ofNat 8 (modeCode s.demand.mode), flags := s.statementFlags }
    let fresh : TxFrame := { kind := .statement, payload := statementBytes v, seq := none, k := 0, wait := none }
    (∀ due, due ≤ now → s.line.state = .listening → s.line.listenDue = some due → s.line.slot = none →
      exec (.listenTimerExpiry dt) s = .next
        { s.advance dt with
          line := { s.line with
            state := .active, activeSince := some (s.advance dt).now, listenDue := none, slot := some fresh,
            due := false, statementDue := some (now + 100000), lastQueued := some v,
            lastQueuedAt := some now, queuedInActive := true }
          recorder := s.recorder.logEvent (s.advance dt).now .line (be8 1 ++ be8 2 ++ be8 6) }) ∧
    (∀ due, due ≤ now → s.line.state = .isolated → s.line.holdDue = some due →
      exec (.holdTimerExpiry dt) s = .next
        { s.advance dt with line := { s.line with
            slot := some fresh, holdDue := none, lastQueued := some v, lastQueuedAt := some now } }) ∧
    (s.line.state = .active →
      let timer := ∃ d, s.line.statementDue = some d ∧ d ≤ now
      (timer → ¬(s.advance dt).BothIntervalsPassed →
        exec (.statementTimerExpiry dt) s = .next
          { s.advance dt with line := { s.line with statementDue := none, due := true } }) ∧
      ((s.advance dt).BothIntervalsPassed →
        ∃ t, (timer → exec (.statementTimerExpiry dt) s = .next t) ∧
          (s.line.due = true → exec (.dueStatementQueued dt) s = .next t) ∧
          t.line = { s.line with
            slot := t.line.slot, nextStatement := t.line.nextStatement, due := false,
            statementDue := some (now + 100000), lastQueued := some v, lastQueuedAt := some now,
            queuedInActive := true } ∧
          { t with line := s.line, counters := s.counters, recorder := s.recorder } = s.advance dt ∧
          (s.line.slot = none →
            t.line.slot = some fresh ∧ t.line.nextStatement = s.line.nextStatement ∧ t.counters = s.counters) ∧
          (∀ old, s.line.slot = some old → s.line.tx.carries .routine = false →
            t.line.slot = some { fresh with seq := old.seq, k := old.k, wait := old.wait } ∧
              t.line.nextStatement = s.line.nextStatement ∧
              t.counters.superseded = countedOnce s.counters.superseded) ∧
          (∀ old, s.line.slot = some old → s.line.tx.carries .routine = true →
            t.line.slot = some old ∧ t.line.nextStatement = some fresh ∧
              t.counters.superseded =
                (if s.line.nextStatement.isSome then countedOnce s.counters.superseded else s.counters.superseded))))

/-- The early statement test as a control cycle begins (R109): in ACTIVE, once a statement has been queued there, it compares
the statement that would be built now with the last one queued, and a statement is due when CE, FX or AL differs by at least
100 EU and a tenth of the old value, or the mode differs. It is queued at once when both intervals of R78 have passed, and
stays due otherwise. In every other case the cycle leaves the line but for its urgent queue. The model's choices: the test comes
before the link check, so the statement's FADE and CONVERTER_DOWN stand as before it (log entry 43), its CE in EMERGENCY before
the first cycle taken there is R107's (log entry 13), and its Fcmd and U are the last cycle's (log entry 44). -/
def Obligations.EarlyTestMakesStatementDue : Prop :=
  ∀ (dt : Nat) (s : State), s.runPhase = .running → s.demand.cycleDue ≤ s.clock + dt →
    let now := s.clock + dt
    let v := (s.advance dt).buildStatement
    let big (new old : Nat) : Prop :=
      (old + 100 ≤ new ∨ new + 100 ≤ old) ∧ (old ≤ 10 * (new - old) ∨ old ≤ 10 * (old - new))
    let early := s.line.state = .active ∧ s.line.queuedInActive = true ∧ ∃ old, s.line.lastQueued = some old ∧
      (big v.ce old.ce ∨ big v.fx old.fx ∨ big v.al old.al ∨ v.mode ≠ old.mode)
    ∃ t, exec (.controlCycle dt) s = .next t ∧
      (¬early → t.line.SameButQueue s.line) ∧
      (early → ¬(s.advance dt).BothIntervalsPassed → t.line.SameButQueue { s.line with due := true }) ∧
      (early → (s.advance dt).BothIntervalsPassed → t.line.SameButQueue { s.line with
        slot := t.line.slot, nextStatement := t.line.nextStatement, due := false, statementDue := some (now + 100000),
        lastQueued := some v, lastQueuedAt := some now, queuedInActive := true })

/-- An urgent entry handed over (R75, R76): discarded and counted outside ACTIVE, appended while the queue holds fewer than
four entries, and otherwise put in the place of the oldest entry that its kind may replace, the entry in transmission never
among them, with that entry's sequence number, attempt count and wait, or discarded when there is none; both count as
overflow. -/
def Obligations.UrgentEntryJoinsReplacesOrIsLost : Prop :=
  ∀ (kind : FrameKind) (payload : List Byte) (s : State), kind ≠ .statement →
    let fresh : TxFrame := { kind := kind, payload := payload, seq := none, k := 0, wait := none }
    let may (f : TxFrame) : Prop := if kind = .emergencyNotice then f.kind ≠ .emergencyNotice else f.kind = .slideNotice
    let sent := if s.line.tx.carries .urgent then 1 else 0
    (s.line.state ≠ .active → s.handUrgent kind payload = s.bump .urgentDiscarded) ∧
    (s.line.state = .active → s.line.queue.length < 4 →
      s.handUrgent kind payload = { s with line := { s.line with queue := s.line.queue ++ [fresh] } }) ∧
    (s.line.state = .active → 4 ≤ s.line.queue.length →
      (∀ before f behind, s.line.queue = before ++ f :: behind → sent ≤ before.length → may f →
        (∀ g ∈ before.drop sent, ¬may g) →
        s.handUrgent kind payload = State.bump
          { s with line := { s.line with
              queue := before ++ { fresh with seq := f.seq, k := f.k, wait := f.wait } :: behind } } .urgentOverflow) ∧
      ((∀ g ∈ s.line.queue.drop sent, ¬may g) → s.handUrgent kind payload = s.bump .urgentOverflow))

/-- An attempt starts in ACTIVE or ISOLATED with the transmitter and the line idle for the gap: of the head of the urgent
queue when it holds an entry, else of the statement in the slot; a first attempt takes the next sequence number (R60,
R71). The frame that goes out is the header and payload of R60 with the CRC-16 of R188 after them. While the urgent head
waits, nothing starts. -/
def Obligations.AttemptTakesUrgentHeadFirst : Prop :=
  ∀ (dt : Nat) (s : State), s.runPhase = .running → s.line.tx = .idle →
    (s.line.state = .active ∨ s.line.state = .isolated) →
    (∀ e, s.line.lastActivityEnd = some e → e + 192 ≤ s.clock + dt) →
    let sent (f : TxFrame) : List Byte :=
      let body := be8 (frameCode f.kind) ++ be8 s.address ++ be8 s.config.group ++ [f.seq.getD s.line.nextSeq] ++
        be8 f.payload.length ++ be8 0 ++ f.payload
      body ++ be16 (crc16 body).toNat
    (∀ f rest, s.line.queue = f :: rest → f.wait ≠ none → exec (.attemptStart dt) s = .next (s.advance dt)) ∧
    (∀ f rest, s.line.queue = f :: rest → f.wait = none →
      exec (.attemptStart dt) s = .next
        { s.advance dt with line := { s.line with
            tx := .sending .urgent (s.clock + dt)
            queue := { f with seq := some (f.seq.getD s.line.nextSeq) } :: rest
            nextSeq := if f.seq = none then s.line.nextSeq + 1 else s.line.nextSeq
            frameOut := sent f } }) ∧
    (∀ f, s.line.queue = [] → s.line.slot = some f → f.wait = none →
      exec (.attemptStart dt) s = .next
        { s.advance dt with line := { s.line with
            tx := .sending .routine (s.clock + dt)
            slot := some { f with seq := some (f.seq.getD s.line.nextSeq) }
            nextSeq := if f.seq = none then s.line.nextSeq + 1 else s.line.nextSeq
            frameOut := sent f } })

/-- A collision within the first 64 bit times drives a jam of 32 bit times and adds 1 to the frame's attempts; at the tenth
the frame is abandoned (R72), and in ACTIVE the third abandonment takes the line to ISOLATED (R68). At the end of a jam the
back-off register advances one step and gives the frame's wait in slot times of 256 µs (R73), and a waiting next statement
takes the place of the collided one (R77); the jam of an abandoned frame ends without a draw. A wait that ends makes the frame
ready (R72). -/
def Obligations.CollisionsJamAndWait : Prop :=
  (∀ (dt start : Nat) (c : TxClass) (f : TxFrame) (s : State), s.runPhase = .running → s.line.tx = .sending c start →
      s.clock + dt < start + 256 → s.line.head c = some f →
      (f.k + 1 < 10 → exec (.collision dt) s = .next
        (State.bump { s.advance dt with line := { s.line.setHead c { f with k := f.k + 1 } with
          tx := .jamming (some c) (s.clock + dt + 128) } } .collisions)) ∧
      (10 ≤ f.k + 1 →
        ∃ t, exec (.collision dt) s = .next t ∧
          t.counters.collisions = countedOnce s.counters.collisions ∧
          t.counters.excessiveCollisions = countedOnce s.counters.excessiveCollisions ∧
          t.line.tx = .jamming none (s.clock + dt + 128) ∧ t.SameButMessages (s.advance dt) ∧
          (s.line.state = .active → s.line.trouble < 2 →
            t.line = { s.line.leave c with trouble := s.line.trouble + 1, tx := t.line.tx }) ∧
          (s.line.state = .active → 2 ≤ s.line.trouble →
            t.line.state = .isolated ∧ t.line.trouble = 3 ∧ t.line.queue = [] ∧ t.line.slot = none ∧
              t.line.nextStatement = none ∧ t.line.statementDue = none ∧ t.line.due = false ∧ t.line.hold = 2000 ∧
              t.line.holdDue = some (s.clock + dt + 2000000)) ∧
          (s.line.state = .isolated → t.line.state = .isolated ∧ t.line.hold = min 16000 (2 * s.line.hold) ∧
            t.line.holdDue = some (s.clock + dt + min 16000 (2 * s.line.hold) * 1000)))) ∧
  (∀ (dt stop : Nat) (c : TxClass) (f : TxFrame) (s : State), s.runPhase = .running →
    s.line.tx = .jamming (some c) stop → stop ≤ s.clock + dt → s.line.head c = some f →
    let b := s.line.backoff
    let reg : BitVec 16 := if b.getLsbD 0 then (b >>> 1) ^^^ 0xB400#16 else b >>> 1
    let r := reg.toNat % 2 ^ min f.k (if c = .urgent then 2 else 5)
    let f' : TxFrame := { f with wait := if r = 0 then none else some (s.clock + dt + r * 256) }
    let ended : Line := { s.line.setHead c f' with tx := .idle, lastActivityEnd := some (s.clock + dt), backoff := reg }
    (c = .urgent ∨ s.line.nextStatement = none → exec (.jamEnd dt) s = .next { s.advance dt with line := ended }) ∧
    (∀ n, c = .routine → s.line.nextStatement = some n → exec (.jamEnd dt) s = .next
      (State.bump { s.advance dt with line := { ended with
        slot := some { n with seq := f.seq, k := f.k, wait := f'.wait }, nextStatement := none } } .superseded))) ∧
  (∀ (dt stop : Nat) (s : State), s.runPhase = .running → s.line.tx = .jamming none stop → stop ≤ s.clock + dt →
    exec (.jamEnd dt) s = .next
      { s.advance dt with line := { s.line with tx := .idle, lastActivityEnd := some (s.clock + dt) } }) ∧
  ∀ (dt wait : Nat) (c : TxClass) (f : TxFrame) (s : State), s.runPhase = .running → s.line.head c = some f →
    f.wait = some wait → wait ≤ s.clock + dt →
    exec (.backoffWaitEnd dt c) s = .next
      { s.advance dt with line := s.line.setHead c { f with wait := none } }

/-- An attempt read back clean to the end of its check word sends its frame (R74): the frame leaves its class, the trouble
count is 0, and a probe takes the line from ISOLATED to ACTIVE (R69). A collision at bit time 64 or later abandons the
frame without a jam (R74). -/
def Obligations.AttemptEndsSentOrLate : Prop :=
  ∀ (dt start : Nat) (c : TxClass) (f : TxFrame) (s : State), s.runPhase = .running → s.line.tx = .sending c start →
    s.line.head c = some f →
    (start + (f.payload.length + 8) * 32 ≤ s.clock + dt →
      ∃ t, exec (.frameSent dt) s = .next t ∧
        t.counters.framesSent = countedOnce s.counters.framesSent ∧
        t.line.tx = .idle ∧ t.line.lastActivityEnd = some (s.clock + dt) ∧ t.line.trouble = 0 ∧
        t.SameButMessages (s.advance dt) ∧
        t.line.queue = (s.line.leave c).queue ∧ t.line.slot = (s.line.leave c).slot ∧
        t.line.nextStatement = (s.line.leave c).nextStatement ∧
        t.line.lastSentEnd = (if f.kind = .statement then some (s.advance dt).now else s.line.lastSentEnd) ∧
        (s.line.state ≠ .isolated → t.line.state = s.line.state ∧ t.line.statementDue = s.line.statementDue) ∧
        (s.line.state = .isolated → t.line.state = .active ∧ t.line.activeSince = some (s.advance dt).now ∧
          t.line.hold = 2000 ∧ t.line.statementDue = s.line.lastQueuedAt.map (· + 100000))) ∧
    (start + 256 ≤ s.clock + dt →
      ∃ t, exec (.lateCollision dt) s = .next t ∧
        t.counters.lateCollisions = countedOnce s.counters.lateCollisions ∧
        t.line.tx = .idle ∧ t.line.lastActivityEnd = some (s.clock + dt) ∧ t.SameButMessages (s.advance dt) ∧
        (s.line.state = .active → s.line.trouble < 2 →
          t.line = { s.line.leave c with
            trouble := s.line.trouble + 1, tx := .idle, lastActivityEnd := some (s.clock + dt) }) ∧
        (s.line.state = .active → 2 ≤ s.line.trouble → t.line.state = .isolated))

/-- After every step the urgent queue holds at most four entries, and none outside ACTIVE (R75, R68, R70), and the peer
table holds at most 15 entries in ascending order of address, none twice and none for the station's own address (law 6,
R81). A command that is not the reset sequence's leaves OFF as it is, takes no station to OFF, and takes none out of CLASHED
(R67, R70). -/
def Obligations.LineAndPeerTableStaySound : Prop :=
  (∀ s t : State, s.UrgentSound → step s = .next t → t.UrgentSound) ∧
  (∀ s t : State, s.PeersSound → step s = .next t → t.PeersSound) ∧
  ∀ (c : Instr) (s t : State), resetCommand c = false → exec c s = .next t →
    (t.line.state = .off ↔ s.line.state = .off) ∧ (s.line.state = .clashed → t.line.state = .clashed)

/-! ### The peer table -/

/-- A good effort statement of another station at the peer table. An address without an entry gets a dynamic JOINING one
while a place is free, or in the place of the dynamic SILENT entry heard longest ago, or is refused (R84, R87). An entry in
SILENT or ABSENT takes it without the checks and enters JOINING (R87). One in JOINING, LIVE or UNRULY takes it by the sequence
check of R85; less than 20 ms after the last one accepted it is an excess, and the sixteenth of a window takes LIVE and JOINING
to UNRULY (R86, R89; the count at 16 is log entry 30's); otherwise it is accepted, and a second one no more than 500 ms after
the first takes JOINING to LIVE (R87, R88). That the first-statement time is absent from the entry into LIVE or UNRULY on is
the model's choice (log entry 48). -/
def Obligations.StatementArrivalUpdatesPeerTable : Prop :=
  ∀ (dt : Nat) (frame : List Byte) (f : GoodFrame) (s : State), s.runPhase = .running → s.line.tx = .idle →
    s.line.state ≠ .off → classify frame 0 = .good f → f.kind = .statement → f.source ≠ s.address →
    let es := s.peers.entries
    let now := (s.advance dt).now
    let stored (e : PeerEntry) : PeerEntry :=
      { e with group := some f.group, lastSeq := some f.seq, last := some (parseStatement f.payload),
               lastTime := some now, heard := some now }
    let joining (e : PeerEntry) : PeerEntry := { stored e with state := .joining, entered := now, firstTime := some now }
    let created : PeerEntry := { joining (staticEntry f.source) with fixed := false }
    ∃ t, exec (.receiveCompletion dt frame 0) s = .next t ∧
      t.SameButMessages { s.advance dt with peers := { s.peers with entries := t.peers.entries } } ∧
      (findPeer es f.source = none → es.length < 15 → t.peers.entries = insertPeer created es) ∧
      (findPeer es f.source = none → 15 ≤ es.length → (∀ e ∈ es, e.fixed = true ∨ e.state ≠ .silent) →
        t.peers.entries = es ∧ t.counters.tableRefusals = countedOnce s.counters.tableRefusals) ∧
      (∀ old h, findPeer es f.source = none → 15 ≤ es.length → s.PeersSound → old ∈ es → old.fixed = false →
        old.state = .silent → old.heard = some h →
        (∀ e ∈ es, e ≠ old → e.fixed = false → e.state = .silent →
          ∃ g, e.heard = some g ∧ (since now g < since now h ∨ since now g = since now h ∧ old.addr < e.addr)) →
        t.peers.entries = insertPeer created (es.filter fun e => e.addr != old.addr)) ∧
      (∀ e, findPeer es f.source = some e → e.state = .silent ∨ e.state = .absent →
        t.peers.entries = setPeer es (joining e)) ∧
      ∀ e last, findPeer es f.source = some e → e.state = .joining ∨ e.state = .live ∨ e.state = .unruly →
        e.lastSeq = some last →
        let diff := (f.seq - last).toNat
        let taken : PeerEntry := { e with lastSeq := some f.seq, missed := min 65535 (e.missed + (diff - 1)) }
        (diff = 0 → t.peers.entries = setPeer es e ∧ t.counters.duplicates = countedOnce s.counters.duplicates) ∧
        (128 ≤ diff → t.peers.entries = setPeer es e ∧ t.counters.staleFrames = countedOnce s.counters.staleFrames) ∧
        (∀ previous, 0 < diff → diff < 128 → e.lastTime = some previous → 20 ≤ since now previous →
          (e.state = .live ∨ e.state = .unruly → t.peers.entries = setPeer es (stored taken)) ∧
          (∀ first, e.state = .joining → e.firstTime = some first → since now first ≤ 500 →
            t.peers.entries = setPeer es { stored taken with state := .live, entered := now, firstTime := none }) ∧
          (∀ first, e.state = .joining → e.firstTime = some first → 500 < since now first →
            t.peers.entries = setPeer es { stored taken with firstTime := some now })) ∧
        ∀ previous, 0 < diff → diff < 128 → e.lastTime = some previous → since now previous < 20 →
          ∃ w : Excess, w.last = now ∧
            (∀ x, e.excess = some x → since now x.start < 500 → w.start = x.start ∧ w.count = min 16 (x.count + 1)) ∧
            ((∀ x, e.excess = some x → 500 ≤ since now x.start) → w.start = now ∧ w.count = 1) ∧
            t.counters.excesses = countedOnce s.counters.excesses ∧
            t.peers.entries = setPeer es
              (if 16 ≤ w.count ∧ e.state ≠ .unruly then
                { taken with excess := some w, state := .unruly, entered := now, firstTime := none }
               else { taken with excess := some w })

/-- The ageing timer takes every entry on its own values: one heard less than 500 ms ago stays, a LIVE, JOINING or UNRULY one
not heard for 500 ms enters SILENT (R90), an UNRULY one whose last excess lies 2000 ms back enters LIVE (R89, tested before the
silence: log entry 34), and one SILENT for 3000 ms is removed, or enters ABSENT when static (R91). That the first-statement
time is absent from the entry into SILENT on is the model's choice (log entry 48). -/
def Obligations.AgeingTimerAgesEntries : Prop :=
  ∀ (dt : Nat) (e : PeerEntry) (s : State), s.runPhase = .running → s.peers.ageingDue ≤ s.clock + dt → s.PeersSound →
    e ∈ s.peers.entries →
    let now := (s.advance dt).now
    ∃ t, exec (.ageingTimerExpiry dt) s = .next t ∧ t.peers.ageingDue = s.peers.ageingDue + 20000 ∧
      t.SameButMessages { s.advance dt with peers := t.peers } ∧ t.line.SameButQueue s.line ∧
      (∀ h, e.state = .live ∨ e.state = .joining → e.heard = some h → since now h < 500 → e ∈ t.peers.entries) ∧
      (∀ h, e.state = .live ∨ e.state = .joining → e.heard = some h → 500 ≤ since now h →
        { e with state := .silent, entered := now, firstTime := none } ∈ t.peers.entries) ∧
      (∀ h w, e.state = .unruly → e.heard = some h → e.excess = some w →
        let calm := 2000 ≤ since now w.last
        let e' := { e with state := .silent, entered := now, firstTime := none }
        (¬calm → since now h < 500 → e ∈ t.peers.entries) ∧
        (¬calm → 500 ≤ since now h → e' ∈ t.peers.entries) ∧
        (calm → since now h < 500 → { e with state := .live, entered := now, excess := none } ∈ t.peers.entries) ∧
        (calm → 500 ≤ since now h → { e' with excess := none } ∈ t.peers.entries)) ∧
      (e.state = .silent → since now e.entered < 3000 → e ∈ t.peers.entries) ∧
      (e.state = .silent → 3000 ≤ since now e.entered → e.fixed = false → ∀ x ∈ t.peers.entries, x.addr ≠ e.addr) ∧
      (e.state = .silent → 3000 ≤ since now e.entered → e.fixed = true →
        { staticEntry e.addr with entered := now } ∈ t.peers.entries) ∧
      (e.state = .absent → e ∈ t.peers.entries)

/-! ### The Recorder -/

/-- TRIGGER is answered OK and raises MANUAL (R183), which the Recorder treats by the tests of R148 in their order: ignored
in SCANNING, when disabled or when gated; in IDLE it opens an incident with the next number (R150, R153), which the
power-fail warning closes in the same event with TRUNCATED set (R157, R158); in CAPTURING it is appended (R154). That a
disabled MANUAL counts in SCANNING is the model's order of R148 before R160 (log entry 49). -/
def Obligations.ManualTriggerIsTestedAndTaken : Prop :=
  ∀ (dt : Nat) (s : State), s.runPhase = .running → s.service.inProgress = none →
    let u : State := (s.arrival dt).answers 8 .ok []
    let line := s.triggerLine .manual
    let nowMs := (s.clock + dt) / 1000
    let taken := s.recorder.state ≠ .scanning ∧ line.enable = true ∧
      (line.importance = .high ∨ s.recorder.pendingQueue.length < s.config.gate)
    (s.recorder.state = .scanning → exec (.trigger dt []) s = .next (u.bump .ignoredInScanning)) ∧
    (s.recorder.state ≠ .scanning → line.enable = false → exec (.trigger dt []) s = .next u) ∧
    (s.recorder.state ≠ .scanning → line.enable = true → line.importance = .low →
      s.config.gate ≤ s.recorder.pendingQueue.length → exec (.trigger dt []) s = .next (u.bump .gated)) ∧
    (taken → s.recorder.capture = none → s.store.exhausted = true →
      exec (.trigger dt []) s = .next (u.bump .ignoredInScanning)) ∧
    (taken → s.recorder.capture = none → s.store.exhausted = false → s.powerFail = false →
      ∃ t inc, exec (.trigger dt []) s = .next t ∧ t.recorder.state = .capturing ∧ t.recorder.capture = some inc ∧
        inc.number = s.store.nextNumber ∧ inc.openMs = nowMs ∧ inc.windowEnd = nowMs + line.post ∧
        inc.truncated = false ∧ inc.overflowed = false ∧
        inc.causes = [{ cause := .manual, offset := 0, detail := [], origin := none }] ∧
        inc.summary.peaks = s.recorder.peaks ∧ t.recorder.peaks = ⟨none, none, none, none, none, none, none⟩ ∧
        t.recorder.pendingQueue = s.recorder.pendingQueue ∧ t.SameButMessages u ∧
        (s.store.nextNumber < 4294967295 → t.store = { s.store with nextNumber := s.store.nextNumber + 1 }) ∧
        (s.store.nextNumber = 4294967295 → t.store = { s.store with exhausted := true }) ∧
        (s.line.state = .active → s.config.sendMarks = true → s.line.queue.length < 4 →
          t.line = { s.line with queue := s.line.queue ++
            [{ kind := .incidentMark, payload := be32 s.store.nextNumber ++ be8 13, seq := none, k := 0, wait := none }] }) ∧
        (s.config.sendMarks = false ∨ s.line.state ≠ .active → t.line = s.line)) ∧
    (taken → s.recorder.capture = none → s.store.exhausted = false → s.powerFail = true →
      ∃ t, exec (.trigger dt []) s = .next t ∧ t.recorder.state = .idle ∧ t.recorder.capture = none ∧
        t.recorder.peaks = ⟨none, none, none, none, none, none, none⟩ ∧ t.SameButMessages u ∧
        (s.store.nextNumber < 4294967295 → t.store = { s.store with nextNumber := s.store.nextNumber + 1 }) ∧
        (s.store.nextNumber = 4294967295 → t.store = { s.store with exhausted := true }) ∧
        (4 ≤ s.recorder.pendingQueue.length →
          t.recorder.pendingQueue = s.recorder.pendingQueue ∧
            t.counters.incidentsLost = countedOnce s.counters.incidentsLost) ∧
        (s.recorder.pendingQueue.length < 4 →
          ∃ e, t.recorder.pendingQueue = s.recorder.pendingQueue ++ [e] ∧ e.closeTime = u.now ∧ e.retention = false ∧
            (e.tracesAbsent = true ↔
              s.recorder.spare.length < (s.recorder.chans.filter fun ch => ch.state == .running).length) ∧
            (e.tracesAbsent = true → e.frozen = []) ∧
            e.incident.number = s.store.nextNumber ∧ e.incident.openMs = nowMs ∧ e.incident.truncated = true ∧
            e.incident.causes = [{ cause := .manual, offset := 0, detail := [], origin := none }])) ∧
    (∀ inc, taken → s.recorder.capture = some inc → inc.causes.length < 8 →
      exec (.trigger dt []) s = .next { u with recorder := { s.recorder with capture := some { inc with
        causes := inc.causes ++ [{ cause := .manual, offset := nowMs - inc.openMs, detail := [], origin := none }]
        windowEnd := if line.importance = .high then
            min (max inc.windowEnd (nowMs + line.post)) (inc.openMs + 10000)
          else inc.windowEnd } } })

/-- The triggers of the Acquisition Unit, the SPU and the Blending Unit, raised while the Recorder takes them all into the
incident in capture. A scan completion raises SENSOR_FAULT for each channel that enters FAILED (R3), EMERGENCY_LOCAL at a
local detection outside EMERGENCY (R26) and FRICTION_FAULT when the latch is set (R125). A speed set arrival raises
SENSOR_FAULT for each axle that enters FAULT (R43) and VENT_TIMEOUT for each that enters TIMEOUT (R47), and SLIDE_ENTRY for
each that enters SLIDE (R55), of which the Recorder takes the first outside the holdoff and counts every other one (R148,
R149). A control cycle raises CONVERTER_LOST when the link goes DOWN (R114) and UNSERVED when its run is raised (R127). Each
carries the detail of its rule. The order within one event is the model's (log entries 11, 12 and 47), and so is the coding of
the details (log entry 29). -/
def Obligations.UnitsRaiseTheirTriggers : Prop :=
  (∀ (dt : Nat) (inc : Incident) (s : State), s.runPhase = .running → s.acq.scanDue ≤ s.clock + dt →
    s.TakesTriggers inc →
    ∃ t, exec (.scanCompletion dt) s = .next t ∧
      let failed (i : PressId) : List Trigger :=
        if (s.acq.chans.get i).state ≠ .failed ∧ (t.acq.chans.get i).state = .failed then
          [{ cause := .sensorFault, detail := be8 (pressNumber i), origin := none }]
        else []
      let detected : List Trigger := match t.acq.latestChans.bp.value with
        | none => []
        | some p =>
          if s.demand.mode ≠ .emergency ∧ (p < s.config.bpEmerg ∨ (s.config.remerg : Int) ≤ t.acq.fall) then
            [{ cause := .emergencyLocal, origin := none
               detail := be8 (if p < s.config.bpEmerg then 1 else 2) ++ be16 p ++ beInt16 t.acq.fall }]
          else []
      let friction : List Trigger :=
        if s.outputs.frictionFault = false ∧ t.outputs.frictionFault = true then
          [{ cause := .frictionFault, origin := none
             detail := be16 (t.acq.latestChans.bc.value.getD 0) ++ be16 t.outputs.bcOut ++
               be8 (modeCode t.demand.mode) }]
        else []
      t.TookTriggers inc (failed .bp ++ failed .bc ++ failed .ind ++ failed .mr ++ detected ++ friction)) ∧
  (∀ (dt : Nat) (f₁ f₂ f₃ : Bool) (inc : Incident) (s : State), s.runPhase = .running →
    s.acq.windowDue ≤ s.clock + dt → s.TakesTriggers inc →
    ∃ t, exec (.speedWindowExpiry dt f₁ f₂ f₃) s = .next t ∧
      let now := (s.advance dt).now
      let old (i : AxleId) := s.slide.machines.get i
      let new (i : AxleId) := t.slide.machines.get i
      let moved (i : AxleId) : List Trigger :=
        if (old i).state ≠ .fault ∧ (new i).state = .fault then
          [{ cause := .sensorFault, detail := be8 (axleNumber i), origin := none }]
        else if (old i).state ≠ .timeout ∧ (new i).state = .timeout then
          [{ cause := .ventTimeout, origin := none
             detail := be8 (axleNumber i) ++ be16 t.slide.vref ++ be16 (new i).lastQ ++ be16 (new i).vent }]
        else []
      let slid (i : AxleId) : List Trigger :=
        if (old i).state ≠ .slide ∧ (new i).state = .slide then
          [{ cause := .slideEntry, origin := none
             detail := be8 (axleNumber i) ++ be8 (axleCode (old i).state) ++ be16 (new i).lastQ ++
               be16 t.slide.vref ++ be16 t.slide.a ++ be16 t.slide.al }]
        else []
      let stage4 := moved .one ++ moved .two ++ moved .three
      let stage5 := slid .one ++ slid .two ++ slid .three
      let held := ∃ h, s.recorder.holdoff = some h ∧ since now h < 10000
      (held → t.TookTriggers inc stage4 ∧ t.recorder.holdoff = s.recorder.holdoff ∧
        t.counters.heldOff = countedOnce^[stage5.length] s.counters.heldOff) ∧
      (¬held → inc.causes.length ≤ 4 → t.TookTriggers inc (stage4 ++ stage5.take 1) ∧
        t.recorder.holdoff = (if stage5 = [] then s.recorder.holdoff else some now) ∧
        t.counters.heldOff = countedOnce^[stage5.length - 1] s.counters.heldOff)) ∧
  ∀ (dt : Nat) (inc : Incident) (s : State), s.runPhase = .running → s.demand.cycleDue ≤ s.clock + dt →
    s.TakesTriggers inc →
    ∃ t, exec (.controlCycle dt) s = .next t ∧
      let lost : List Trigger :=
        if s.outputs.linkUp = true ∧ t.outputs.linkUp = false then
          [{ cause := .converterLost, origin := none
             detail := be16 ((s.outputs.latest.map Request.ecmd).getD 0) ++ be16 s.outputs.status.eav ++
               be16 s.outputs.status.eact }]
        else []
      let unserved : List Trigger :=
        if s.outputs.unservedRaised = false ∧ t.outputs.unservedRaised = true then
          [{ cause := .unserved, origin := none
             detail := be16 t.sharing.u ++ be16 t.sharing.sd ++ be16 t.sharing.se ++ be16 t.sharing.sh }]
        else []
      t.TookTriggers inc (lost ++ unserved)

/-- The triggers of the Line Unit, raised while the Recorder takes them all into the incident in capture. The ageing timer
raises PEER_LOST for each static entry that enters SILENT from LIVE, in address order (R90; an UNRULY entry calmed at the same
expiry is LIVE before it is aged: log entry 34). A third abandonment in ACTIVE raises LINE_ISOLATED with the frame's kind and
the reason (R68), a second clash ADDRESS_CLASH (R70), and a received notice outside EMERGENCY EMERGENCY_PEER (R29; after the
clash when both come of one frame: log entry 45). A received incident mark is PEER_MARK with its origin (R65, R155); in IDLE it
opens an incident with that cause, for which the station sends no mark (R153, law 10). The coding of the details is log entry
29's. -/
def Obligations.LineRaisesItsTriggers : Prop :=
  (∀ (dt : Nat) (inc : Incident) (s : State), s.runPhase = .running → s.peers.ageingDue ≤ s.clock + dt →
    s.TakesTriggers inc →
    let now := (s.advance dt).now
    ∃ t, exec (.ageingTimerExpiry dt) s = .next t ∧
      t.TookTriggers inc (s.peers.entries.filterMap fun e =>
        if e.fixed = true ∧ (e.heard.map fun h => decide (500 ≤ since now h)).getD true = true ∧
            (e.state = .live ∨
              e.state = .unruly ∧ (e.excess.map fun w => decide (2000 ≤ since now w.last)).getD true = true) then
          some { cause := .peerLost, origin := none
                 detail := be8 e.addr ++ be8 (e.group.getD 8) ++ be32 ((e.heard.map BitVec.toNat).getD 0) ++
                   be8 ((e.last.map fun v => v.mode.toNat).getD 0) }
        else none)) ∧
  (∀ (dt start : Nat) (c : TxClass) (f : TxFrame) (inc : Incident) (s : State), s.runPhase = .running →
    s.line.tx = .sending c start → s.line.head c = some f → s.line.state = .active → 2 ≤ s.line.trouble →
    s.TakesTriggers inc →
    let isolated (why : Nat) : Trigger :=
      { cause := .lineIsolated, detail := be8 (frameCode f.kind) ++ be8 why, origin := none }
    (s.clock + dt < start + 256 → 10 ≤ f.k + 1 →
      ∃ t, exec (.collision dt) s = .next t ∧ t.TookTriggers inc [isolated 1]) ∧
    (start + 256 ≤ s.clock + dt →
      ∃ t, exec (.lateCollision dt) s = .next t ∧ t.TookTriggers inc [isolated 2])) ∧
  ∀ (dt : Nat) (frame : List Byte) (f : GoodFrame) (s : State), s.runPhase = .running → s.line.tx = .idle →
    s.line.state ≠ .off → classify frame 0 = .good f →
    let notice : List Trigger :=
      if f.kind = .emergencyNotice ∧ s.demand.mode ≠ .emergency then
        [{ cause := .emergencyPeer, origin := none
           detail := be8 f.source ++ be8 f.group ++ be8 (byteAt f.payload 0 / 16) ++ be16 (be16At f.payload 1) }]
      else []
    let clash : List Trigger :=
      if 1 ≤ s.line.clashes ∧ s.line.state ≠ .clashed then
        [{ cause := .addressClash, detail := be8 (frameCode f.kind) ++ be8 f.group ++ [f.seq], origin := none }]
      else []
    let origin : Origin := { addr := f.source, number := be32At f.payload 0 }
    ∃ t, exec (.receiveCompletion dt frame 0) s = .next t ∧
      (∀ inc, s.TakesTriggers inc →
        (f.source = s.address → t.TookTriggers inc (clash ++ notice)) ∧
        (f.source ≠ s.address → f.kind ≠ .incidentMark → t.TookTriggers inc notice) ∧
        (f.source ≠ s.address → f.kind = .incidentMark →
          t.TookTriggers inc [{ cause := .peerMark, detail := [], origin := some origin }])) ∧
      (f.source ≠ s.address → f.kind = .incidentMark → s.recorder.state = .idle → s.recorder.capture = none →
        (s.triggerLine .peerMark).enable = true →
        (s.triggerLine .peerMark).importance = .high ∨ s.recorder.pendingQueue.length < s.config.gate →
        s.store.exhausted = false → s.powerFail = false →
        t.line.queue = s.line.queue ∧ t.recorder.state = .capturing ∧
          ∃ inc, t.recorder.capture = some inc ∧ inc.number = s.store.nextNumber ∧
            inc.causes = [{ cause := .peerMark, offset := 0, detail := [], origin := some origin }])

/-- Which channels a record is offered to (R135): the pressure set of a scan completion to those of PRESSURE_TRACE, the speed
set of a speed set arrival to those of SPEED_TRACE, the blend record of a control cycle to those of BLEND_TRACE, each with the
values of R135 as the event leaves them, and an event record to those of EVENT_LOG. A good frame of another station is copied
to the PEER_MIRROR channels whose mirror set has its source, and a sent frame to those with bit 31; clash frames and collided
attempts are not copied (R66). The copy of a sent probe bears ISOLATED (log entry 46). A channel that is not RUNNING is offered
the record too (log entry 35); what an offer does is a statement of its own. -/
def Obligations.RecordsAreOfferedByKind : Prop :=
  (∀ (dt : Nat) (s : State), s.runPhase = .running → s.powerFail = false →
    let now := (s.advance dt).now
    (s.acq.scanDue ≤ s.clock + dt →
      ∃ t, exec (.scanCompletion dt) s = .next t ∧
        let p := t.acq.latestChans
        let bit (v : Option Nat) (n : Nat) : Nat := if v.isSome then n else 0
        t.recorder.OfferedTo s.recorder (fun ch => ch.kind = .pressureTrace)
          { time := now, lead := [], body := []
            tag := BitVec.ofNat 8 (bit p.bp.value 8 + bit p.bc.value 4 + bit p.ind.value 2 + bit p.mr.value 1)
            vals := [p.bp.value.getD 0, p.bc.value.getD 0, p.ind.value.getD 0, p.mr.value.getD 0]
            valid := [p.bp.value.isSome, p.bc.value.isSome, p.ind.value.isSome, p.mr.value.isSome] }) ∧
    (∀ f₁ f₂ f₃ : Bool, s.acq.windowDue ≤ s.clock + dt →
      ∃ t, exec (.speedWindowExpiry dt f₁ f₂ f₃) s = .next t ∧
        let a := t.acq.axles
        let m := t.slide.machines
        let bit (b : Bool) (n : Nat) : Nat := if b then n else 0
        let speed (x : AxleSpeed) : Nat := if x.valid then x.v else 0
        t.recorder.OfferedTo s.recorder (fun ch => ch.kind = .speedTrace)
          { time := now, body := []
            tag := BitVec.ofNat 8 (bit a.one.valid 4 + bit a.two.valid 2 + bit a.three.valid 1 +
              bit t.slide.speedAssisted 8)
            lead := be16 (axleCode m.one.state * 64 + axleCode m.two.state * 8 + axleCode m.three.state)
            vals := [t.slide.vref, speed a.one, speed a.two, speed a.three]
            valid := [a.one.valid, a.two.valid, a.three.valid] }) ∧
    (s.demand.cycleDue ≤ s.clock + dt →
      ∃ t, exec (.controlCycle dt) s = .next t ∧
        let o := t.outputs
        let r := t.sharing
        t.recorder.OfferedTo s.recorder (fun ch => ch.kind = .blendTrace)
          { time := now, lead := [], vals := [], valid := []
            tag := BitVec.ofNat 8 (modeCode t.demand.mode)
            body := be16 t.demand.d ++ be16 r.sd ++ be16 r.ce ++ be16 r.et ++ be16 o.ecmd ++ be16 o.status.eact ++
              be16 r.ft ++ be16 o.fcmd ++ be16 r.u ++ be16 o.bcOut }) ∧
    (∀ (frame : List Byte) (f : GoodFrame), s.line.tx = .idle → s.line.state ≠ .off → classify frame 0 = .good f →
      ∃ t, exec (.receiveCompletion dt frame 0) s = .next t ∧
        let n := frame.length - 2
        t.recorder.OfferedTo s.recorder
          (fun ch => f.source ≠ s.address ∧ ch.kind = .peerMirror ∧ ch.mirror.getLsbD f.source = true)
          { time := now, tag := 0, lead := [], vals := [], valid := []
            body := be8 n ++ frame.drop n ++ be8 (lineCode s.line.state) ++ frame.take n }) ∧
    ∀ (start : Nat) (c : TxClass) (f : TxFrame), s.line.tx = .sending c start → s.line.head c = some f →
      (f.payload.length = payloadLength f.kind → start + (f.payload.length + 8) * 32 ≤ s.clock + dt →
        ∃ t, exec (.frameSent dt) s = .next t ∧
          let frame := frameBody f.kind s.address s.config.group (f.seq.getD 0) f.payload
          t.recorder.OfferedTo s.recorder (fun ch => ch.kind = .peerMirror ∧ ch.mirror.getLsbD 31 = true)
            { time := now, tag := 1, lead := [], vals := [], valid := []
              body := be8 frame.length ++ be16 (crc16 frame).toNat ++ be8 (lineCode s.line.state) ++ frame }) ∧
      ∀ e ∈ [Instr.collision dt, Instr.lateCollision dt], ∃ t, exec e s = .next t ∧
        ∀ rec, t.recorder.OfferedTo s.recorder (fun _ => False) rec) ∧
  ∀ (source : EventSource) (detail : List Byte) (c : Nat) (ch : Channel) (s : State), c < 8 →
    s.recorder.chans[c]? = some ch → (∀ x ∈ s.recorder.chans, x.lost ≠ 65534) →
    { s.logEvent source detail with recorder := s.recorder } = s ∧
    (ch.kind ≠ .eventLog → (s.logEvent source detail).recorder.chans[c]? = some ch) ∧
    (ch.kind = .eventLog → (s.logEvent source detail).recorder.chans[c]? =
      (s.recorder.offer c
        { time := s.now, tag := 0, lead := [], vals := [], valid := []
          body := be8 (eventSourceCode source) ++ be8 detail.length ++ detail }).1.chans[c]?)

/-- The seven peaks (R144): a speed set arrival offers each axle's q, a pressure set arrival BP and BC where they carry a
value, a control cycle U and Ecmd − Eact. An absent peak takes the value with its time, a present one only a value strictly
beyond it, in every state of the Recorder. Where the event has opened an incident, its triggers come before its set's values,
which start the new peaks (log entries 11 and 12). -/
def Obligations.PeaksKeepExtremeValues : Prop :=
  ∀ (dt : Nat) (s : State), s.runPhase = .running → s.powerFail = false →
    let now := (s.advance dt).now
    (s.acq.scanDue ≤ s.clock + dt →
      ∃ t, exec (.scanCompletion dt) s = .next t ∧
        let p := t.peaksFound s
        let n := t.recorder.peaks
        let chans := t.acq.latestChans
        n = { p with bp := n.bp, bc := n.bc } ∧
        (chans.bp.value = none → n.bp = p.bp) ∧ (chans.bc.value = none → n.bc = p.bc) ∧
        (∀ v, chans.bp.value = some v →
          (p.bp = none → n.bp = some ⟨v, now⟩) ∧
          ∀ k, p.bp = some k → (v < k.value → n.bp = some ⟨v, now⟩) ∧ (k.value ≤ v → n.bp = some k)) ∧
        (∀ v : Nat, chans.bc.value = some v → PeakAfter p.bc n.bc v now)) ∧
    (∀ f₁ f₂ f₃ : Bool, s.acq.windowDue ≤ s.clock + dt →
      ∃ t, exec (.speedWindowExpiry dt f₁ f₂ f₃) s = .next t ∧
        let p := t.peaksFound s
        let n := t.recorder.peaks
        let m := t.slide.machines
        n = { p with q1 := n.q1, q2 := n.q2, q3 := n.q3 } ∧
        PeakAfter p.q1 n.q1 m.one.lastQ now ∧ PeakAfter p.q2 n.q2 m.two.lastQ now ∧
        PeakAfter p.q3 n.q3 m.three.lastQ now) ∧
    (s.demand.cycleDue ≤ s.clock + dt →
      ∃ t, exec (.controlCycle dt) s = .next t ∧
        let p := t.peaksFound s
        let n := t.recorder.peaks
        n = { p with u := n.u, diff := n.diff } ∧
        PeakAfter p.u n.u t.sharing.u now ∧
        PeakAfter p.diff n.diff ((t.outputs.ecmd : Int) - t.outputs.status.eact) now)

/-- The window timer's expiry closes the incident in capture with TRUNCATED clear (R156), and a power-fail warning that
becomes standing closes it with TRUNCATED set (R157): by the first row of R158 that holds, dropped, admitted without traces
or frozen. A freeze empties every RUNNING channel into its frozen list, returns its empty granted blocks to the spare pool and
runs the capped round (R141, R142); the other two rows leave the pool and every holding. Without an incident in capture the
warning changes its own indication alone. -/
def Obligations.IncidentClosesByPendingQueueAndPool : Prop :=
  ∀ (dt : Nat) (s : State), s.runPhase = .running →
    let entry (inc : Incident) (truncated absent : Bool) (frozen : List FrozenList) : PendingEntry :=
      { incident := { inc with truncated := truncated }, closeTime := (s.advance dt).now, tracesAbsent := absent,
        retention := (inc.causes.head?.map fun e =>
          e.cause == .emergencyLocal || e.cause == .emergencyPeer || e.cause == .ventTimeout).getD false
        frozen := frozen }
    let running := s.recorder.chans.zipIdx.filter fun p => p.1.state == .running
    let lists : List FrozenList := running.map fun p =>
      { channel := p.2, kind := p.1.kind, blocks := p.1.ring ++ p.1.current.toList }
    let emptied : Recorder := { s.recorder with chans := s.recorder.chans.map fun ch =>
      if ch.state = .running then { ch with ring := [], current := none, empty := [], sinceKey := 0, prev := none }
      else ch }
    let closed (inc : Incident) (truncated : Bool) (t : State) : Prop :=
      t.recorder.state = .idle ∧ t.recorder.capture = none ∧
      (4 ≤ s.recorder.pendingQueue.length →
        t.recorder.pendingQueue = s.recorder.pendingQueue ∧ t.recorder.HoldsAs s.recorder ∧
          t.counters.incidentsLost = countedOnce s.counters.incidentsLost) ∧
      (s.recorder.pendingQueue.length < 4 → s.recorder.spare.length < running.length →
        t.recorder.pendingQueue = s.recorder.pendingQueue ++ [entry inc truncated true []] ∧
          t.recorder.HoldsAs s.recorder) ∧
      (s.recorder.pendingQueue.length < 4 → running.length ≤ s.recorder.spare.length →
        t.recorder.pendingQueue = s.recorder.pendingQueue ++ [entry inc truncated false lists] ∧
          Recorder.RoundAfter emptied (running.flatMap fun p => p.1.empty) true t.recorder)
    (∀ inc, s.recorder.capture = some inc → inc.windowEnd * 1000 ≤ s.clock + dt →
      (s.store.chooseTarget (s.store.lastWritten.getD 0)).isSome →
      ∃ t, exec (.windowTimerExpiry dt) s = .next t ∧ t.SameButMessages (s.advance dt) ∧ t.line = s.line ∧
        closed inc false t) ∧
    (∀ inc, s.recorder.capture = some inc →
      ∃ t, exec (.powerFailWarningStanding dt) s = .next t ∧ t.store = s.store ∧ t.line = s.line ∧
        t.SameButMessages { s.advance dt with powerFail := true } ∧ closed inc true t) ∧
    (s.recorder.capture = none →
      exec (.powerFailWarningStanding dt) s = .next { s.advance dt with powerFail := true })

/-- When the power-fail warning ceases, the waiting erase of a store held in IDLE is asked for, or the start test takes the
oldest pending entry (R165, R169). -/
def Obligations.WarningCeasesResumesStore : Prop :=
  ∀ (dt : Nat) (s : State), s.runPhase = .running →
    let u : State := { s.advance dt with powerFail := false }
    (s.store.phase ≠ .idle → exec (.powerFailWarningCeases dt) s = .next u) ∧
    (∀ job, s.store.phase = .idle → s.store.job = some job →
      exec (.powerFailWarningCeases dt) s = .next { u with store := { s.store with
        phase := .erasing
        requests := s.store.requests ++
          [if job.cleanup then .eraseCleanup job.target else .eraseTarget job.target] } }) ∧
    (s.store.phase = .idle → s.store.job = none → s.recorder.pendingQueue = [] →
      exec (.powerFailWarningCeases dt) s = .next u) ∧
    (∀ slot, s.store.phase = .idle → s.store.job = none → s.recorder.pendingQueue ≠ [] → s.store.scan = none →
      s.store.chooseTarget (s.store.lastWritten.getD 0) = some slot →
      exec (.powerFailWarningCeases dt) s = .next { u with store := { s.store with
        phase := .erasing
        job := some { target := slot, attempt := 1, position := 0, cleanup := false, retained := false }
        requests := s.store.requests ++ [.eraseTarget slot] } })

/-- CLEAR_CHANNEL is answered by the first row of R143 that holds; taken, it makes the channel's ring and current block
empty granted blocks of the same channel, in ascending order, so that the lowest of them is the next one opened. -/
def Obligations.ClearChannelByFirstRowThatHolds : Prop :=
  ∀ (dt : Nat) (b : Byte) (s : State), s.runPhase = .running → s.service.inProgress = none →
    let u := s.arrival dt
    (7 < b.toNat → exec (.clearChannel dt [b]) s = .next (u.answers 9 .badRequest [])) ∧
    ∀ ch, b.toNat ≤ 7 → s.recorder.chans[b.toNat]? = some ch →
      (ch.state = .off → exec (.clearChannel dt [b]) s = .next (u.answers 9 .badRequest [])) ∧
      (ch.state ≠ .off → s.slide.standstill = false →
        exec (.clearChannel dt [b]) s = .next (u.answers 9 .notStandstill [])) ∧
      (ch.state ≠ .off → s.slide.standstill = true → s.recorder.state = .capturing →
        exec (.clearChannel dt [b]) s = .next (u.answers 9 .busy [])) ∧
      (ch.state ≠ .off → s.slide.standstill = true → s.recorder.state ≠ .capturing →
        ∃ empty : List Nat, empty.Perm (ch.ring ++ ch.current.toList ++ ch.empty) ∧
          (ch.empty.Pairwise (· ≤ ·) → empty.Pairwise (· ≤ ·)) ∧
          exec (.clearChannel dt [b]) s = .next (State.answers
            { u with
              recorder := { s.recorder with
                chans := s.recorder.chans.set b.toNat
                  { ch with ring := [], current := none, empty := empty, sinceKey := 0, prev := none, lost := 0 } } }
            9 .ok []))

/-- How a channel takes a record (R134, R136): not at all in OFF, as a lost record in SUSPENDED, and otherwise as a key
record or by its difference (R138, R139), in the current block when the form has room there, else as a key record in the
block that R140 opens: the lowest empty granted block, or the oldest block of the holding. The record's bytes stand at the
block's next place and the block's header tells of them (R137); no other byte changes, of the block or outside it. That the
empty granted blocks are held in ascending order is an invariant of its own. The model's choices: a block that is opened keeps
its other bytes (log entry 36), and a channel in SUSPENDED is offered records too and counts them as lost (log entry 35). -/
def Obligations.RecordEntersCurrentOrNewBlock : Prop :=
  ∀ (r : Recorder) (c : Nat) (ch : Channel) (rec : TraceRecord), r.chans[c]? = some ch →
    Memory.wf 0 r.blocks = true → (keyBytes rec).length ≤ 496 →
    let t := (r.offer c rec).1
    let gap := since rec.time ch.lastTime
    let timed := ch.kind = .pressureTrace ∨ ch.kind = .speedTrace
    let near (v p : Nat) : Prop := (v : Int) - p ≤ 127 ∧ (p : Int) - v ≤ 128
    let key := ch.current = none ∨ 255 < gap ∨ timed ∧ (32 ≤ ch.sinceKey ∨ ch.prev = none ∨
      ∃ vals valid, ch.prev = some (vals, valid) ∧
        (valid ≠ rec.valid ∨ ∃ x ∈ List.zip rec.vals vals, ¬near x.1 x.2))
    let written (b used fill sinceKey : Nat) (bytes : List Byte) : Prop :=
      (∃ n, t.chans = r.chans.set c n ∧ n.current = some b ∧ n.used = used + bytes.length ∧ n.fill = fill + 1 ∧
        n.sinceKey = sinceKey ∧ n.lastTime = rec.time ∧ n.prev = some (rec.vals, rec.valid) ∧
        ∀ i, i < 16 → Memory.read 0 t.blocks (512 * b + i) =
          (be8 c ++ be8 (kindCode ch.kind) ++ be16 0 ++ be32 n.openSeq.toNat ++ be32 n.openTime.toNat ++ be16 n.fill ++
            be16 n.used).getD i 0) ∧
      (∀ i, i < bytes.length → Memory.read 0 t.blocks (512 * b + 16 + used + i) = bytes.getD i 0) ∧
      ∀ a, a < 512 * b ∨ 512 * b + 16 ≤ a ∧ a < 512 * b + 16 + used ∨ 512 * b + 16 + used + bytes.length ≤ a →
        Memory.read 0 t.blocks a = Memory.read 0 r.blocks a
    (ch.enable = false → r.offer c rec = (r, false)) ∧
    (ch.enable = true → ch.holding = [] →
      r.offer c rec = if ch.lost < 65535 then
          ({ r with chans := r.chans.set c { ch with lost := ch.lost + 1 } }, ch.lost + 1 == 65535)
        else (r, false)) ∧
    (ch.enable = true → ∀ b, ch.current = some b →
      (key → ch.used + (keyBytes rec).length ≤ 496 → written b ch.used ch.fill 1 (keyBytes rec)) ∧
      (¬key → ch.used + (otherBytes ch rec).length ≤ 496 →
        written b ch.used ch.fill (ch.sinceKey + 1) (otherBytes ch rec))) ∧
    (ch.enable = true →
      ch.current = none ∨ (key ∧ 496 < ch.used + (keyBytes rec).length) ∨
        (¬key ∧ 496 < ch.used + (otherBytes ch rec).length) →
      (∀ b ∈ ch.empty, ch.empty.Pairwise (· < ·) → (∀ x ∈ ch.empty, b ≤ x) →
        written b 0 0 1 (keyBytes rec) ∧
          ∃ n, t.chans = r.chans.set c n ∧ n.ring = ch.ring ++ ch.current.toList ∧ n.empty = ch.empty.erase b ∧
            n.openTime = rec.time ∧ n.openSeq = ch.nextSeq ∧ n.nextSeq = ch.nextSeq + 1) ∧
      (∀ b rest, ch.empty = [] → ch.ring ++ ch.current.toList = b :: rest →
        written b 0 0 1 (keyBytes rec) ∧
          ∃ n, t.chans = r.chans.set c n ∧ n.ring = rest ∧ n.empty = [] ∧
            n.openTime = rec.time ∧ n.openSeq = ch.nextSeq ∧ n.nextSeq = ch.nextSeq + 1))

/-- A round of the spare arbiter (R141): the spare blocks are granted from the lowest on, each to the first eligible channel
in cyclic order after the one last served, an enabled channel whose holding is below its allocation and that a capped round
has granted fewer than two blocks; the round ends when the pool is empty or no channel is eligible. Each granted block joins
its channel's empty granted blocks, in ascending order. -/
def Obligations.SpareArbiterServesCyclically : Prop :=
  ∀ (r : Recorder) (capped : Bool), r.chans.length = 8 → r.lastServed < 8 →
    let t := r.round capped
    ∃ order : List Nat,
      let before (k : Nat) : List Nat := order.take k
      let last (k : Nat) : Nat := (before k).getLast?.getD r.lastServed
      let eligible (k c : Nat) : Prop := ∃ ch, r.chans[c]? = some ch ∧ ch.enable = true ∧
        ch.holding.length + (before k).count c < ch.alloc ∧ (capped = true → (before k).count c < 2)
      order.length ≤ r.spare.length ∧
      (∀ k c, order[k]? = some c → c < 8 ∧ eligible k c ∧
        ∀ i, i < (c + 7 - last k) % 8 → ¬eligible k ((last k + 1 + i) % 8)) ∧
      (order.length < r.spare.length → ∀ c, c < 8 → ¬eligible order.length c) ∧
      t = { r with spare := r.spare.drop order.length, lastServed := last order.length, chans := t.chans } ∧
      t.chans.length = 8 ∧
      ∀ c ch, r.chans[c]? = some ch → ∃ empty : List Nat,
        t.chans[c]? = some { ch with empty := empty } ∧
        empty.Perm (ch.empty ++ ((r.spare.zip order).filter fun p => p.2 == c).map Prod.fst) ∧
        (ch.empty.Pairwise (· ≤ ·) → empty.Pairwise (· ≤ ·))

/-- Laws 1 and 2: every step keeps each of the 96 blocks in exactly one place and each holding within its allocation. While
law 1 holds, the spare pool and every list of empty granted blocks stay in strictly ascending order (R140, R141). The
recorder's block memory and the flash keep their canonical form. -/
def Obligations.BlocksStayPartitionedAndBounded : Prop :=
  (∀ s t : State, s.recorder.Partition → step s = .next t → t.recorder.Partition) ∧
  (∀ s t : State, s.recorder.HoldingsBounded → step s = .next t → t.recorder.HoldingsBounded) ∧
  (∀ s t : State, s.recorder.Partition → s.recorder.Ascending → step s = .next t → t.recorder.Ascending) ∧
  ∀ s t : State, s.MemoriesCanonical → step s = .next t → t.MemoriesCanonical

/-- After every step an incident is in capture exactly in CAPTURING, at most four incidents are pending (R159), and the
slots are read by the scan at reset in SCANNING alone, one at a time (R146, R164). Outside the reset sequence and the scan
no command lowers the next incident number (law 12, R150). -/
def Obligations.IncidentStateStaysSound : Prop :=
  (∀ s t : State, s.RecorderSound → step s = .next t → t.RecorderSound) ∧
  ∀ (c : Instr) (s t : State), s.RecorderSound → s.recorder.state ≠ .scanning → resetCommand c = false →
    exec c s = .next t → s.store.nextNumber ≤ t.store.nextNumber

/-- Every counter stays within 0..65535 over every step (section 0.5.3): a count adds 1 below 65535, the one that reaches it
hands an event record that names the counter, and at 65535 nothing changes (R79, R128, R160, R182). CLEAR_COUNTERS sets all of
them, the lost-record counts and the missed count of every entry to 0 at once (R182). -/
def Obligations.CountersSaturateAndClear : Prop :=
  (∀ s t : State, s.CountersSound → step s = .next t → t.CountersSound) ∧
  (∀ (s : State) (i : CounterId),
    let counted : State := { s with counters := (s.bump i).counters }
    (65535 ≤ s.counters.get i → s.bump i = s) ∧
    (s.counters.get i < 65535 → (s.bump i).counters.get i = s.counters.get i + 1 ∧
      ∀ j, j ≠ i → (s.bump i).counters.get j = s.counters.get j) ∧
    (s.counters.get i < 65534 → s.bump i = counted) ∧
    (s.counters.get i = 65534 → s.bump i = counted.logEvent .saturation (be8 (counterCode i)))) ∧
  ∀ (dt : Nat) (s : State), s.runPhase = .running → s.service.inProgress = none →
    exec (.clearCounters dt []) s = .next (State.answers
      { s.arrival dt with
        counters := ⟨0, 0, 0, 0, 0, 0, 0, 0, 0, 0, 0, 0, 0, 0, 0, 0, 0, 0, 0, 0, 0, 0, 0, 0⟩
        recorder := { s.recorder with chans := s.recorder.chans.map fun ch => { ch with lost := 0 } }
        peers := { s.peers with entries := s.peers.entries.map fun e => { e with missed := 0 } } } 7 .ok [])

/-! ### The Store Engine -/

/-- The end of a scan read sets the slot's line and asks for the next slot; after slot 63 the scan ends with the next number
above every number found, at most 48 lines retained, and the Recorder in IDLE (R164). -/
def Obligations.ScanReadBuildsDirectory : Prop :=
  ∀ (dt slot : Nat) (ok : Bool) (s : State), s.runPhase = .running → s.store.inFlight = some (.scanRead slot) →
    let line := if ok then scanLine s.flash slot else .empty
    (slot < 63 → exec (.scanReadCompletion dt ok) s = .next { s.advance dt with store := { s.store with
      lines := s.store.lines.set (slot - 1) line, inFlight := none, scan := some (slot + 1),
      requests := s.store.requests ++ [.scanRead (slot + 1)] } }) ∧
    (63 ≤ slot →
      ∃ t, exec (.scanReadCompletion dt ok) s = .next t ∧ t.recorder.state = .idle ∧ t.store.scan = none ∧
        t.SameButMessages (s.advance dt) ∧ t.line = s.line ∧
        t.store.inFlight = none ∧
        t.store.lines.map DirLine.number = (s.store.lines.set (slot - 1) line).map DirLine.number ∧
        t.store.retained = (t.store.lines.filter DirLine.isRetained).length ∧ t.store.retained ≤ 48 ∧
        ((∀ l ∈ t.store.lines, l.number = none) →
          t.store.nextNumber = 1 ∧ t.store.lastWritten = none ∧ t.store.exhausted = false) ∧
        ((∃ l ∈ t.store.lines, ∃ n, l.number = some n ∧ 4294967295 ≤ n) →
          t.store.nextNumber = 4294967295 ∧ t.store.exhausted = true) ∧
        (∀ m, (∃ l ∈ t.store.lines, l.number = some m) → (∀ l ∈ t.store.lines, ∀ n, l.number = some n → n ≤ m) →
          m < 4294967295 →
          t.store.nextNumber = m + 1 ∧ t.store.exhausted = false ∧
            ∃ k, t.store.lastWritten = some k ∧ (t.store.lineOf k).number = some m))

/-- The flash interface, when free, takes the operation that asked first; a target's line becomes EMPTY as its erase is
issued (R166, R170). An erase that would begin a store waits while the power-fail warning stands (R169), and an erase
waits for a waiting read of its slot (R170, log entry 19). -/
def Obligations.FlashGrantServesFirstAsked : Prop :=
  ∀ (dt : Nat) (op : FlashOp) (rest : List FlashOp) (s : State), s.store.requests = op :: rest →
    (s.store.inFlight ≠ none → exec (.flashInterfaceGrant dt) s = .next (s.advance dt)) ∧
    (s.store.inFlight = none →
      (s.powerFail = false ∨ ∀ k, op ≠ .eraseTarget k ∧ op ≠ .eraseCleanup k) →
      (∀ k, op = .eraseTarget k ∨ op = .eraseCleanup k ∨ op = .eraseAll k →
        ∀ o n, FlashOp.readIncident k o n ∉ rest) →
      exec (.flashInterfaceGrant dt) s = .next { s.advance dt with store := { s.store with
        inFlight := some op, requests := rest
        lines := match op with
          | .eraseTarget k => s.store.lines.set (k - 1) .empty
          | _ => s.store.lines } }) ∧
    (∀ k, s.store.inFlight = none → s.powerFail = true → op = .eraseTarget k → rest = [] →
      exec (.flashInterfaceGrant dt) s = .next (s.advance dt)) ∧
    ∀ k o n, s.store.inFlight = none → op = .eraseTarget k → rest = [.readIncident k o n] →
      exec (.flashInterfaceGrant dt) s = .next { s.advance dt with store := { s.store with
        inFlight := some (.readIncident k o n), requests := [.eraseTarget k] } }

/-- The store of the oldest pending entry: a good target erase leads to the first body program, a good body program to the
next one or, after the last, to the header program with the retention decision of R167, and a good header program completes
the store: the entry's frozen blocks return to the spare pool and the uncapped round runs (R141). -/
def Obligations.StoreWritesBodyThenHeader : Prop :=
  ∀ (dt : Nat) (job : StoreJob) (e : PendingEntry) (rest : List PendingEntry) (s : State), s.runPhase = .running →
    s.store.job = some job → s.recorder.pendingQueue = e :: rest →
    let body := recordBody e s.recorder.blocks
    let retained := e.retention && decide (s.store.retained < 48)
    let refused := e.retention && !decide (s.store.retained < 48)
    (s.store.inFlight = some (.eraseTarget job.target) →
      exec (.slotEraseCompletion dt .ok) s = .next
        { s.advance dt with
          flash := s.flash.clear (65536 * job.target) 65536
          store := { s.store with
            inFlight := none, phase := .writing, job := some { job with position := 0 },
            requests := s.store.requests ++
              [.programBody job.target 0 (body.take (max 1 Config.programBytes))] } }) ∧
    (∀ p bs, s.store.inFlight = some (.programBody job.target p bs) →
      (job.position + bs.length < body.length →
        exec (.bodyProgramCompletion dt .ok) s = .next
          { s.advance dt with
            flash := overlay s.flash (65536 * job.target + 24 + p) bs.length bs
            store := { s.store with
              inFlight := none, phase := .writing, job := some { job with position := job.position + bs.length },
              requests := s.store.requests ++
                [.programBody job.target (job.position + bs.length)
                  ((body.drop (job.position + bs.length)).take (max 1 Config.programBytes))] } }) ∧
      (body.length ≤ job.position + bs.length →
        exec (.bodyProgramCompletion dt .ok) s = .next
          { s.advance dt with
            flash := overlay s.flash (65536 * job.target + 24 + p) bs.length bs
            store := { s.store with
              inFlight := none, phase := .committing,
              job := some { job with position := job.position + bs.length, retained := retained },
              requests := s.store.requests ++
                [.programHeader job.target (recordHeader e retained refused body)] } })) ∧
    (∀ bs, s.store.inFlight = some (.programHeader job.target bs) → rest = [] →
      ∃ t, exec (.headerProgramCompletion dt .ok) s = .next t ∧
        t.SameButMessages { s.advance dt with flash := overlay s.flash (65536 * job.target) bs.length bs } ∧
        t.line = s.line ∧ t.recorder.pendingQueue = [] ∧
        s.recorder.RoundAfter (e.frozen.flatMap FrozenList.blocks) false t.recorder ∧
        t.store = { s.store with
          inFlight := none, phase := .idle, job := none, lastWritten := some job.target,
          retained := s.store.retained + (if job.retained then 1 else 0),
          lines := s.store.lines.set (job.target - 1)
            (.valid e.incident.number job.retained (firstCause e.incident) body.length) })

/-- A failure of the erase or of a body program in the target slot makes its line BAD; the first attempt goes on with a new
target, while the second, or a first one for which no slot qualifies, drops the entry. A failed header program makes the line
BAD and leads to the cleanup erase; its success leads on as for the other phases, and its failure drops the entry (R168). A
drop counts an incident lost, returns the frozen blocks to the spare pool and runs the uncapped round. While the power-fail
warning stands, the new erase is not asked for and the store waits in IDLE (R169); a failure that needs none drops at once
(log entry 20). A failed cleanup after a RETAINED header marks the slot as one that may hold a retained record (log entry 50).
The bytes that a failed operation leaves come with the command (log entry 22). -/
def Obligations.FlashFailureMakesLineBad : Prop :=
  ∀ (dt : Nat) (left : List Byte) (job : StoreJob) (e : PendingEntry) (s : State), s.runPhase = .running →
    s.store.job = some job → s.recorder.pendingQueue = [e] →
    let bad := s.store.lines.set (job.target - 1) DirLine.bad
    let erase (job' : StoreJob) (op : FlashOp) (lines : List DirLine) (flash : Memory) : State :=
      { s.advance dt with
        flash := flash
        store := { s.store with
          inFlight := none, lines := lines, job := some job'
          phase := if s.powerFail then .idle else .erasing
          requests := if s.powerFail then s.store.requests else s.store.requests ++ [op] } }
    let dropped (c : Instr) (lines : List DirLine) (hold : List Nat) (flash : Memory) : Prop :=
      ∃ t, exec c s = .next t ∧ t.SameButMessages { s.advance dt with flash := flash } ∧ t.line = s.line ∧
        t.recorder.pendingQueue = [] ∧ t.counters.incidentsLost = countedOnce s.counters.incidentsLost ∧
        s.recorder.RoundAfter (e.frozen.flatMap FrozenList.blocks) false t.recorder ∧
        t.store = { s.store with inFlight := none, lines := lines, mayHold := hold, phase := .idle, job := none }
    let goesOn (c : Instr) (lines : List DirLine) (flash : Memory) : Prop :=
      let next := Store.chooseTarget { s.store with lines := lines } job.target
      (∀ slot, job.attempt = 1 → next = some slot → exec c s = .next
        (erase { target := slot, attempt := 2, position := 0, cleanup := false, retained := false } (.eraseTarget slot)
          lines flash)) ∧
      (job.attempt ≠ 1 ∨ next = none → dropped c lines s.store.mayHold flash)
    (s.store.inFlight = some (.eraseTarget job.target) →
      goesOn (.slotEraseCompletion dt (.failed left)) bad (overlay s.flash (65536 * job.target) 65536 left)) ∧
    (∀ p bs, s.store.inFlight = some (.programBody job.target p bs) →
      goesOn (.bodyProgramCompletion dt (.failed left)) bad
        (overlay s.flash (65536 * job.target + 24 + p) bs.length left)) ∧
    (∀ bs, s.store.inFlight = some (.programHeader job.target bs) →
      exec (.headerProgramCompletion dt (.failed left)) s = .next
        (erase { job with cleanup := true } (.eraseCleanup job.target) bad
          (overlay s.flash (65536 * job.target) bs.length left))) ∧
    (s.store.inFlight = some (.eraseCleanup job.target) →
      goesOn (.slotEraseCompletion dt .ok) s.store.lines (s.flash.clear (65536 * job.target) 65536) ∧
      dropped (.slotEraseCompletion dt (.failed left)) s.store.lines
        (if job.retained then s.store.mayHold ++ [job.target] else s.store.mayHold) (overlay s.flash (65536 * job.target) 65536 left))

/-- ERASE_INCIDENTS empties the directory and keeps the next number (R171, R184); each erase that follows leaves its slot's
line EMPTY, or BAD after a failure, with the retained count raised for a line that was retained (the bytes that a failed
erase leaves come with the command: log entry 22). A slot whose BAD line may still hold a retained record is noted with the
VALID lines of R171, so that R163's count holds after its second failure too; that R171 allows it, and that the count may
pass 48 by it, is the model's reading (log entry 50). After slot 63 the engine enters IDLE and applies the start test (R165):
it takes a slot for the oldest pending entry, or drops every pending entry when none qualifies (R168). -/
def Obligations.EraseIncidentsEmptiesDirectory : Prop :=
  (∀ (dt : Nat) (s : State), s.runPhase = .running → s.service.inProgress = none →
    let u := s.arrival dt
    let rest := s.slide.standstill = true ∧ s.demand.mode = .released
    let busy := s.store.scan ≠ none ∨ s.store.phase ≠ .idle ∨ s.store.job ≠ none ∨ s.recorder.pendingQueue ≠ [] ∨
      s.powerFail = true
    (¬rest → exec (.eraseIncidents dt []) s = .next (u.answers 10 .notStandstill [])) ∧
    (rest → busy → exec (.eraseIncidents dt []) s = .next (u.answers 10 .busy [])) ∧
    (rest → ¬busy → exec (.eraseIncidents dt []) s = .next (State.answers
      { u with store := { s.store with
          noted := (List.range' 1 63).filter fun k => (s.store.lineOf k).isRetained || s.store.mayHold.contains k
          mayHold := []
          lines := List.replicate 63 .empty, retained := 0, lastWritten := none, phase := .erasingAll,
          eraseNext := some 1, requests := s.store.requests ++ [.eraseAll 1] } } 10 .ok []))) ∧
  ∀ (dt k : Nat) (r : FlashResult) (s : State), s.runPhase = .running → s.store.inFlight = some (.eraseAll k) →
    let flash : Memory := match r with
      | .ok => s.flash.clear (65536 * k) 65536
      | .failed left => overlay s.flash (65536 * k) 65536 left
    let st : Store := { s.store with
      inFlight := none
      lines := if r = .ok then s.store.lines else s.store.lines.set (k - 1) .bad
      retained := s.store.retained + (if r ≠ .ok ∧ k ∈ s.store.noted then 1 else 0)
      mayHold := if r ≠ .ok ∧ k ∈ s.store.noted then s.store.mayHold ++ [k] else s.store.mayHold }
    let ended : Store := { st with phase := .idle, eraseNext := none, noted := [] }
    let starts := s.recorder.pendingQueue ≠ [] ∧ s.store.scan = none ∧ s.store.job = none ∧ s.powerFail = false
    (k < 63 → exec (.eraseAllCompletion dt r) s = .next
      { s.advance dt with
        flash := flash
        store := { st with eraseNext := some (k + 1), requests := s.store.requests ++ [.eraseAll (k + 1)] } }) ∧
    (63 ≤ k → ¬starts →
      exec (.eraseAllCompletion dt r) s = .next { s.advance dt with flash := flash, store := ended }) ∧
    (63 ≤ k → starts → ended.chooseTarget (s.store.lastWritten.getD 0) = none →
      ∃ t, exec (.eraseAllCompletion dt r) s = .next t ∧ t.SameButMessages { s.advance dt with flash := flash } ∧
        t.line = s.line ∧ t.store = ended ∧ t.recorder.pendingQueue = [] ∧
        t.counters.incidentsLost = countedOnce^[s.recorder.pendingQueue.length] s.counters.incidentsLost ∧
        ∀ e, s.recorder.pendingQueue = [e] →
          s.recorder.RoundAfter (e.frozen.flatMap FrozenList.blocks) false t.recorder) ∧
    ∀ slot, 63 ≤ k → starts → ended.chooseTarget (s.store.lastWritten.getD 0) = some slot →
      exec (.eraseAllCompletion dt r) s = .next
        { s.advance dt with
          flash := flash
          store := { ended with
            phase := .erasing
            job := some { target := slot, attempt := 1, position := 0, cleanup := false, retained := false }
            requests := s.store.requests ++ [.eraseTarget slot] } }

/-! ### The Service Port -/

/-- READ_STATUS, READ_PEERS, READ_PEER, LIST_INCIDENTS and READ_COUNTERS are answered OK with the values that stand, in
the order of R178 to R180 and R182, and change nothing else; READ_PEER of an address without an entry is answered NOT_FOUND.
The SD, Fcmd and U of READ_STATUS are those of the most recent control cycle (R178, log entry 44). The widths of the values
without a byte field are log entry 26's, and the next slot that LIST_INCIDENTS names after a full listing is log entry 28's.
READ_INCIDENT finds its number on a VALID line or is answered NOT_FOUND; an offset at or beyond the record's end is answered
BAD_REQUEST; otherwise one read of the named bytes, shortened at the record's end, is asked for, and its end answers OK with the
bytes, or BUSY when the flash reports a failure (R181). -/
def Obligations.ReadCommandsAnswerWithValues : Prop :=
  (∀ (dt : Nat) (s : State), s.runPhase = .running → s.service.inProgress = none →
      let u := s.arrival dt
      (exec (.readStatus dt []) s = .next (u.answers 1 .ok
        (be8 s.address ++ be8 s.config.group ++ be8 (modeCode s.demand.mode) ++ be8 (lineCode s.line.state) ++
          be16 (recorderCode s.recorder.state) ++ be16 (phaseCode s.store.phase) ++ be16 s.slide.vref ++
          be16 s.slide.speedAssisted.toNat ++ be16 s.slide.standstill.toNat ++ be16 s.demand.d ++
          be16 s.outputs.cycle.sd ++ be16 s.outputs.ecmd ++ be16 s.outputs.cycle.fcmd ++ be16 s.outputs.cycle.u ++
          [s.statementFlags] ++
          be16 s.recorder.defaultRecorder.toNat ++ be8 (sourceCode s.source) ++ be16 s.powerFail.toNat ++
          be16 s.recorder.spare.length ++ be16 s.recorder.pendingQueue.length))) ∧
      (exec (.readPeers dt []) s = .next (u.answers 2 .ok
        (s.peers.entries.flatMap fun e =>
          be8 e.addr ++ be16 e.fixed.toNat ++ be8 (peerCode e.state) ++ be8 (e.group.getD 8)))) ∧
      (∀ b : Byte, 1 ≤ b.toNat → b.toNat ≤ 30 →
        (findPeer s.peers.entries b.toNat = none → exec (.readPeer dt [b]) s = .next (u.answers 3 .notFound [])) ∧
        ∀ e, findPeer s.peers.entries b.toNat = some e →
          exec (.readPeer dt [b]) s = .next (u.answers 3 .ok (peerValues e u.now))) ∧
      (∀ b : Byte, 1 ≤ b.toNat → b.toNat ≤ 63 →
        exec (.listIncidents dt [b]) s = .next (u.answers 4 .ok
          (((s.store.validFrom b.toNat).take 32).flatMap listLine ++ be8 (nextListed (s.store.validFrom b.toNat)) ++
            be8 s.store.retained))) ∧
      exec (.readCounters dt []) s = .next (u.answers 6 .ok
        (([.framesSent, .collisions, .excessiveCollisions, .lateCollisions, .runts, .crcErrors, .malformed, .superseded,
            .urgentOverflow, .urgentDiscarded, .addressClashes, .tableRefusals, .duplicates, .staleFrames, .excesses,
            .lateReplies, .frameErrors, .misses, .overshoots] : List CounterId).flatMap (fun i => be16 (s.counters.get i)) ++
          s.recorder.chans.flatMap (fun ch => be16 ch.lost) ++
          ([.ignoredInScanning, .gated, .heldOff, .incidentsLost, .serviceErrors] : List CounterId).flatMap
            fun i => be16 (s.counters.get i)))) ∧
  (∀ (dt : Nat) (p : List Byte) (s : State), s.runPhase = .running → s.service.inProgress = none → p.length = 9 →
    1 ≤ byteAt p 8 → byteAt p 8 ≤ 240 →
    let u := s.arrival dt
    let number := be32At p 0
    let offset := be32At p 4
    ((∀ k ∈ List.range' 1 63, (s.store.lineOf k).number ≠ some number) →
      exec (.readIncident dt p) s = .next (u.answers 5 .notFound [])) ∧
    ∀ k r c size, k ∈ List.range' 1 63 → s.store.lineOf k = .valid number r c size →
      (∀ j ∈ List.range' 1 63, j ≠ k → (s.store.lineOf j).number ≠ some number) →
      (24 + size ≤ offset → exec (.readIncident dt p) s = .next (u.answers 5 .badRequest [])) ∧
      (offset < 24 + size → exec (.readIncident dt p) s = .next
        { u with
          service := { u.service with inProgress := some .readIncident }
          store := { s.store with requests := s.store.requests ++
            [.readIncident k offset (min (byteAt p 8) (24 + size - offset))] } })) ∧
  ∀ (dt k offset n : Nat) (ok : Bool) (s : State), s.runPhase = .running →
    s.store.inFlight = some (.readIncident k offset n) →
    exec (.incidentReadCompletion dt ok) s = .next (State.answers
      { s.advance dt with
        service := { s.service with inProgress := none }, store := { s.store with inFlight := none } } 5
      (if ok then .ok else .busy)
      (if ok then (List.range n).map fun i => Memory.read 0xFF s.flash (65536 * k + offset + i) else []))

/-- A WRITE_CONFIG chunk is decided by R185: refused away from standstill and RELEASED, discarded when it does not continue
the assembly, kept and answered OK without the final indication; a complete image that passes the checks of R175 is handed
to the engine, which erases slot 0 and programs it, and the last program answers OK (R172). A failed erase or program
ends it with BAD_IMAGE and READ_FAILED (R172, R185; the bytes left are log entry 22's), and an image shorter than 256 bytes is
answered BAD_IMAGE with a free source (log entry 27). -/
def Obligations.WriteConfigAssemblesAndProgramsImage : Prop :=
  (∀ (dt : Nat) (head : List Byte) (bytes : List Byte) (s : State), s.runPhase = .running →
    s.service.inProgress = none → head.length = 3 → byteAt head 2 ≤ 1 → 1 ≤ bytes.length → bytes.length ≤ 240 →
    let u := s.arrival dt
    let rest := s.slide.standstill = true ∧ s.demand.mode = .released
    let offset := be16At head 0
    let old := s.service.assembly.getD []
    let fits := s.service.assembly ≠ none ∧ offset = old.length ∧ old.length + bytes.length ≤ 256
    let image := if offset = 0 then bytes else old ++ bytes
    let busy := s.store.scan ≠ none ∨ s.store.phase ≠ .idle ∨ s.store.job ≠ none ∨ s.recorder.pendingQueue ≠ [] ∨
      s.powerFail = true
    let without : State := { u with service := { u.service with assembly := none } }
    (¬rest → exec (.writeConfig dt (head ++ bytes)) s = .next (without.answers 11 .notStandstill [])) ∧
    (rest → offset ≠ 0 → ¬fits → exec (.writeConfig dt (head ++ bytes)) s = .next (without.answers 11 .badRequest [])) ∧
    (rest → (offset = 0 ∨ fits) → byteAt head 2 = 0 →
      exec (.writeConfig dt (head ++ bytes)) s = .next (State.answers
        { u with service := { u.service with assembly := some image } } 11 .ok [])) ∧
    (rest → (offset = 0 ∨ fits) → byteAt head 2 = 1 → image.length < 256 →
      exec (.writeConfig dt (head ++ bytes)) s = .next
        (without.answers 11 .badImage (be8 (sourceCode Config.shortImageSource)))) ∧
    (rest → (offset = 0 ∨ fits) → byteAt head 2 = 1 → 256 ≤ image.length → checkImage image ≠ .loaded →
      exec (.writeConfig dt (head ++ bytes)) s = .next
        (without.answers 11 .badImage (be8 (sourceCode (checkImage image))))) ∧
    (rest → (offset = 0 ∨ fits) → byteAt head 2 = 1 → 256 ≤ image.length → checkImage image = .loaded → busy →
      exec (.writeConfig dt (head ++ bytes)) s = .next (without.answers 11 .busy [])) ∧
    (rest → (offset = 0 ∨ fits) → byteAt head 2 = 1 → 256 ≤ image.length → checkImage image = .loaded → ¬busy →
      exec (.writeConfig dt (head ++ bytes)) s = .next
        { u with
          service := { u.service with assembly := none, inProgress := some .writeConfig }
          store := { s.store with
            phase := .writingConfig, config := some { image := image, position := 0 },
            requests := s.store.requests ++ [.eraseConfig] } })) ∧
  (∀ (dt : Nat) (job : ConfigJob) (s : State), s.runPhase = .running → s.store.inFlight = some .eraseConfig →
    s.store.config = some job → 0 < job.image.length →
    exec (.configEraseCompletion dt .ok) s = .next
      { s.advance dt with
        flash := s.flash.clear 0 65536
        store := { s.store with
          inFlight := none, config := some { job with position := 0 },
          requests := s.store.requests ++ [.programConfig 0 (job.image.take (max 1 Config.programBytes))] } }) ∧
  (∀ (dt : Nat) (left : List Byte) (job : ConfigJob) (c : Instr) (a n : Nat) (s : State), s.runPhase = .running →
    s.store.config = some job → s.recorder.pendingQueue = [] →
    (s.store.inFlight = some .eraseConfig ∧ c = .configEraseCompletion dt (.failed left) ∧ a = 0 ∧ n = 65536 ∨
      ∃ bs, s.store.inFlight = some (.programConfig a bs) ∧ c = .configProgramCompletion dt (.failed left) ∧
        n = bs.length) →
    exec c s = .next (State.answers
      { s.advance dt with
        flash := overlay s.flash a n left
        service := { s.service with inProgress := none }
        store := { s.store with inFlight := none, config := none, phase := .idle } } 11 .badImage [2])) ∧
  ∀ (dt p : Nat) (bs : List Byte) (job : ConfigJob) (s : State), s.runPhase = .running →
    s.store.inFlight = some (.programConfig p bs) → s.store.config = some job →
    (p + bs.length < job.image.length →
      exec (.configProgramCompletion dt .ok) s = .next
        { s.advance dt with
          flash := overlay s.flash p bs.length bs
          store := { s.store with
            inFlight := none, config := some { job with position := p + bs.length },
            requests := s.store.requests ++
              [.programConfig (p + bs.length) ((job.image.drop (p + bs.length)).take (max 1 Config.programBytes))] } }) ∧
    (job.image.length ≤ p + bs.length → s.recorder.pendingQueue = [] →
      exec (.configProgramCompletion dt .ok) s = .next (State.answers
        { s.advance dt with
          flash := overlay s.flash p bs.length bs
          service := { s.service with inProgress := none }
          store := { s.store with inFlight := none, config := none, phase := .idle } } 11 .ok []))

/-- A request that arrives while one is in progress is answered BUSY, and otherwise one with an unknown command, a wrong
payload length or a field outside its range BAD_REQUEST, and nothing else changes (R177). A response that has been sent goes
out in the frame of section 12.4 with its CRC-16 (R188) and leaves the queue, oldest first (R177); the OK of a RESTART in
progress leaves with the reset instead (R186, log entry 33). RESTART is answered NOT_STANDSTILL away from standstill and
RELEASED, and OK otherwise, staying the request in progress; once that OK is the oldest response and has been sent, the part
starts the reset sequence as the reset pin does (R186). -/
def Obligations.RequestsRefusedResponsesSentAndRestart : Prop :=
  (∀ (c : Instr) (dt : Nat) (code : Byte) (p : List Byte) (s : State), s.runPhase = .running →
    requestOf c = some (dt, code, p) →
    (s.service.inProgress ≠ none → exec c s = .next ((s.arrival dt).answers code .busy [])) ∧
    (s.service.inProgress = none → badRequest code p = true →
      exec c s = .next ((s.arrival dt).answers code .badRequest []))) ∧
  (∀ (dt : Nat) (s : State), s.runPhase = .running →
    let restarts (r : Response) : Prop :=
      s.service.inProgress = some .restart ∧ r = { command := 12, code := .ok, values := [] }
    (s.service.responses = [] → exec (.serviceResponseSent dt) s = .next (s.advance dt)) ∧
    ∀ r rest, s.service.responses = r :: rest →
      (restarts r → exec (.serviceResponseSent dt) s = .next (s.advance dt)) ∧
      (¬restarts r → exec (.serviceResponseSent dt) s = .next
        { s.advance dt with
          service := { s.service with responses := rest }
          serviceOut := [0x7E#8] ++ withCrc16
            ([0x80#8] ++ be8 (2 + r.values.length) ++ [r.command] ++ be8 (responseCode r.code) ++ r.values) })) ∧
  (∀ (dt : Nat) (s : State), s.runPhase = .running → s.service.inProgress = none →
    let u := s.arrival dt
    let rest := s.slide.standstill = true ∧ s.demand.mode = .released
    (¬rest → exec (.restart dt []) s = .next (u.answers 12 .notStandstill [])) ∧
    (rest → exec (.restart dt []) s = .next
      (State.answers { u with service := { u.service with inProgress := some .restart } } 12 .ok []))) ∧
  ∀ (dt : Nat) (straps : Straps) (left : List Byte) (more : List Response) (s : State),
    s.service.inProgress = some .restart →
    s.service.responses = { command := 12, code := .ok, values := [] } :: more →
    let sent : State := { s with serviceOut := [0x7E#8] ++ withCrc16 [0x80#8, 2, 12, 0] }
    ∃ t, exec (.restartResponseSent dt straps left) s = .next t ∧ exec (.reset dt straps left) sent = .next t ∧
      t.address = straps.address.toNat ∧ t.service = resetService ∧ t.clock = 0

/-- The receiver of the service link (R176). Hunting, it skips every byte but a start byte, which begins a request. A byte
with a framing error discards the request it falls in, a request that is complete with a CRC that differs is discarded, and
one not complete 50 ms after its start byte is discarded at the end of those 50 ms; each discard is counted (R182) and the
receiver hunts again. A request that is complete with a good CRC is a request arrival (R177): it does what the row of its
command does at the time of its last byte. The bytes come with the two commands of the table's rows, each with its own time
(log entry 31). -/
def Obligations.ReceiverAssemblesAndDiscards : Prop :=
  ∀ (dt : Nat) (s : State), s.runPhase = .running →
    let heard (u : State) (r : Receiver) : State := { u with service := { u.service with receiver := r } }
    let total (bytes : List LinkByte) : Nat := (bytes.map LinkByte.wait).sum
    (∀ b : LinkByte,
      let time := s.clock + b.wait
      let u := s.advance b.wait
      let starts := b.framing = false ∧ b.value = 0x7E#8
      let outcome (t : State) : Prop := exec (.serviceFrameError dt [b]) s = .next (t.advance (dt - b.wait))
      (s.service.receiver = .hunting →
        (starts → outcome (heard u (.assembling [] time))) ∧ (¬starts → outcome (heard u .hunting))) ∧
      ∀ got start, s.service.receiver = .assembling got start →
        let all := got ++ [b.value]
        let whole := 2 ≤ all.length ∧ all.length = byteAt all 1 + 4
        let good := all.drop (all.length - 2) = be16 (crc16 (all.take (all.length - 2))).toNat
        (time ≤ start + 50000 → b.framing = true → outcome ((heard u .hunting).bump .serviceErrors)) ∧
        (time ≤ start + 50000 → b.framing = false →
          (¬whole → outcome (heard u (.assembling all start))) ∧
          (whole → ¬good → outcome ((heard u .hunting).bump .serviceErrors)) ∧
          (whole → good → ∀ (c : Instr) (t : State),
            requestOf c = some (b.wait, all.getD 0 0, (all.drop 2).take (byteAt all 1)) → exec c s = .next t →
            outcome t)) ∧
        (start + 50000 < time → ∃ t, outcome t ∧
          t.counters.serviceErrors = countedOnce s.counters.serviceErrors ∧
          t.service = { s.service with receiver := if starts then .assembling [] time else .hunting })) ∧
    (∀ (bytes : List LinkByte) (body : List Byte) (crc : BitVec 16), s.service.receiver = .hunting →
      (∀ b ∈ bytes, b.framing = false) → bytes.map LinkByte.value = [0x7E#8] ++ body ++ be16 crc.toNat →
      2 ≤ body.length → body.length = byteAt body 1 + 2 → (bytes.tail.map LinkByte.wait).sum ≤ 50000 →
      let outcome (t : State) : Prop :=
        exec (.serviceFrameError dt bytes) s = .next (t.advance (dt - total bytes))
      (crc ≠ crc16 body → outcome (State.bump (heard (s.advance (total bytes)) .hunting) .serviceErrors)) ∧
      (crc = crc16 body → ∀ (c : Instr) (t : State),
        requestOf c = some (total bytes, body.getD 0 0, body.drop 2) → exec c s = .next t → outcome t)) ∧
    (∀ (bytes : List LinkByte) (part : List Byte), s.service.receiver = .hunting →
      (∀ b ∈ bytes, b.framing = false) → bytes.map LinkByte.value = [0x7E#8] ++ part →
      part.length < 2 ∨ part.length < byteAt part 1 + 4 → (bytes.tail.map LinkByte.wait).sum ≤ 50000 →
      ((bytes.take 1).map LinkByte.wait).sum + 50000 ≤ dt →
      exec (.requestTimeout ⟨dt, bytes⟩) s = .next ((heard (s.advance dt) .hunting).bump .serviceErrors)) ∧
    (s.service.receiver = .hunting → exec (.requestTimeout ⟨dt, []⟩) s = .next (s.advance dt)) ∧
    ∀ got start, s.service.receiver = .assembling got start →
      (start + 50000 ≤ s.clock + dt →
        exec (.requestTimeout ⟨dt, []⟩) s = .next ((heard (s.advance dt) .hunting).bump .serviceErrors)) ∧
      (s.clock + dt < start + 50000 → exec (.requestTimeout ⟨dt, []⟩) s = .next (s.advance dt))

/-! ### Encodings -/

/-- An effort statement sent by any station is received as it was stated: the frame passes the checks of R61 and every
field of header and payload reads back (R60, R189, section 12.2). A record written whole to a slot is found by the scan as a
VALID line with its number, its RETAINED flag, its first cause and its body length (R162, R164, section 12.6). -/
def Obligations.FramesAndRecordsReadBack : Prop :=
  (∀ (source group : Nat) (seq : BitVec 8) (v : Statement), 1 ≤ source → source ≤ 30 → group ≤ 7 →
      (∀ n ∈ [v.d, v.ce, v.fx, v.al, v.vref, v.ecmd, v.fcmd, v.u], n < 65536) →
      ∃ f, classify (withCrc16 (frameBody .statement source group seq (statementBytes v))) 0 = .good f ∧
        f.kind = .statement ∧ f.source = source ∧ f.group = group ∧ f.seq = seq ∧ parseStatement f.payload = v) ∧
  ∀ (flash : Memory) (slot : Nat) (e : PendingEntry) (retained refused : Bool) (body : List Byte),
    Memory.wf 0xFF flash = true → 24 + body.length ≤ 65536 → e.incident.number < 4294967296 →
    scanLine (Memory.writeBytes 0xFF flash (65536 * slot) (recordHeader e retained refused body ++ body)) slot =
      .valid e.incident.number retained (firstCause e.incident) body.length
end

