-- ==== Sys2Proof/Laws/Memory.lean ====
section
/-! SUPPORT. Byte memory: a read after a write, and the canonical form kept by every operation. -/

namespace Sys2Proof.Machine

/-- Every listed address of a memory is above `k`. -/
abbrev Memory.Above (k : Nat) (m : Memory) : Prop := ∀ c ∈ m, k < c.1

theorem Memory.wf_cons {d : Byte} {k : Nat} {v : Byte} {m : Memory} :
    Memory.wf d ((k, v) :: m) = true ↔ v ≠ d ∧ Memory.Above k m ∧ Memory.wf d m = true := by
  simp [Memory.wf, Memory.Above, List.all_eq_true, and_assoc]

/-- An address below every listed one reads as the default. -/
theorem Memory.read_above {d : Byte} {m : Memory} {a : Nat} (h : Memory.Above a m) : Memory.read d m a = d := by
  induction m with
  | nil => rfl
  | cons c m ih =>
    obtain ⟨k, v⟩ := c
    have hk : a < k := h (k, v) (by simp)
    simp only [Memory.read]
    rw [if_neg (by omega)]
    exact ih fun c hc => h c (by simp [hc])

theorem Memory.write_above {d b : Byte} {m : Memory} {k a : Nat} (h : Memory.Above k m) (ha : k < a) :
    Memory.Above k (Memory.write d m a b) := by
  induction m with
  | nil =>
    simp only [Memory.write]; split
    · intro c hc; simp at hc
    · intro c hc; simp at hc; subst hc; exact ha
  | cons c m ih =>
    obtain ⟨j, v⟩ := c
    have hj : k < j := h (j, v) (by simp)
    have hm : Memory.Above k m := fun c hc => h c (by simp [hc])
    simp only [Memory.write]
    split
    · split
      · exact h
      · intro c hc
        rcases List.mem_cons.1 hc with rfl | hc
        · exact ha
        · exact h c hc
    · split
      · split
        · exact hm
        · intro c hc
          rcases List.mem_cons.1 hc with rfl | hc
          · exact ha
          · exact hm c hc
      · intro c hc
        rcases List.mem_cons.1 hc with rfl | hc
        · exact hj
        · exact ih hm c hc

/-- A write keeps the canonical form. -/
theorem Memory.wf_write {d b : Byte} {m : Memory} {a : Nat} (h : Memory.wf d m = true) :
    Memory.wf d (Memory.write d m a b) = true := by
  induction m with
  | nil => by_cases hb : b = d <;> simp [Memory.write, hb, Memory.wf]
  | cons c m ih =>
    obtain ⟨k, v⟩ := c
    obtain ⟨hv, hk, hm⟩ := Memory.wf_cons.1 h
    simp only [Memory.write]
    split
    · split
      · exact h
      · rename_i hlt hb
        refine Memory.wf_cons.2 ⟨hb, ?_, h⟩
        intro c hc
        rcases List.mem_cons.1 hc with rfl | hc
        · exact hlt
        · have := hk c hc; omega
    · split
      · split
        · exact hm
        · rename_i heq hb
          exact Memory.wf_cons.2 ⟨hb, heq ▸ hk, hm⟩
      · exact Memory.wf_cons.2 ⟨hv, Memory.write_above hk (by omega), ih hm⟩

/-- Writes of bytes at rising addresses keep the canonical form. -/
theorem Memory.wf_writeBytes {d : Byte} {bs : List Byte} {m : Memory} {a : Nat} (h : Memory.wf d m = true) :
    Memory.wf d (Memory.writeBytes d m a bs) = true := by
  induction bs generalizing m a with
  | nil => exact h
  | cons b bs ih => exact ih (Memory.wf_write h)

/-- A sublist of a canonical memory is canonical. -/
theorem Memory.wf_filter {d : Byte} {m : Memory} (p : Host.Cell → Bool) (h : Memory.wf d m = true) :
    Memory.wf d (m.filter p) = true := by
  induction m with
  | nil => rfl
  | cons c m ih =>
    obtain ⟨k, v⟩ := c
    obtain ⟨hv, hk, hm⟩ := Memory.wf_cons.1 h
    rw [List.filter_cons]
    split
    · exact Memory.wf_cons.2 ⟨hv, fun c hc => hk c (List.mem_of_mem_filter hc), ih hm⟩
    · exact ih hm

/-- An erase keeps the canonical form. -/
theorem Memory.wf_clear {d : Byte} {m : Memory} {a n : Nat} (h : Memory.wf d m = true) :
    Memory.wf d (m.clear a n) = true := Memory.wf_filter _ h

/-- A read after a write: the byte written at its address, what was there before elsewhere. -/
theorem Memory.read_write {d b : Byte} {m : Memory} {a : Nat} (h : Memory.wf d m = true) (x : Nat) :
    Memory.read d (Memory.write d m a b) x = if x = a then b else Memory.read d m x := by
  induction m with
  | nil =>
    by_cases hb : b = d
    · by_cases hx : x = a <;> simp [Memory.write, Memory.read, hb, hx]
    · by_cases hx : x = a
      · simp [Memory.write, Memory.read, hb, hx]
      · simp [Memory.write, Memory.read, hb, hx, Ne.symm hx]
  | cons c m ih =>
    obtain ⟨k, v⟩ := c
    obtain ⟨hv, hk, hm⟩ := Memory.wf_cons.1 h
    simp only [Memory.write]
    by_cases hlt : a < k
    · rw [if_pos hlt]
      have habove : Memory.Above a ((k, v) :: m) := by
        intro c hc
        rcases List.mem_cons.1 hc with rfl | hc
        · exact hlt
        · have := hk c hc; omega
      by_cases hb : b = d
      · rw [if_pos hb]
        by_cases hx : x = a
        · subst hx; rw [if_pos rfl, Memory.read_above habove, hb]
        · rw [if_neg hx]
      · rw [if_neg hb]
        by_cases hx : x = a
        · subst hx; simp [Memory.read]
        · rw [if_neg hx]
          conv_lhs => rw [Memory.read, if_neg (Ne.symm hx)]
    · rw [if_neg hlt]
      by_cases heq : a = k
      · subst heq
        rw [if_pos rfl]
        by_cases hb : b = d
        · rw [if_pos hb]
          by_cases hx : x = a
          · subst hx; rw [if_pos rfl, Memory.read_above hk, hb]
          · rw [if_neg hx]
            conv_rhs => rw [Memory.read, if_neg (Ne.symm hx)]
        · rw [if_neg hb]
          by_cases hx : x = a
          · subst hx; simp [Memory.read]
          · rw [if_neg hx]
            conv_lhs => rw [Memory.read, if_neg (Ne.symm hx)]
            conv_rhs => rw [Memory.read, if_neg (Ne.symm hx)]
      · rw [if_neg heq]
        by_cases hxk : k = x
        · subst hxk
          simp only [Memory.read, if_true]
          rw [if_neg (by omega)]
        · conv_lhs => rw [Memory.read, if_neg hxk]
          rw [ih hm]
          conv_rhs => rw [Memory.read, if_neg hxk]

/-- A read after a write of bytes: the byte of the list inside its range, what was there before outside it. -/
theorem Memory.read_writeBytes {d : Byte} {bs : List Byte} {m : Memory} {a : Nat} (h : Memory.wf d m = true)
    (x : Nat) :
    Memory.read d (Memory.writeBytes d m a bs) x =
      if a ≤ x ∧ x < a + bs.length then bs.getD (x - a) d else Memory.read d m x := by
  induction bs generalizing m a with
  | nil => simp only [Memory.writeBytes, List.length_nil]; rw [if_neg (by omega)]
  | cons b bs ih =>
    simp only [Memory.writeBytes, List.length_cons]
    rw [ih (Memory.wf_write h), Memory.read_write h]
    by_cases hx : x = a
    · subst hx; rw [if_neg (by omega), if_pos rfl, if_pos (by omega)]; simp
    · by_cases hr : a + 1 ≤ x ∧ x < a + 1 + bs.length
      · rw [if_pos hr, if_pos (by omega)]
        obtain ⟨y, rfl⟩ : ∃ y, x = a + 1 + y := ⟨x - (a + 1), by omega⟩
        rw [show a + 1 + y - (a + 1) = y by omega, show a + 1 + y - a = y + 1 by omega]
        simp
      · rw [if_neg hr, if_neg hx, if_neg (by omega)]

/-- A read after an erase: the default inside the region, what was there before outside it. -/
theorem Memory.read_clear {d : Byte} {m : Memory} {a n : Nat} (x : Nat) :
    Memory.read d (m.clear a n) x = if a ≤ x ∧ x < a + n then d else Memory.read d m x := by
  induction m with
  | nil => simp [Memory.clear, Memory.read]
  | cons c m ih =>
    obtain ⟨k, v⟩ := c
    have hcons : Memory.clear ((k, v) :: m) a n =
        if a ≤ k ∧ k < a + n then Memory.clear m a n else (k, v) :: Memory.clear m a n := by
      simp only [Memory.clear, List.filter_cons]
      by_cases hr : a ≤ k ∧ k < a + n
      · rw [if_pos hr, if_neg (by simp [hr.1, hr.2])]
      · rw [if_neg hr, if_pos (by simp; omega)]
    rw [hcons]
    split
    · rename_i hr
      rw [ih]
      by_cases hx : a ≤ x ∧ x < a + n
      · rw [if_pos hx, if_pos hx]
      · rw [if_neg hx, if_neg hx]
        conv_rhs => rw [Memory.read, if_neg (show ¬ k = x by rintro rfl; exact hx hr)]
    · rename_i hr
      by_cases hk : k = x
      · subst hk; rw [if_neg hr]; simp [Memory.read]
      · conv_lhs => rw [Memory.read, if_neg hk]
        rw [ih]
        split
        · rfl
        · conv_rhs => rw [Memory.read, if_neg hk]

@[simp] theorem Memory.length_readBytes {d : Byte} {m : Memory} {a n : Nat} :
    (Memory.readBytes d m a n).length = n := by simp [Memory.readBytes]

/-- The byte at a place of a list read from memory. -/
theorem Memory.getElem?_readBytes {d : Byte} {m : Memory} {a n i : Nat} (h : i < n) :
    (Memory.readBytes d m a n)[i]? = some (Memory.read d m (a + i)) := by
  simp [Memory.readBytes, h]

/-- Bytes written read back as they were written. -/
theorem Memory.readBytes_writeBytes {d : Byte} {bs : List Byte} {m : Memory} {a : Nat} (h : Memory.wf d m = true) :
    Memory.readBytes d (Memory.writeBytes d m a bs) a bs.length = bs := by
  apply List.ext_getElem?
  intro i
  by_cases hi : i < bs.length
  · rw [Memory.getElem?_readBytes hi, Memory.read_writeBytes h, if_pos (by omega)]
    simp [List.getD_eq_getElem?_getD, hi]
  · rw [List.getElem?_eq_none (by simpa using hi), List.getElem?_eq_none (by simpa using hi)]

/-- Bytes of a range that a write of bytes does not touch read as before. -/
theorem Memory.readBytes_writeBytes_disjoint {d : Byte} {bs : List Byte} {m : Memory} {a b n : Nat}
    (h : Memory.wf d m = true) (hd : b + n ≤ a ∨ a + bs.length ≤ b) :
    Memory.readBytes d (Memory.writeBytes d m a bs) b n = Memory.readBytes d m b n := by
  apply List.ext_getElem?
  intro i
  by_cases hi : i < n
  · rw [Memory.getElem?_readBytes hi, Memory.getElem?_readBytes hi, Memory.read_writeBytes h, if_neg (by omega)]
  · rw [List.getElem?_eq_none (by simpa using hi), List.getElem?_eq_none (by simpa using hi)]

end Sys2Proof.Machine
end

