-- ==== Sys2Proof/Laws/Recorder.lean ====
section
/-! SUPPORT. What can happen to the Recorder, said once: `Recorder.Moves`, with the lemmas that each shared operation is
such a move and that moves keep laws 1 and 2, the canonical form of the block memory and the bound of the pending
queue. -/

namespace Sys2Proof.Machine

/-- The parts of the Recorder that hold no blocks: changes of peaks, incident state, capture, holdoff, and of nothing
else. -/
def Recorder.withNotes (r : Recorder) (p : Peaks) (st : RecorderState) (cap : Option Incident) (h : Option Time) :
    Recorder := { r with peaks := p, state := st, capture := cap, holdoff := h }

/-- A closed incident appended to the pending queue. -/
def Recorder.append (r : Recorder) (e : PendingEntry) : Recorder :=
  { r with pendingQueue := r.pendingQueue ++ [e], state := .idle, capture := none }

/-- The lost-record counts at 0. -/
def Recorder.clearLost (r : Recorder) : Recorder :=
  { r with chans := r.chans.map fun (ch : Channel) => { ch with lost := 0 } }

/-- Everything that can happen to the Recorder between two resets. -/
inductive Recorder.Moves : Recorder → Recorder → Prop where
  | refl (r : Recorder) : Moves r r
  | trans {r s t : Recorder} : Moves r s → Moves s t → Moves r t
  | offer (r : Recorder) (c : Nat) (rec : TraceRecord) : Moves r (r.offer c rec).1
  | notes (r : Recorder) (p : Peaks) (st : RecorderState) (cap : Option Incident) (h : Option Time) :
      Moves r (r.withNotes p st cap h)
  | summaryOnly (r : Recorder) (e : PendingEntry) : r.pendingQueue.length < 4 → e.frozen = [] → Moves r (r.append e)
  | frozen (r : Recorder) (e : PendingEntry) : r.pendingQueue.length < 4 → e.frozen = r.freeze.2 →
      Moves r ((r.freeze.1.round true).append e)
  | retire (r : Recorder) : Moves r r.retire
  | clear (r : Recorder) (c : Nat) (ch : Channel) : r.chans[c]? = some ch →
      Moves r { r with chans := r.chans.set c ch.cleared }
  | clearLost (r : Recorder) : Moves r r.clearLost

/-! ### Which operations are moves -/

theorem Recorder.Moves.of_notes (r : Recorder) (p : Peaks) : Recorder.Moves r { r with peaks := p } :=
  Recorder.Moves.notes r p r.state r.capture r.holdoff

theorem Recorder.foldl_moves {β : Type} (f : Recorder → β → Recorder) (h : ∀ r b, Recorder.Moves r (f r b))
    (bs : List β) (r : Recorder) : Recorder.Moves r (bs.foldl f r) := by
  induction bs generalizing r with
  | nil => exact .refl r
  | cons b bs ih => exact .trans (h r b) (ih _)

theorem Recorder.offerAll_moves (sel : Channel → Bool) (rec : TraceRecord) (r : Recorder) :
    Recorder.Moves r (Recorder.offerAll sel rec r).1 := by
  unfold Recorder.offerAll
  suffices h : ∀ (cs : List Nat) (acc : Recorder × List Nat), Recorder.Moves acc.1
      (cs.foldl (fun acc c =>
        if ((acc.1.chans[c]?).map sel).getD false then
          let o := acc.1.offer c rec
          (o.1, if o.2 then acc.2 ++ [c] else acc.2)
        else acc) acc).1 from h (List.range 8) (r, [])
  intro cs
  induction cs with
  | nil => intro acc; exact .refl _
  | cons c cs ih =>
    intro acc
    simp only [List.foldl_cons]
    refine .trans ?_ (ih _)
    split
    · exact .offer _ _ _
    · exact .refl _

theorem Recorder.log_moves (n : Nat) (t : Time) (source : Nat) (detail : List Byte) (r : Recorder) :
    Recorder.Moves r (Recorder.log n t source detail r) := by
  induction n generalizing source detail r with
  | zero => exact .refl r
  | succ n ih =>
    simp only [Recorder.log]
    exact .trans (Recorder.offerAll_moves _ _ _) (Recorder.foldl_moves _ (fun r _ => ih _ _ r) _ _)

theorem Recorder.logEvent_moves (r : Recorder) (t : Time) (source : EventSource) (detail : List Byte) :
    Recorder.Moves r (r.logEvent t source detail) := Recorder.log_moves _ _ _ _ _

theorem Recorder.trace_moves (r : Recorder) (sel : Channel → Bool) (rec : TraceRecord) :
    Recorder.Moves r (r.trace sel rec) :=
  .trans (Recorder.offerAll_moves _ _ _) (Recorder.foldl_moves _ (fun r _ => Recorder.logEvent_moves r _ _ _) _ _)

theorem Recorder.peakSlip_moves (r : Recorder) (q : Tri Nat) (t : Time) : Recorder.Moves r (r.peakSlip q t) :=
  .of_notes r _

theorem Recorder.peakPressure_moves (r : Recorder) (bp bc : Option Nat) (t : Time) :
    Recorder.Moves r (r.peakPressure bp bc t) := .of_notes r _

theorem Recorder.peakBlend_moves (r : Recorder) (u : Nat) (diff : Int) (t : Time) :
    Recorder.Moves r (r.peakBlend u diff t) := .of_notes r _

/-! ### What moves keep: the general form -/

/-- A property that every single move keeps is kept by all moves. -/
theorem Recorder.Moves.keeps {P : Recorder → Prop} {r r' : Recorder} (h : Recorder.Moves r r')
    (offer : ∀ r c rec, P r → P (Recorder.offer r c rec).1)
    (notes : ∀ r p st cap h, P r → P (Recorder.withNotes r p st cap h))
    (summaryOnly : ∀ (r : Recorder) (e : PendingEntry), r.pendingQueue.length < 4 → e.frozen = [] → P r →
      P (r.append e))
    (frozen : ∀ (r : Recorder) (e : PendingEntry), r.pendingQueue.length < 4 → e.frozen = r.freeze.2 → P r →
      P ((r.freeze.1.round true).append e))
    (retire : ∀ r, P r → P (Recorder.retire r))
    (clear : ∀ (r : Recorder) (c : Nat) (ch : Channel), r.chans[c]? = some ch → P r →
      P { r with chans := r.chans.set c ch.cleared })
    (clearLost : ∀ r, P r → P (Recorder.clearLost r)) : P r → P r' := by
  induction h with
  | refl => exact id
  | trans _ _ ih₁ ih₂ => exact fun hp => ih₂ (ih₁ hp)
  | offer r c rec => exact offer r c rec
  | notes r p st cap h => exact notes r p st cap h
  | summaryOnly r e hl he => exact summaryOnly r e hl he
  | frozen r e hl he => exact frozen r e hl he
  | retire r => exact retire r
  | clear r c ch hc => exact clear r c ch hc
  | clearLost r => exact clearLost r

/-! ### Fields that the arbiter's operations leave -/

@[simp] theorem Recorder.returnBlocks_chans (r : Recorder) (bs : List Nat) : (r.returnBlocks bs).chans = r.chans := rfl
@[simp] theorem Recorder.returnBlocks_pendingQueue (r : Recorder) (bs : List Nat) :
    (r.returnBlocks bs).pendingQueue = r.pendingQueue := rfl
@[simp] theorem Recorder.returnBlocks_blocks (r : Recorder) (bs : List Nat) : (r.returnBlocks bs).blocks = r.blocks :=
  rfl
@[simp] theorem Recorder.grant_pendingQueue (r : Recorder) (c b : Nat) (rest : List Nat) :
    (r.grant c b rest).pendingQueue = r.pendingQueue := rfl
@[simp] theorem Recorder.grant_blocks (r : Recorder) (c b : Nat) (rest : List Nat) :
    (r.grant c b rest).blocks = r.blocks := rfl

/-- A property of the Recorder that single grants keep is kept by a round. -/
theorem Recorder.grants_keeps {P : Recorder → Prop} (capped : Bool)
    (h : ∀ (r : Recorder) (c b : Nat) (rest got : List Nat), r.spare = b :: rest → r.eligible capped got c = true →
      P r → P (r.grant c b rest)) :
    ∀ (n : Nat) (got : List Nat) (r : Recorder), P r → P (Recorder.grants n capped got r) := by
  intro n
  induction n with
  | zero => intro got r hr; exact hr
  | succ n ih =>
    intro got r hr
    simp only [Recorder.grants]
    split
    · rename_i b rest c hs hn
      exact ih _ _ (h r c b rest got hs (List.find?_some hn) hr)
    · exact hr

/-- A property that single grants keep is kept by a round. -/
theorem Recorder.round_keeps {P : Recorder → Prop} (capped : Bool)
    (h : ∀ (r : Recorder) (c b : Nat) (rest got : List Nat), r.spare = b :: rest → r.eligible capped got c = true →
      P r → P (r.grant c b rest)) (r : Recorder) (hr : P r) : P (r.round capped) :=
  Recorder.grants_keeps capped h _ _ r hr

@[simp] theorem Recorder.round_pendingQueue (r : Recorder) (capped : Bool) :
    (r.round capped).pendingQueue = r.pendingQueue :=
  Recorder.round_keeps (P := fun x => x.pendingQueue = r.pendingQueue) capped (fun _ _ _ _ _ _ _ hx => hx) r rfl

@[simp] theorem Recorder.round_blocks (r : Recorder) (capped : Bool) : (r.round capped).blocks = r.blocks :=
  Recorder.round_keeps (P := fun x => x.blocks = r.blocks) capped (fun _ _ _ _ _ _ _ hx => hx) r rfl

@[simp] theorem Recorder.round_state (r : Recorder) (capped : Bool) : (r.round capped).state = r.state :=
  Recorder.round_keeps (P := fun x => x.state = r.state) capped (fun _ _ _ _ _ _ _ hx => hx) r rfl

@[simp] theorem Recorder.round_capture (r : Recorder) (capped : Bool) : (r.round capped).capture = r.capture :=
  Recorder.round_keeps (P := fun x => x.capture = r.capture) capped (fun _ _ _ _ _ _ _ hx => hx) r rfl

@[simp] theorem Recorder.retire_state (r : Recorder) : r.retire.state = r.state := by
  unfold Recorder.retire; split
  · rfl
  · simp [Recorder.returnBlocks]

@[simp] theorem Recorder.retire_capture (r : Recorder) : r.retire.capture = r.capture := by
  unfold Recorder.retire; split
  · rfl
  · simp [Recorder.returnBlocks]

@[simp] theorem Recorder.freeze_pendingQueue (r : Recorder) : r.freeze.1.pendingQueue = r.pendingQueue := rfl
@[simp] theorem Recorder.freeze_blocks (r : Recorder) : r.freeze.1.blocks = r.blocks := rfl

/-! ### Writing a record -/

/-- A block made current moves blocks inside the holding only. -/
theorem Channel.openBlock_holding (ch : Channel) (t : Time) : (ch.openBlock t).holding.Perm ch.holding := by
  unfold Channel.openBlock Channel.holding
  split
  · rename_i e es h
    simp only [Option.toList_some, h]
    simp
  · rename_i b rest h h'
    rw [h, h']
    simp only [Option.toList_some, List.append_nil]
    exact (List.perm_append_comm (l₁ := rest) (l₂ := [b]))
  · exact List.Perm.refl _

@[simp] theorem Channel.openBlock_alloc (ch : Channel) (t : Time) : (ch.openBlock t).alloc = ch.alloc := by
  unfold Channel.openBlock; split <;> rfl
@[simp] theorem Channel.openBlock_enable (ch : Channel) (t : Time) : (ch.openBlock t).enable = ch.enable := by
  unfold Channel.openBlock; split <;> rfl
@[simp] theorem Channel.openBlock_lost (ch : Channel) (t : Time) : (ch.openBlock t).lost = ch.lost := by
  unfold Channel.openBlock; split <;> rfl

/-- What `put` changes: none of the holding, the configuration and the lost count; the memory by writes of bytes. -/
theorem Channel.put_spec (ch : Channel) (c : Nat) (r : TraceRecord) (key : Bool) (bytes : List Byte) (m : Memory) :
    (ch.put c r key bytes m).1.holding = ch.holding ∧ (ch.put c r key bytes m).1.alloc = ch.alloc ∧
      (ch.put c r key bytes m).1.enable = ch.enable ∧ (ch.put c r key bytes m).1.lost = ch.lost ∧
      (Memory.wf 0 m = true → Memory.wf 0 (ch.put c r key bytes m).2 = true) := by
  unfold Channel.put
  split
  · exact ⟨rfl, rfl, rfl, rfl, id⟩
  · exact ⟨rfl, rfl, rfl, rfl, fun h => Memory.wf_writeBytes (Memory.wf_writeBytes h)⟩

/-- What writing a record changes. -/
theorem Channel.writeRecord_spec (ch : Channel) (c : Nat) (r : TraceRecord) (m : Memory) :
    (ch.writeRecord c r m).1.holding.Perm ch.holding ∧ (ch.writeRecord c r m).1.alloc = ch.alloc ∧
      (ch.writeRecord c r m).1.enable = ch.enable ∧ (ch.writeRecord c r m).1.lost = ch.lost ∧
      (Memory.wf 0 m = true → Memory.wf 0 (ch.writeRecord c r m).2 = true) := by
  unfold Channel.writeRecord
  dsimp only
  generalize (if ch.needsKey r = true then keyBytes r else otherBytes ch r) = bytes
  split
  · obtain ⟨h, h₁⟩ := ch.put_spec c r (ch.needsKey r) bytes m
    exact ⟨h ▸ List.Perm.refl _, h₁⟩
  · obtain ⟨h, ha, he, hl, hm⟩ := (ch.openBlock r.time).put_spec c r true (keyBytes r) m
    exact ⟨h ▸ ch.openBlock_holding r.time, by simp [ha], by simp [he], by simp [hl], hm⟩

/-- What a channel offered a record can become, and what becomes of the Recorder around it. -/
theorem Recorder.offer_cases (r : Recorder) (c : Nat) (rec : TraceRecord) :
    (r.offer c rec).1 = r ∨
    ∃ ch ch' m, r.chans[c]? = some ch ∧ (r.offer c rec).1 = { r with chans := r.chans.set c ch', blocks := m } ∧
      ch'.holding.Perm ch.holding ∧ ch'.alloc = ch.alloc ∧ ch'.enable = ch.enable ∧
      (ch.lost ≤ 65535 → ch'.lost ≤ 65535) ∧ (Memory.wf 0 r.blocks = true → Memory.wf 0 m = true) := by
  unfold Recorder.offer
  split
  · exact .inl rfl
  · rename_i ch hc
    split
    · exact .inl rfl
    · obtain ⟨hp, ha, he, hl, hm⟩ := ch.writeRecord_spec c rec r.blocks
      exact .inr ⟨ch, _, _, hc, rfl, hp, ha, he, fun h => hl ▸ h, hm⟩
    · split
      · rename_i hlt
        exact .inr ⟨ch, { ch with lost := ch.lost + 1 }, r.blocks, hc, rfl, List.Perm.refl _, rfl, rfl,
          fun _ => by simp only; omega, id⟩
      · exact .inl rfl

/-- Offering a record leaves all of the Recorder but its channels and their memory. -/
def Recorder.OnlyChannels (r r' : Recorder) : Prop := r' = { r with chans := r'.chans, blocks := r'.blocks }

theorem Recorder.OnlyChannels.refl (r : Recorder) : Recorder.OnlyChannels r r := rfl

theorem Recorder.OnlyChannels.trans {r s t : Recorder} (h : Recorder.OnlyChannels r s)
    (h' : Recorder.OnlyChannels s t) : Recorder.OnlyChannels r t := by
  unfold Recorder.OnlyChannels at *
  rw [h] at h'
  rw [h']

theorem Recorder.offer_onlyChannels (r : Recorder) (c : Nat) (rec : TraceRecord) :
    Recorder.OnlyChannels r (r.offer c rec).1 := by
  rcases r.offer_cases c rec with he | ⟨_, _, _, _, he, _⟩ <;> rw [he] <;> rfl

theorem Recorder.offerAll_onlyChannels (sel : Channel → Bool) (rec : TraceRecord) (r : Recorder) :
    Recorder.OnlyChannels r (Recorder.offerAll sel rec r).1 := by
  unfold Recorder.offerAll
  suffices h : ∀ (cs : List Nat) (acc : Recorder × List Nat), Recorder.OnlyChannels acc.1
      (cs.foldl (fun acc c =>
        if ((acc.1.chans[c]?).map sel).getD false then
          let o := acc.1.offer c rec
          (o.1, if o.2 then acc.2 ++ [c] else acc.2)
        else acc) acc).1 from h (List.range 8) (r, [])
  intro cs
  induction cs with
  | nil => intro acc; exact .refl _
  | cons c cs ih =>
    intro acc
    simp only [List.foldl_cons]
    refine .trans ?_ (ih _)
    split
    · exact Recorder.offer_onlyChannels _ _ _
    · exact .refl _

theorem Recorder.foldl_onlyChannels {β : Type} (f : Recorder → β → Recorder)
    (h : ∀ r b, Recorder.OnlyChannels r (f r b)) (bs : List β) (r : Recorder) :
    Recorder.OnlyChannels r (bs.foldl f r) := by
  induction bs generalizing r with
  | nil => exact .refl r
  | cons b bs ih => exact .trans (h r b) (ih _)

theorem Recorder.log_onlyChannels (n : Nat) (t : Time) (source : Nat) (detail : List Byte) (r : Recorder) :
    Recorder.OnlyChannels r (Recorder.log n t source detail r) := by
  induction n generalizing source detail r with
  | zero => exact .refl r
  | succ n ih =>
    simp only [Recorder.log]
    exact .trans (Recorder.offerAll_onlyChannels _ _ _) (Recorder.foldl_onlyChannels _ (fun r _ => ih _ _ r) _ _)

theorem Recorder.logEvent_onlyChannels (r : Recorder) (t : Time) (source : EventSource) (detail : List Byte) :
    Recorder.OnlyChannels r (r.logEvent t source detail) := Recorder.log_onlyChannels _ _ _ _ _

theorem Recorder.trace_onlyChannels (r : Recorder) (sel : Channel → Bool) (rec : TraceRecord) :
    Recorder.OnlyChannels r (r.trace sel rec) :=
  .trans (Recorder.offerAll_onlyChannels _ _ _)
    (Recorder.foldl_onlyChannels _ (fun r _ => Recorder.logEvent_onlyChannels r _ _ _) _ _)

/-! ### The invariants -/

/-- Moves keep the block memory canonical. -/
theorem Recorder.Moves.wf_blocks {r r' : Recorder} (h : Recorder.Moves r r') :
    Memory.wf 0 r.blocks = true → Memory.wf 0 r'.blocks = true := by
  refine h.keeps (P := fun r => Memory.wf 0 r.blocks = true) ?_ (fun _ _ _ _ _ h => h) (fun _ _ _ _ h => h) ?_ ?_
    (fun _ _ _ _ h => h) (fun _ h => h)
  · intro r c rec hr
    rcases r.offer_cases c rec with he | ⟨_, _, m, _, he, _, _, _, _, hm⟩
    · rw [he]; exact hr
    · rw [he]; exact hm hr
  · intro r e _ _ hr
    simpa [Recorder.append] using hr
  · intro r hr
    unfold Recorder.retire
    split
    · exact hr
    · simpa using hr

/-- Moves keep the pending queue within four entries. -/
theorem Recorder.Moves.pending_bounded {r r' : Recorder} (h : Recorder.Moves r r') :
    r.pendingQueue.length ≤ 4 → r'.pendingQueue.length ≤ 4 := by
  refine h.keeps (P := fun r => r.pendingQueue.length ≤ 4) ?_ (fun _ _ _ _ _ h => h) ?_ ?_ ?_
    (fun _ _ _ _ h => h) (fun _ h => h)
  · intro r c rec hr
    rcases r.offer_cases c rec with he | ⟨_, _, m, _, he, _⟩
    · rw [he]; exact hr
    · rw [he]; exact hr
  · intro r e hl _ _
    simp [Recorder.append]; omega
  · intro r e hl _ _
    simp [Recorder.append]; omega
  · intro r hr
    unfold Recorder.retire
    split
    · exact hr
    · rename_i e es hq
      rw [hq] at hr
      simp at hr ⊢
      omega

/-- A list with one element exchanged for another holds the rest as before. -/
theorem flatMap_set_perm {α β : Type} {l : List α} {c : Nat} {x y : α} (f : α → List β) (h : l[c]? = some x)
    (hp : (f y).Perm (f x)) : ((l.set c y).flatMap f).Perm (l.flatMap f) := by
  induction l generalizing c with
  | nil => simp at h
  | cons z l ih =>
    cases c with
    | zero =>
      simp at h; subst h
      simp only [List.set_cons_zero, List.flatMap_cons]
      exact hp.append_right _
    | succ c =>
      simp at h
      simp only [List.set_cons_succ, List.flatMap_cons]
      exact (ih h).append_left _

theorem insertAsc_perm (x : Nat) (l : List Nat) : (insertAsc x l).Perm (x :: l) := by
  induction l with
  | nil => exact List.Perm.refl _
  | cons y ys ih =>
    simp only [insertAsc]
    split
    · exact List.Perm.refl _
    · exact (ih.cons y).trans (List.Perm.swap x y ys)

theorem insertAsc_pairwise (x : Nat) (l : List Nat) (h : l.Pairwise (· ≤ ·)) : (insertAsc x l).Pairwise (· ≤ ·) := by
  induction l with
  | nil => simp [insertAsc]
  | cons y ys ih =>
    rw [List.pairwise_cons] at h
    simp only [insertAsc]
    split
    · rename_i hxy
      rw [List.pairwise_cons]
      refine ⟨fun z hz => ?_, List.pairwise_cons.mpr h⟩
      rcases List.mem_cons.mp hz with rfl | hz
      · exact hxy
      · exact hxy.trans (h.1 z hz)
    · rw [List.pairwise_cons]
      refine ⟨fun z hz => ?_, ih h.2⟩
      rcases List.mem_cons.mp ((insertAsc_perm x ys).mem_iff.mp hz) with rfl | hz
      · omega
      · exact h.1 z hz

theorem foldl_insertAsc_perm (bs acc : List Nat) :
    (bs.foldl (fun sp b => insertAsc b sp) acc).Perm (acc ++ bs) := by
  induction bs generalizing acc with
  | nil => simp
  | cons b bs ih =>
    simp only [List.foldl_cons]
    exact (ih _).trans (((insertAsc_perm b acc).append_right bs).trans (List.perm_middle.symm))

theorem Recorder.returnBlocks_spare (r : Recorder) (bs : List Nat) : (r.returnBlocks bs).spare.Perm (r.spare ++ bs) :=
  foldl_insertAsc_perm bs r.spare


/-- The lists of the eight channels' holdings, one channel exchanged for another with the same holding. -/
theorem Recorder.blockList_set {r : Recorder} {c : Nat} {ch ch' : Channel} (h : r.chans[c]? = some ch)
    (hp : ch'.holding.Perm ch.holding) (m : Memory) :
    (Recorder.blockList { r with chans := r.chans.set c ch', blocks := m }).Perm r.blockList :=
  ((flatMap_set_perm Channel.holding h hp).append_left _).append_right _

/-- A grant moves one block from the spare pool to the channel. -/
theorem Recorder.grant_blockList {r : Recorder} {c b : Nat} {rest : List Nat} {ch : Channel}
    (hs : r.spare = b :: rest) (hc : r.chans[c]? = some ch) : (r.grant c b rest).blockList.Perm r.blockList := by
  have hmod : r.chans.modify c (fun ch => { ch with empty := insertAsc b ch.empty }) =
      r.chans.set c { ch with empty := insertAsc b ch.empty } := by
    apply List.ext_getElem?
    intro i
    rw [List.getElem?_modify, List.getElem?_set]
    split
    · rename_i h; subst h
      have hlt := (List.getElem?_eq_some_iff.mp hc).1
      simp only [hc, if_pos hlt]
      rfl
    · simp
  have hsplit : ∀ y, (r.chans.set c y).flatMap Channel.holding =
      (r.chans.take c).flatMap Channel.holding ++ (y.holding ++ (r.chans.drop (c + 1)).flatMap Channel.holding) := by
    intro y
    have hlt := (List.getElem?_eq_some_iff.mp hc).1
    rw [List.set_eq_take_append_cons_drop, if_pos hlt]
    simp
  have hself : r.chans.set c ch = r.chans := by
    have hlt := (List.getElem?_eq_some_iff.mp hc)
    obtain ⟨hlt, he⟩ := hlt
    rw [← he]; exact List.set_getElem_self hlt
  have hh : ({ ch with empty := insertAsc b ch.empty } : Channel).holding.Perm (b :: ch.holding) := by
    unfold Channel.holding
    exact ((insertAsc_perm b ch.empty).append_left _).trans List.perm_middle
  unfold Recorder.blockList Recorder.grant
  simp only [hmod, hs]
  refine List.Perm.append_right _ ?_
  rw [hsplit]
  conv => rhs; rw [← hself, hsplit]
  refine ((((hh.append_right _)).append_left _).append_left rest).trans ?_
  simp only [List.cons_append]
  exact ((List.perm_middle (l₁ := (r.chans.take c).flatMap Channel.holding)).append_left rest).trans List.perm_middle

/-- What a list of channels gives up when its RUNNING channels are frozen. -/
theorem frozen_perm (l : List Channel) (k : Nat) :
    (l.flatMap Channel.holding).Perm
      ((l.map fun (ch : Channel) => if ch.isRunning then ch.emptied else ch).flatMap Channel.holding ++
        ((l.zipIdx k).filter fun p => p.1.isRunning).flatMap (fun p => p.1.empty) ++
        ((l.zipIdx k).filter fun p => p.1.isRunning).flatMap fun p => p.1.ring ++ p.1.current.toList) := by
  induction l generalizing k with
  | nil => simp
  | cons ch l ih =>
    have ih := ih (k + 1)
    simp only [List.flatMap_cons, List.map_cons, List.zipIdx_cons, List.filter_cons]
    by_cases hr : ch.isRunning = true
    · have he : ch.emptied.holding = [] := rfl
      simp only [hr, if_true, he, List.nil_append, List.flatMap_cons]
      refine (ih.append_left _).trans ?_
      unfold Channel.holding
      generalize (l.map fun (ch : Channel) => if ch.isRunning then ch.emptied else ch).flatMap _ = A
      generalize ((l.zipIdx (k + 1)).filter fun p => p.1.isRunning).flatMap (fun p => p.1.empty) = B
      generalize ((l.zipIdx (k + 1)).filter fun p => p.1.isRunning).flatMap (fun p => p.1.ring ++ p.1.current.toList) = C
      rw [List.perm_iff_count]
      intro x
      simp only [List.count_append]
      omega
    · simp only [hr, if_false, Bool.false_eq_true]
      rw [List.append_assoc, List.append_assoc]
      rw [List.append_assoc] at ih
      exact ih.append_left _

/-- A freeze with the closed incident appended moves blocks only. -/
theorem Recorder.freeze_blockList (r : Recorder) (e : PendingEntry) (he : e.frozen = r.freeze.2) :
    (Recorder.blockList { r.freeze.1 with pendingQueue := r.pendingQueue ++ [e] }).Perm r.blockList := by
  have h := frozen_perm r.chans 0
  have hs := Recorder.returnBlocks_spare
    { r with chans := r.chans.map fun (ch : Channel) => if ch.isRunning then ch.emptied else ch }
    ((r.chans.zipIdx.filter fun p => p.1.isRunning).flatMap fun p => p.1.empty)
  have hb : e.blocks =
      (r.chans.zipIdx.filter fun p => p.1.isRunning).flatMap fun p => p.1.ring ++ p.1.current.toList := by
    unfold PendingEntry.blocks
    rw [he]
    simp [Recorder.freeze, List.flatMap_map]
  rw [List.perm_iff_count] at h hs ⊢
  intro x
  have h := h x
  have hs := hs x
  simp only [Recorder.blockList, List.flatMap_append, List.flatMap_cons, List.flatMap_nil, List.append_nil, hb,
    List.count_append] at h ⊢
  simp only [Recorder.freeze, returnBlocks_chans, List.count_append] at hs ⊢
  omega

/-- A round of the arbiter moves blocks only. -/
theorem Recorder.round_blockList (r : Recorder) (capped : Bool) : (r.round capped).blockList.Perm r.blockList := by
  refine Recorder.round_keeps (P := fun x => x.blockList.Perm r.blockList) capped ?_ r (List.Perm.refl _)
  intro x c b rest got hs he hx
  unfold Recorder.eligible at he
  split at he
  · cases he
  · rename_i ch hc
    exact (Recorder.grant_blockList hs hc).trans hx

/-- The oldest entry's blocks go back to the pool. -/
theorem Recorder.retire_blockList (r : Recorder) : r.retire.blockList.Perm r.blockList := by
  unfold Recorder.retire
  split
  · exact List.Perm.refl _
  · rename_i e es hq
    refine (Recorder.round_blockList _ _).trans ?_
    have hs := Recorder.returnBlocks_spare { r with pendingQueue := es } e.blocks
    rw [List.perm_iff_count] at hs ⊢
    intro x
    have hs := hs x
    simp only [Recorder.blockList, returnBlocks_chans, returnBlocks_pendingQueue, hq, List.flatMap_cons,
      List.count_append] at hs ⊢
    omega

/-- CLEAR_CHANNEL moves blocks inside the holding only. -/
theorem Channel.cleared_holding (ch : Channel) : ch.cleared.holding.Perm ch.holding := by
  have h := foldl_insertAsc_perm (ch.ring ++ ch.current.toList) ch.empty
  unfold Channel.cleared Channel.holding
  simp only [Option.toList_none, List.append_nil, List.nil_append]
  exact h.trans List.perm_append_comm

/-- Law 1: every move keeps the multiset of blocks. -/
theorem Recorder.Moves.blockList {r r' : Recorder} (h : Recorder.Moves r r') : r'.blockList.Perm r.blockList := by
  induction h with
  | refl => exact List.Perm.refl _
  | trans _ _ ih₁ ih₂ => exact ih₂.trans ih₁
  | offer r c rec =>
    rcases r.offer_cases c rec with he | ⟨ch, ch', m, hc, he, hp, _⟩
    · rw [he]
    · rw [he]; exact Recorder.blockList_set hc hp m
  | notes r p st cap h => exact List.Perm.refl _
  | summaryOnly r e _ he =>
    have hb : e.blocks = [] := by unfold PendingEntry.blocks; rw [he]; rfl
    simp [Recorder.blockList, Recorder.append, hb]
  | frozen r e _ he =>
    have hr := Recorder.round_blockList r.freeze.1 true
    have hf := Recorder.freeze_blockList r e he
    rw [List.perm_iff_count] at hr hf ⊢
    intro x
    have hr := hr x
    have hf := hf x
    simp only [Recorder.blockList, Recorder.append, Recorder.round_pendingQueue, Recorder.freeze_pendingQueue,
      List.flatMap_append, List.count_append] at hr hf ⊢
    omega
  | retire r => exact Recorder.retire_blockList r
  | clear r c ch hc => exact Recorder.blockList_set hc (ch.cleared_holding) r.blocks
  | clearLost r =>
    have hm : (r.chans.map fun (ch : Channel) => { ch with lost := 0 }).flatMap Channel.holding =
        r.chans.flatMap Channel.holding := by rw [List.flatMap_map]; rfl
    simp only [Recorder.blockList, Recorder.clearLost, hm]
    exact List.Perm.refl _

/-- A property of channels that every single move keeps for each channel. -/
theorem Recorder.Moves.channels {Q : Channel → Prop} {r r' : Recorder} (h : Recorder.Moves r r')
    (offer : ∀ ch ch' : Channel, Q ch → ch'.holding.Perm ch.holding → ch'.alloc = ch.alloc → ch'.enable = ch.enable →
      (ch.lost ≤ 65535 → ch'.lost ≤ 65535) → Q ch')
    (grant : ∀ (ch : Channel) (b : Nat), Q ch → ch.enable = true → ch.holding.length < ch.alloc →
      Q { ch with empty := insertAsc b ch.empty })
    (freeze : ∀ ch : Channel, Q ch → Q ch.emptied) :
    (∀ ch ∈ r.chans, Q ch) → ∀ ch ∈ r'.chans, Q ch := by
  have hgrant : ∀ (r : Recorder) (c b : Nat) (rest got : List Nat) (capped : Bool), r.spare = b :: rest →
      r.eligible capped got c = true → (∀ ch ∈ r.chans, Q ch) → ∀ ch ∈ (r.grant c b rest).chans, Q ch := by
    intro r c b rest got capped _ he hr ch hch
    unfold Recorder.eligible at he
    split at he
    · cases he
    · rename_i old hc
      simp only [Bool.and_eq_true, decide_eq_true_eq] at he
      obtain ⟨i, hi⟩ := List.getElem?_of_mem hch
      simp only [Recorder.grant, List.getElem?_modify] at hi
      cases hx : r.chans[i]? with
      | none => simp [hx] at hi
      | some x =>
        have hxm := List.mem_of_getElem? hx
        rw [hx] at hi
        by_cases hci : c = i
        · subst hci
          rw [hc] at hx
          cases hx
          simp at hi
          rw [← hi]
          exact grant old b (hr _ hxm) he.1.1 he.1.2
        · simp [hci] at hi
          rw [← hi]; exact hr _ hxm
  refine h.keeps (P := fun r => ∀ ch ∈ r.chans, Q ch) ?_ (fun _ _ _ _ _ h => h) (fun _ _ _ _ h => h) ?_ ?_ ?_ ?_
  · intro r c rec hr
    rcases r.offer_cases c rec with he | ⟨ch, ch', m, hc, he, hp, ha, hen, hl, _⟩
    · rw [he]; exact hr
    · rw [he]
      intro x hx
      rcases List.mem_or_eq_of_mem_set hx with hx | rfl
      · exact hr x hx
      · exact offer ch _ (hr ch (List.mem_of_getElem? hc)) hp ha hen hl
  · intro r e _ _ hr
    refine Recorder.round_keeps (P := fun x => ∀ ch ∈ x.chans, Q ch) true
      (fun r c b rest got hs he hx => hgrant r c b rest got true hs he hx) _ ?_
    intro x hx
    simp only [Recorder.freeze, Recorder.returnBlocks_chans, List.mem_map] at hx
    obtain ⟨ch, hch, rfl⟩ := hx
    split
    · exact freeze ch (hr ch hch)
    · exact hr ch hch
  · intro r hr
    unfold Recorder.retire
    split
    · exact hr
    · exact Recorder.round_keeps (P := fun x => ∀ ch ∈ x.chans, Q ch) false
        (fun r c b rest got hs he hx => hgrant r c b rest got false hs he hx) _ hr
  · intro r c ch hc hr x hx
    rcases List.mem_or_eq_of_mem_set hx with hx | rfl
    · exact hr x hx
    · exact offer ch _ (hr ch (List.mem_of_getElem? hc)) ch.cleared_holding rfl rfl (fun _ => by simp [Channel.cleared])
  · intro r hr x hx
    simp only [Recorder.clearLost, List.mem_map] at hx
    obtain ⟨ch, hch, rfl⟩ := hx
    exact offer ch _ (hr ch hch) (List.Perm.refl _) rfl rfl (fun _ => by simp)

/-- Law 2 is kept by moves. -/
theorem Recorder.Moves.holdingsBounded {r r' : Recorder} (h : Recorder.Moves r r') :
    r.HoldingsBounded → r'.HoldingsBounded := by
  refine h.channels (Q := fun ch => ch.holding.length ≤ ch.alloc ∧ (ch.enable = false → ch.holding = [])) ?_ ?_ ?_
  · intro ch ch' hq hp ha he _
    refine ⟨hp.length_eq ▸ ha ▸ hq.1, fun hf => ?_⟩
    have := hq.2 (he ▸ hf)
    rw [this] at hp
    exact hp.eq_nil
  · intro ch b hq he hl
    have hp : ({ ch with empty := insertAsc b ch.empty } : Channel).holding.Perm (b :: ch.holding) := by
      unfold Channel.holding
      exact ((insertAsc_perm b ch.empty).append_left _).trans List.perm_middle
    refine ⟨?_, fun hf => ?_⟩
    · rw [hp.length_eq]; exact hl
    · simp [he] at hf
  · intro ch _
    exact ⟨Nat.zero_le _, fun _ => rfl⟩

/-- The lost-record counts stay within their range. -/
theorem Recorder.Moves.lost_bounded {r r' : Recorder} (h : Recorder.Moves r r') :
    (∀ ch ∈ r.chans, ch.lost ≤ 65535) → ∀ ch ∈ r'.chans, ch.lost ≤ 65535 :=
  h.channels (fun _ _ hq _ _ _ hl => hl hq) (fun _ _ hq _ _ => hq) (fun _ hq => hq)

/-! ### The order of the lists of empty blocks (R140, R141) -/

theorem foldl_insertAsc_pairwise (bs acc : List Nat) (h : acc.Pairwise (· ≤ ·)) :
    (bs.foldl (fun sp b => insertAsc b sp) acc).Pairwise (· ≤ ·) := by
  induction bs generalizing acc with
  | nil => exact h
  | cons b bs ih => exact ih _ (insertAsc_pairwise b acc h)

/-- A block made current is the first of the empty granted blocks, or none of them (R140). -/
theorem Channel.openBlock_empty (ch : Channel) (t : Time) : (ch.openBlock t).empty.Sublist ch.empty := by
  unfold Channel.openBlock
  split
  · rename_i e es h
    rw [h]; exact List.sublist_cons_self e es
  · rename_i h _
    rw [h]
  · exact List.Sublist.refl _

theorem Channel.put_empty (ch : Channel) (c : Nat) (r : TraceRecord) (key : Bool) (bytes : List Byte) (m : Memory) :
    (ch.put c r key bytes m).1.empty = ch.empty := by
  unfold Channel.put; split <;> rfl

theorem Channel.writeRecord_empty (ch : Channel) (c : Nat) (r : TraceRecord) (m : Memory) :
    (ch.writeRecord c r m).1.empty.Sublist ch.empty := by
  unfold Channel.writeRecord
  dsimp only
  generalize (if ch.needsKey r = true then keyBytes r else otherBytes ch r) = bytes
  split
  · rw [Channel.put_empty]
  · rw [Channel.put_empty]; exact ch.openBlock_empty r.time

/-- A grant keeps the order of both lists (R141). -/
theorem Recorder.grant_ordered {r : Recorder} {c b : Nat} {rest : List Nat} (hs : r.spare = b :: rest)
    (h : r.spare.Pairwise (· ≤ ·) ∧ ∀ ch ∈ r.chans, ch.empty.Pairwise (· ≤ ·)) :
    (r.grant c b rest).spare.Pairwise (· ≤ ·) ∧ ∀ ch ∈ (r.grant c b rest).chans, ch.empty.Pairwise (· ≤ ·) := by
  refine ⟨(List.pairwise_cons.mp (hs ▸ h.1)).2, fun ch hch => ?_⟩
  obtain ⟨i, hi⟩ := List.getElem?_of_mem hch
  simp only [Recorder.grant, List.getElem?_modify] at hi
  cases hx : r.chans[i]? with
  | none => simp [hx] at hi
  | some x =>
    have hxo := h.2 x (List.mem_of_getElem? hx)
    rw [hx] at hi
    by_cases hci : c = i
    · subst hci
      simp at hi
      rw [← hi]; exact insertAsc_pairwise b x.empty hxo
    · simp [hci] at hi
      rw [← hi]; exact hxo

/-- Moves keep the spare pool and every list of empty granted blocks in order. -/
theorem Recorder.Moves.ordered {r r' : Recorder} (h : Recorder.Moves r r') :
    r.spare.Pairwise (· ≤ ·) ∧ (∀ ch ∈ r.chans, ch.empty.Pairwise (· ≤ ·)) →
      r'.spare.Pairwise (· ≤ ·) ∧ ∀ ch ∈ r'.chans, ch.empty.Pairwise (· ≤ ·) := by
  refine h.keeps (P := fun r => r.spare.Pairwise (· ≤ ·) ∧ ∀ ch ∈ r.chans, ch.empty.Pairwise (· ≤ ·))
    ?_ (fun _ _ _ _ _ h => h) (fun _ _ _ _ h => h) ?_ ?_ ?_ ?_
  · intro r c rec hr
    unfold Recorder.offer
    split
    · exact hr
    · rename_i ch hc
      have hch := hr.2 ch (List.mem_of_getElem? hc)
      split
      · exact hr
      · refine ⟨hr.1, fun x hx => ?_⟩
        rcases List.mem_or_eq_of_mem_set hx with hx | rfl
        · exact hr.2 x hx
        · exact hch.sublist (ch.writeRecord_empty c rec r.blocks)
      · split
        · refine ⟨hr.1, fun x hx => ?_⟩
          rcases List.mem_or_eq_of_mem_set hx with hx | rfl
          · exact hr.2 x hx
          · exact hch
        · exact hr
  · intro r e _ _ hr
    refine Recorder.round_keeps (P := fun r => r.spare.Pairwise (· ≤ ·) ∧ ∀ ch ∈ r.chans, ch.empty.Pairwise (· ≤ ·))
      true (fun r c b rest _ hs _ hx => Recorder.grant_ordered hs hx) _
      ⟨foldl_insertAsc_pairwise _ _ hr.1, fun x hx => ?_⟩
    simp only [Recorder.freeze, Recorder.returnBlocks_chans, List.mem_map] at hx
    obtain ⟨ch, hch, rfl⟩ := hx
    split
    · exact List.Pairwise.nil
    · exact hr.2 ch hch
  · intro r hr
    unfold Recorder.retire
    split
    · exact hr
    · exact Recorder.round_keeps (P := fun r => r.spare.Pairwise (· ≤ ·) ∧ ∀ ch ∈ r.chans, ch.empty.Pairwise (· ≤ ·))
        false (fun r c b rest _ hs _ hx => Recorder.grant_ordered hs hx) _
        ⟨foldl_insertAsc_pairwise _ _ hr.1, hr.2⟩
  · intro r c ch hc hr
    refine ⟨hr.1, fun x hx => ?_⟩
    rcases List.mem_or_eq_of_mem_set hx with hx | rfl
    · exact hr.2 x hx
    · exact foldl_insertAsc_pairwise _ _ (hr.2 ch (List.mem_of_getElem? hc))
  · intro r hr
    refine ⟨hr.1, fun x hx => ?_⟩
    simp only [Recorder.clearLost, List.mem_map] at hx
    obtain ⟨ch, hch, rfl⟩ := hx
    exact hr.2 ch hch

end Sys2Proof.Machine
end

