-- ==== Sys2Proof/Laws/Delivery.lean ====
section
/-! SUPPORT. What a unit's messages can do, said once: `State.Delivers`. Counting, event records, urgent entries, triggers
with the incidents that they open and close, and the start test of the Store Engine all change the urgent queue, the
counters, the Recorder and five fields of the Store Engine, and nothing else. -/

namespace Sys2Proof.Machine

/-- What delivering messages can do to a state. -/
structure State.Delivers (s t : State) : Prop where
  frame : t = { s with
    line := { s.line with queue := t.line.queue }
    store := { s.store with phase := t.store.phase, job := t.store.job, requests := t.store.requests,
                            nextNumber := t.store.nextNumber, exhausted := t.store.exhausted }
    counters := t.counters
    recorder := t.recorder }
  moves : Recorder.Moves s.recorder t.recorder
  urgent : s.UrgentSound → t.UrgentSound
  counts : (∀ i, s.counters.get i ≤ 65535) → ∀ i, t.counters.get i ≤ 65535
  grows : ∀ i, s.counters.get i ≤ t.counters.get i
  scans : t.store.scanOps = s.store.scanOps
  numbers : s.store.nextNumber ≤ t.store.nextNumber
  sound : s.RecorderSound → t.RecorderSound

theorem State.Delivers.refl (s : State) : State.Delivers s s :=
  ⟨rfl, .refl _, id, id, fun _ => le_rfl, rfl, le_rfl, id⟩

theorem State.Delivers.trans {s t u : State} (h : State.Delivers s t) (h' : State.Delivers t u) :
    State.Delivers s u := by
  refine ⟨?_, h.moves.trans h'.moves, h'.urgent ∘ h.urgent, h'.counts ∘ h.counts,
    fun i => (h.grows i).trans (h'.grows i), h'.scans.trans h.scans, h.numbers.trans h'.numbers, h'.sound ∘ h.sound⟩
  have h₁ := h'.frame
  rw [h.frame] at h₁
  rw [h₁]

section fields
variable {s t : State} (h : State.Delivers s t)
include h

theorem State.Delivers.clock : t.clock = s.clock := by rw [h.frame]
theorem State.Delivers.runPhase : t.runPhase = s.runPhase := by rw [h.frame]
theorem State.Delivers.address : t.address = s.address := by rw [h.frame]
theorem State.Delivers.cfgdef : t.cfgdef = s.cfgdef := by rw [h.frame]
theorem State.Delivers.config : t.config = s.config := by rw [h.frame]
theorem State.Delivers.source : t.source = s.source := by rw [h.frame]
theorem State.Delivers.powerFail : t.powerFail = s.powerFail := by rw [h.frame]
theorem State.Delivers.handleLevel : t.handleLevel = s.handleLevel := by rw [h.frame]
theorem State.Delivers.acq : t.acq = s.acq := by rw [h.frame]
theorem State.Delivers.slide : t.slide = s.slide := by rw [h.frame]
theorem State.Delivers.demand : t.demand = s.demand := by rw [h.frame]
theorem State.Delivers.sharing : t.sharing = s.sharing := by rw [h.frame]
theorem State.Delivers.outputs : t.outputs = s.outputs := by rw [h.frame]
theorem State.Delivers.peers : t.peers = s.peers := by rw [h.frame]
theorem State.Delivers.service : t.service = s.service := by rw [h.frame]
theorem State.Delivers.flash : t.flash = s.flash := by rw [h.frame]
theorem State.Delivers.serviceOut : t.serviceOut = s.serviceOut := by rw [h.frame]
theorem State.Delivers.pending : t.pending = s.pending := by rw [h.frame]
theorem State.Delivers.line : t.line = { s.line with queue := t.line.queue } := by rw [h.frame]
theorem State.Delivers.lines : t.store.lines = s.store.lines := by rw [h.frame]
theorem State.Delivers.inFlight : t.store.inFlight = s.store.inFlight := by rw [h.frame]

end fields

/-! ### Counters -/

@[simp] theorem Counters.get_set_self (c : Counters) (i : CounterId) (n : Nat) : (c.set i n).get i = n := by
  cases i <;> rfl

theorem Counters.get_set_other (c : Counters) {i j : CounterId} (n : Nat) (h : j ≠ i) :
    (c.set i n).get j = c.get j := by
  cases i <;> cases j <;> first | rfl | exact absurd rfl h

/-- A change of the Recorder alone that is a move and leaves its incident state and capture. -/
theorem State.Delivers.of_recorder (s : State) (r : Recorder) (hm : Recorder.Moves s.recorder r)
    (hs : r.state = s.recorder.state) (hc : r.capture.isSome = s.recorder.capture.isSome) :
    State.Delivers s { s with recorder := r } :=
  ⟨rfl, hm, id, id, fun _ => le_rfl, rfl, le_rfl, fun ⟨h₁, h₂, h₃⟩ =>
    ⟨by simp only [hs, hc]; exact h₁, hm.pending_bounded h₂, by simpa [hs] using h₃⟩⟩

/-- Event records. -/
theorem State.logEvent_delivers (s : State) (source : EventSource) (detail : List Byte) :
    State.Delivers s (s.logEvent source detail) := by
  have h := Recorder.logEvent_onlyChannels s.recorder s.now source detail
  refine .of_recorder s _ (Recorder.logEvent_moves s.recorder s.now source detail) ?_ ?_ <;> rw [h]

/-- Counting. -/
theorem State.bump_delivers (s : State) (i : CounterId) : State.Delivers s (s.bump i) := by
  unfold State.bump
  split
  · rename_i hlt
    have h : State.Delivers s { s with counters := s.counters.set i (s.counters.get i + 1) } := by
      refine ⟨rfl, .refl _, id, ?_, ?_, rfl, le_rfl, id⟩
      · intro hc j
        by_cases hj : j = i
        · subst hj; simp only [Counters.get_set_self]; omega
        · simp only [Counters.get_set_other _ _ hj]; exact hc j
      · intro j
        by_cases hj : j = i
        · subst hj; simp only [Counters.get_set_self]; omega
        · simp only [Counters.get_set_other _ _ hj]; exact le_rfl
    dsimp only
    split
    · exact h.trans (State.logEvent_delivers _ _ _)
    · exact h
  · exact .refl s

theorem State.bumpN_delivers (n : Nat) (s : State) (i : CounterId) : State.Delivers s (s.bumpN i n) := by
  induction n generalizing s with
  | zero => exact .refl s
  | succ n ih => exact (State.bump_delivers s i).trans (ih _)

/-- The channel-state records that close an event. -/
theorem State.recordChannels_delivers (before after : State) : State.Delivers after (before.recordChannels after) := by
  unfold State.recordChannels
  generalize (before.recorder.chans.zip after.recorder.chans).zipIdx = ps
  induction ps generalizing after with
  | nil => exact .refl _
  | cons p ps ih =>
    simp only [List.foldl_cons]
    split
    · exact (State.logEvent_delivers _ _ _).trans (ih _)
    · exact ih _

/-! ### Urgent entries -/

theorem replaceIn_length (new : TxFrame) (l q : List TxFrame) (h : replaceIn new l = some q) :
    q.length = l.length := by
  induction l generalizing q with
  | nil => cases h
  | cons f fs ih =>
    simp only [replaceIn] at h
    split at h
    · cases h; rfl
    · cases hr : replaceIn new fs with
      | none => simp [hr] at h
      | some q' => simp [hr] at h; rw [← h]; simp [ih q' hr]

/-- Replacing an entry of a full queue leaves its length. -/
theorem replaceInQueue_length (inTx : Bool) (new : TxFrame) (l q : List TxFrame)
    (h : replaceInQueue inTx new l = some q) : q.length = l.length := by
  cases l with
  | nil => cases h
  | cons f fs =>
    simp only [replaceInQueue] at h
    split at h
    · cases hr : replaceIn new fs with
      | none => simp [hr] at h
      | some q' => simp [hr] at h; rw [← h]; simp [replaceIn_length new fs q' hr]
    · exact replaceIn_length new _ q h

/-- A change of the urgent queue alone, in ACTIVE, to at most four entries. -/
theorem State.Delivers.of_queue (s : State) (q : List TxFrame) (ha : s.line.state = .active)
    (hq : s.UrgentSound → q.length ≤ 4) : State.Delivers s { s with line := { s.line with queue := q } } :=
  ⟨rfl, .refl _, fun h => ⟨hq h, fun hn => absurd ha hn⟩, id, fun _ => le_rfl, rfl, le_rfl, id⟩

theorem State.handUrgent_delivers (s : State) (kind : FrameKind) (payload : List Byte) :
    State.Delivers s (s.handUrgent kind payload) := by
  unfold State.handUrgent
  split
  · exact State.bump_delivers _ _
  · rename_i ha
    have ha : s.line.state = .active := by simpa using ha
    split
    · rename_i hl
      exact .of_queue s _ ha fun _ => by simp; omega
    · split
      · rename_i q hq
        have hlen := replaceInQueue_length _ _ _ _ hq
        exact (State.Delivers.of_queue s q ha fun h => hlen ▸ h.1).trans (State.bump_delivers _ _)
      · exact State.bump_delivers _ _

/-! ### The start test of the Store Engine -/

theorem Store.scanOps_ask (st : Store) (op : FlashOp) (h : ∀ k, op ≠ .scanRead k) :
    (st.ask op).scanOps = st.scanOps := by
  unfold Store.scanOps Store.ask
  rw [← List.append_assoc, List.filter_append]
  cases op <;> simp_all

/-- The oldest entry dropped. -/
theorem State.dropEntry_delivers (s : State) : State.Delivers s s.dropEntry := by
  unfold State.dropEntry
  refine .trans ?_ (State.bump_delivers _ _)
  have hm := Recorder.Moves.retire s.recorder
  refine ⟨rfl, hm, id, id, fun _ => le_rfl, rfl, le_rfl, fun ⟨h₁, h₂, h₃⟩ => ⟨?_, hm.pending_bounded h₂, ?_⟩⟩
  · rw [Recorder.retire_capture, Recorder.retire_state]; exact h₁
  · rw [Recorder.retire_state]; exact h₃

theorem State.beginStore_delivers (s : State) (t : Nat) : State.Delivers s (s.beginStore t) := by
  refine ⟨rfl, .refl _, id, id, fun _ => le_rfl, ?_, le_rfl, fun ⟨h₁, h₂, h₃⟩ => ⟨h₁, h₂, ?_⟩⟩
  · exact Store.scanOps_ask _ _ (by simp)
  · have h : (s.beginStore t).store.scanOps = s.store.scanOps := Store.scanOps_ask _ _ (by simp)
    rw [h]; exact h₃

theorem State.startTests_delivers (n : Nat) (s : State) : State.Delivers s (s.startTests n) := by
  induction n generalizing s with
  | zero => exact .refl s
  | succ n ih =>
    simp only [State.startTests]
    split
    · split
      · exact State.beginStore_delivers s _
      · exact (State.dropEntry_delivers s).trans (ih _)
    · exact .refl s

/-- The start test (R165). -/
theorem State.startTest_delivers (s : State) : State.Delivers s s.startTest := State.startTests_delivers _ s

/-! ### Incidents -/

/-- Outside SCANNING no read of the scan waits or runs. -/
theorem State.RecorderSound.no_scan {s : State} (h : s.RecorderSound) (hs : s.recorder.state ≠ .scanning) :
    s.store.scanOps = [] := by
  by_contra hne
  exact hs (h.2.2.2 hne)

/-- A trigger opens an incident. -/
theorem State.openIncident_delivers (s : State) (t : Trigger) (hns : s.recorder.state ≠ .scanning) :
    State.Delivers s (s.openIncident t) := by
  have h : State.Delivers s { s with
      recorder := { s.recorder with
        capture := some (s.newIncident t), state := .capturing, peaks := resetPeaks,
        holdoff := holdoffAfter t s.now s.recorder.holdoff }
      store := s.store.takeNumber } := by
    have hsc : s.store.takeNumber.scanOps = s.store.scanOps := by
      unfold Store.takeNumber; split <;> rfl
    have hm := Recorder.Moves.notes s.recorder resetPeaks .capturing (some (s.newIncident t))
      (holdoffAfter t s.now s.recorder.holdoff)
    refine ⟨?_, hm, id, id, fun _ => le_rfl, hsc, ?_, fun hr => ⟨by simp, hm.pending_bounded hr.2.1, ?_⟩⟩
    · unfold Store.takeNumber; split <;> rfl
    · unfold Store.takeNumber; split
      · exact le_rfl
      · exact Nat.le_succ _
    · simp only [hsc, hr.no_scan hns]
      simp
  unfold State.openIncident
  dsimp only
  split
  · exact h.trans (State.handUrgent_delivers _ _ _)
  · exact h

/-- A trigger appended to the incident in capture. -/
theorem State.appendCause_delivers (s : State) (t : Trigger) (inc : Incident) (hc : s.recorder.capture = some inc) :
    State.Delivers s (s.appendCause t inc) := by
  refine .of_recorder s _ (Recorder.Moves.notes s.recorder s.recorder.peaks s.recorder.state _ _) rfl ?_
  simp [hc]

/-- The close of the incident in capture. -/
theorem State.closeIncident_delivers (s : State) (truncated : Bool) : State.Delivers s (s.closeIncident truncated) := by
  unfold State.closeIncident
  split
  · exact .refl s
  · rename_i i hc
    have hns : s.RecorderSound → s.store.scanOps = [] := by
      intro h
      have hst := h.1.mp (by simp [hc])
      exact h.no_scan (by simp [hst])
    dsimp only
    split
    · refine .trans ?_ (State.bump_delivers _ _)
      have hm := Recorder.Moves.notes s.recorder s.recorder.peaks .idle none s.recorder.holdoff
      exact ⟨rfl, hm, id, id, fun _ => le_rfl, rfl, le_rfl, fun h =>
        ⟨by simp, hm.pending_bounded h.2.1, by simp [hns h]⟩⟩
    · rename_i hl
      have hl : s.recorder.pendingQueue.length < 4 := by omega
      have hadm : ∀ (r : Recorder) (absent : Bool) (fs : List FrozenList),
          (∀ e : PendingEntry, e.frozen = fs → Recorder.Moves s.recorder (r.append e)) →
          State.Delivers s (s.queueClosed r { i with truncated := truncated } absent fs) := by
        intro r absent fs hm
        unfold State.queueClosed
        refine .trans ?_ (State.startTest_delivers _)
        have hm := hm ⟨{ i with truncated := truncated }, s.now, absent,
          Incident.requestsRetention { i with truncated := truncated }, fs⟩ rfl
        exact ⟨rfl, hm, id, id, fun _ => le_rfl, rfl, le_rfl, fun h =>
          ⟨by simp, hm.pending_bounded h.2.1, by simp [hns h]⟩⟩
      split
      · exact hadm _ _ _ fun e he => Recorder.Moves.summaryOnly s.recorder e hl he
      · exact hadm _ _ _ fun e he => Recorder.Moves.frozen s.recorder e hl he

/-- The Recorder takes a trigger. -/
theorem State.raise_delivers (s : State) (t : Trigger) : State.Delivers s (s.raise t) := by
  unfold State.raise
  split
  · exact State.bump_delivers _ _
  · rename_i hns
    split
    · exact .refl s
    · split
      · exact State.bump_delivers _ _
      · split
        · exact State.bump_delivers _ _
        · split
          · rename_i inc hc
            exact State.appendCause_delivers s t inc hc
          · split
            · exact State.bump_delivers _ _
            · split
              · exact (State.openIncident_delivers s t hns).trans (State.closeIncident_delivers _ _)
              · exact State.openIncident_delivers s t hns

theorem State.deliver_delivers (s : State) (m : Message) : State.Delivers s (s.deliver m) := by
  cases m with
  | event source detail => exact State.logEvent_delivers s source detail
  | trigger t => exact State.raise_delivers s t
  | urgent kind payload => exact State.handUrgent_delivers s kind payload
  | count i => exact State.bump_delivers s i

/-- Messages delivered. -/
theorem State.deliverAll_delivers (s : State) (ms : List Message) : State.Delivers s (s.deliverAll ms) := by
  unfold State.deliverAll
  induction ms generalizing s with
  | nil => exact .refl s
  | cons m ms ih => exact (State.deliver_delivers s m).trans (ih _)

/-- A trace record, and what follows it in the channels' memory and the peaks. -/
theorem State.Delivers.of_trace (s : State) (sel : Channel → Bool) (rec : TraceRecord) (f : Recorder → Recorder)
    (hm : ∀ r, Recorder.Moves r (f r)) (hs : ∀ r, (f r).state = r.state) (hc : ∀ r, (f r).capture = r.capture) :
    State.Delivers s { s with recorder := f (s.recorder.trace sel rec) } := by
  have h := Recorder.trace_onlyChannels s.recorder sel rec
  refine .of_recorder s _ ((Recorder.trace_moves s.recorder sel rec).trans (hm _)) ?_ ?_
  · rw [hs, h]
  · rw [hc, h]

theorem State.mirror_delivers (s : State) (bit : Nat) (own : Bool) (body check : List Byte) :
    State.Delivers s (s.mirror bit own body check) := by
  have h := State.Delivers.of_trace s (fun ch => ofKind .peerMirror ch && ch.mirror.getLsbD bit)
    (mirrorRecord s.now own body check s.line.state) (fun r => r) .refl (fun _ => rfl) (fun _ => rfl)
  unfold State.mirror
  exact h

theorem State.recordSpeeds_delivers (s : State) : State.Delivers s s.recordSpeeds := by
  have h := State.Delivers.of_trace s (ofKind .speedTrace)
    (speedRecord s.now s.slide.vref s.slide.speedAssisted (s.acq.axles.map AxleSpeed.v)
      (s.acq.axles.map AxleSpeed.valid) (s.slide.machines.map AxleMachine.state))
    (fun r => r.peakSlip (s.slide.machines.map AxleMachine.lastQ) s.now) (fun r => r.peakSlip_moves _ _)
    (fun _ => rfl) (fun _ => rfl)
  exact h

theorem State.recordBlend_delivers (s : State) : State.Delivers s s.recordBlend := by
  have h := State.Delivers.of_trace s (ofKind .blendTrace)
    (blendRecord s.now s.demand.mode [s.demand.d, s.sharing.sd, s.sharing.ce, s.sharing.et, s.outputs.ecmd,
      s.outputs.status.eact, s.sharing.ft, s.outputs.fcmd, s.sharing.u, s.outputs.bcOut])
    (fun r => r.peakBlend s.sharing.u ((s.outputs.ecmd : Int) - s.outputs.status.eact) s.now)
    (fun r => r.peakBlend_moves _ _ _) (fun _ => rfl) (fun _ => rfl)
  exact h

theorem State.recordPressures_delivers (s : State) : State.Delivers s s.recordPressures := by
  unfold State.recordPressures
  split
  · exact .refl s
  · rename_i p _
    have h := State.Delivers.of_trace s (ofKind .pressureTrace) (pressureRecord p)
      (fun r => r.peakPressure p.chans.bp.value p.chans.bc.value s.now) (fun r => r.peakPressure_moves _ _ _)
      (fun _ => rfl) (fun _ => rfl)
    exact h

end Sys2Proof.Machine
end

