-- ==== Sys2Proof/Laws/Line.lean ====
section
/-! SUPPORT. What the Line Unit's operations can do, said once: `State.Talks`. They change the Line Unit's state for the
line and what messages change, and nothing else. -/

namespace Sys2Proof.Machine

/-- What the Line Unit's operations can do to a state. -/
structure State.Talks (s t : State) : Prop where
  frame : t = { s with
    line := t.line
    store := { s.store with phase := t.store.phase, job := t.store.job, requests := t.store.requests,
                            nextNumber := t.store.nextNumber, exhausted := t.store.exhausted }
    counters := t.counters
    recorder := t.recorder }
  moves : Recorder.Moves s.recorder t.recorder
  urgent : s.UrgentSound → t.UrgentSound
  counts : (∀ i, s.counters.get i ≤ 65535) → ∀ i, t.counters.get i ≤ 65535
  grows : ∀ i, s.counters.get i ≤ t.counters.get i
  scans : t.store.scanOps = s.store.scanOps
  numbers : s.store.nextNumber ≤ t.store.nextNumber
  sound : s.RecorderSound → t.RecorderSound

theorem State.Talks.refl (s : State) : State.Talks s s :=
  ⟨rfl, .refl _, id, id, fun _ => le_rfl, rfl, le_rfl, id⟩

theorem State.Talks.trans {s t u : State} (h : State.Talks s t) (h' : State.Talks t u) : State.Talks s u := by
  refine ⟨?_, h.moves.trans h'.moves, h'.urgent ∘ h.urgent, h'.counts ∘ h.counts,
    fun i => (h.grows i).trans (h'.grows i), h'.scans.trans h.scans, h.numbers.trans h'.numbers, h'.sound ∘ h.sound⟩
  have h₁ := h'.frame
  rw [h.frame] at h₁
  rw [h₁]

theorem State.Delivers.talks {s t : State} (h : State.Delivers s t) : State.Talks s t := by
  refine ⟨?_, h.moves, h.urgent, h.counts, h.grows, h.scans, h.numbers, h.sound⟩
  conv => lhs; rw [h.frame]
  rw [← h.line]

/-- A change of the line alone that keeps the bounds of the urgent queue. -/
theorem State.Talks.of_line (s : State) (l : Line)
    (h : s.UrgentSound → l.queue.length ≤ 4 ∧ (l.state ≠ .active → l.queue = [])) :
    State.Talks s { s with line := l } :=
  ⟨rfl, .refl _, h, id, fun _ => le_rfl, rfl, le_rfl, id⟩

/-- A change of the line that leaves its state and the urgent queue. -/
theorem State.Talks.of_line_same (s : State) (l : Line) (hq : l.queue = s.line.queue)
    (hs : l.state = s.line.state) : State.Talks s { s with line := l } :=
  .of_line s l fun h => by rw [hq, hs]; exact h

/-- The same change first, then what follows it. -/
theorem State.Talks.line_then {s u : State} {l : Line} (h : State.Talks { s with line := l } u)
    (hq : l.queue = s.line.queue) (hs : l.state = s.line.state) : State.Talks s u :=
  .trans (.of_line_same s l hq hs) h

section fields
variable {s t : State} (h : State.Talks s t)
include h

theorem State.Talks.clock : t.clock = s.clock := by rw [h.frame]
theorem State.Talks.runPhase : t.runPhase = s.runPhase := by rw [h.frame]
theorem State.Talks.address : t.address = s.address := by rw [h.frame]
theorem State.Talks.cfgdef : t.cfgdef = s.cfgdef := by rw [h.frame]
theorem State.Talks.config : t.config = s.config := by rw [h.frame]
theorem State.Talks.source : t.source = s.source := by rw [h.frame]
theorem State.Talks.powerFail : t.powerFail = s.powerFail := by rw [h.frame]
theorem State.Talks.handleLevel : t.handleLevel = s.handleLevel := by rw [h.frame]
theorem State.Talks.acq : t.acq = s.acq := by rw [h.frame]
theorem State.Talks.slide : t.slide = s.slide := by rw [h.frame]
theorem State.Talks.demand : t.demand = s.demand := by rw [h.frame]
theorem State.Talks.sharing : t.sharing = s.sharing := by rw [h.frame]
theorem State.Talks.outputs : t.outputs = s.outputs := by rw [h.frame]
theorem State.Talks.peers : t.peers = s.peers := by rw [h.frame]
theorem State.Talks.service : t.service = s.service := by rw [h.frame]
theorem State.Talks.flash : t.flash = s.flash := by rw [h.frame]
theorem State.Talks.serviceOut : t.serviceOut = s.serviceOut := by rw [h.frame]
theorem State.Talks.pending : t.pending = s.pending := by rw [h.frame]
theorem State.Talks.lines : t.store.lines = s.store.lines := by rw [h.frame]
theorem State.Talks.inFlight : t.store.inFlight = s.store.inFlight := by rw [h.frame]

end fields

/-! ### Statements -/

theorem State.enterRoutine_talks (s : State) (f : TxFrame) : State.Talks s (s.enterRoutine f) := by
  unfold State.enterRoutine
  split
  · exact .of_line_same s _ rfl rfl
  · split
    · dsimp only
      split
      · exact .line_then (State.bump_delivers _ _).talks rfl rfl
      · exact .of_line_same s _ rfl rfl
    · exact .line_then (State.bump_delivers _ _).talks rfl rfl

/-- A statement queued. -/
theorem State.queueStatement_talks (s : State) : State.Talks s s.queueStatement :=
  .trans (State.enterRoutine_talks s (newFrame .statement (statementBytes s.buildStatement)))
    (.of_line_same _ _ rfl rfl)

theorem State.makeDue_talks (s : State) : State.Talks s s.makeDue := by
  unfold State.makeDue
  split
  · split
    · exact State.queueStatement_talks s
    · exact .of_line_same s _ rfl rfl
  · exact .refl s

theorem State.placeProbe_talks (s : State) : State.Talks s s.placeProbe := .of_line_same s _ rfl rfl

/-! ### Line states -/

/-- Entry into ACTIVE keeps the urgent queue. -/
theorem State.setLine_active_talks (s : State) (cause : EventCause) : State.Talks s (s.setLine .active cause) := by
  refine .trans ?_ (State.logEvent_delivers _ _ _).talks
  exact .of_line s _ fun h => ⟨h.1, fun hn => absurd rfl hn⟩

theorem State.listenEnds_talks (s : State) : State.Talks s s.listenEnds :=
  .trans (State.setLine_active_talks s .listenEnd) (.line_then (State.queueStatement_talks _) rfl rfl)

theorem State.probeSent_talks (s : State) : State.Talks s s.probeSent :=
  .trans (State.setLine_active_talks s .probeSent) (.of_line_same _ _ rfl rfl)

/-- Entry into a state in which the classes are emptied. -/
theorem State.setLine_emptied_talks (s : State) (new : LineState) (cause : EventCause) :
    State.Talks s (s.setLine new cause).emptyClasses := by
  unfold State.emptyClasses State.setLine
  refine .trans ?_ (State.bumpN_delivers _ _ _).talks
  refine (State.logEvent_delivers s .line
    (be8 (lineCode s.line.state) ++ be8 (lineCode new) ++ be8 (eventCauseCode cause))).talks.trans ?_
  exact .of_line _ _ fun _ => ⟨by simp, fun _ => rfl⟩

theorem State.isolate_talks (s : State) (kind : FrameKind) (why : Abandon) : State.Talks s (s.isolate kind why) := by
  unfold State.isolate
  exact .trans (State.setLine_emptied_talks s .isolated .trouble) (.line_then (State.deliver_delivers _ _).talks rfl rfl)

theorem State.abandoned_talks (s : State) (kind : FrameKind) (why : Abandon) :
    State.Talks s (s.abandoned kind why) := by
  unfold State.abandoned
  split
  · exact .of_line_same s _ rfl rfl
  · split
    · dsimp only
      split
      · exact .line_then (State.isolate_talks _ _ _) rfl rfl
      · exact .of_line_same s _ rfl rfl
    · exact .refl s

theorem State.clash_talks (s : State) (f : GoodFrame) : State.Talks s (s.clash f) := by
  have h₁ := (State.Talks.of_line_same s { s.line with clashes := min 2 (s.line.clashes + 1) } rfl rfl).trans
    (State.bump_delivers _ .addressClashes).talks
  unfold State.clash
  dsimp only
  split
  · exact .trans (.trans h₁ (State.setLine_emptied_talks _ .clashed .clash))
      (.line_then (State.deliver_delivers _ _).talks rfl rfl)
  · exact h₁

/-! ### Attempts -/

/-- The head of a class exchanged leaves the number of urgent entries. -/
theorem Line.setHead_bounds {l : Line} {c : TxClass} {f : TxFrame} (hf : l.head c = some f) (g : TxFrame)
    (h : l.queue.length ≤ 4 ∧ (l.state ≠ .active → l.queue = [])) :
    (l.setHead c g).queue.length ≤ 4 ∧ ((l.setHead c g).state ≠ .active → (l.setHead c g).queue = []) := by
  cases c with
  | urgent =>
    simp only [Line.head] at hf
    cases hq : l.queue with
    | nil => simp [hq] at hf
    | cons x xs =>
      rw [hq] at h
      simp only [Line.setHead, hq, List.tail_cons]
      exact ⟨by simpa using h.1, fun hn => by simpa using h.2 hn⟩
  | routine => exact h

theorem Line.leave_bounds {l : Line} (c : TxClass)
    (h : l.queue.length ≤ 4 ∧ (l.state ≠ .active → l.queue = [])) :
    (l.leave c).queue.length ≤ 4 ∧ ((l.leave c).state ≠ .active → (l.leave c).queue = []) := by
  cases c with
  | urgent =>
    refine ⟨?_, fun hn => ?_⟩
    · simp only [Line.leave, List.length_tail]; omega
    · simp only [Line.leave] at hn ⊢; rw [h.2 hn]; rfl
  | routine => exact h

/-- An attempt sends the frame of the head of its class, numbered, with its check word; the line is the transmitter's. -/
theorem State.startAttempt_sends (s : State) (c : TxClass) (f : TxFrame) (h : s.line.head c = some f) :
    (s.startAttempt c).line.tx = .sending c s.clock ∧
      (s.startAttempt c).line.frameOut = s.ownFrame (s.line.numbered f) ∧
      (s.startAttempt c).line.head c = some (s.line.numbered f) ∧
      (s.startAttempt c).line.nextSeq = (if f.seq.isSome then s.line.nextSeq else s.line.nextSeq + 1) := by
  unfold State.startAttempt
  rw [h]
  refine ⟨rfl, rfl, ?_, rfl⟩
  cases c with
  | urgent =>
    cases hq : s.line.queue with
    | nil => simp [Line.head, hq] at h
    | cons a l => simp [Line.head, Line.setHead, hq]
  | routine => rfl

/-- The start of an attempt changes the line alone. -/
theorem State.startAttempt_talks (s : State) (c : TxClass) : State.Talks s (s.startAttempt c) := by
  unfold State.startAttempt
  split
  · exact .refl s
  · rename_i f hf
    exact .of_line s _ fun h => Line.setHead_bounds hf (s.line.numbered f) h

/-- A counter leaves the line. -/
theorem State.bump_line (s : State) (i : CounterId) : (s.bump i).line = s.line := by
  unfold State.bump
  simp only [State.logEvent]
  split
  · split
    · rfl
    · rfl
  · rfl

theorem State.collide_talks (s : State) (c : TxClass) : State.Talks s (s.collide c) := by
  unfold State.collide
  split
  · exact .refl s
  · rename_i f hf
    have h₁ := (State.bump_delivers s .collisions).talks
    dsimp only
    split
    · refine h₁.trans (.of_line _ _ fun h => ?_)
      have := Line.setHead_bounds (l := (s.bump .collisions).line) (c := c) (f := f)
        (by rw [State.bump_line]; exact hf) { f with k := f.k + 1 } h
      exact this
    · refine (h₁.trans (State.bump_delivers _ .excessiveCollisions).talks).trans
        (.trans (.of_line _ _ fun h => ?_) (State.abandoned_talks _ _ _))
      exact Line.leave_bounds c h

theorem State.jamEnds_talks (s : State) (c : Option TxClass) : State.Talks s (s.jamEnds c) := by
  unfold State.jamEnds
  dsimp only
  split
  · exact .of_line_same s _ rfl rfl
  · rename_i c
    split
    · exact .of_line_same s _ rfl rfl
    · rename_i f hf
      have hb : ∀ g, s.UrgentSound →
          (Line.setHead { s.line with tx := .idle, lastActivityEnd := some s.clock } c g).queue.length ≤ 4 ∧
            ((Line.setHead { s.line with tx := .idle, lastActivityEnd := some s.clock } c g).state ≠ .active →
              (Line.setHead { s.line with tx := .idle, lastActivityEnd := some s.clock } c g).queue = []) := by
        intro g h
        exact Line.setHead_bounds (l := { s.line with tx := .idle, lastActivityEnd := some s.clock }) (c := c)
          (f := f) (by cases c <;> exact hf) g h
      split
      · refine .trans ?_ (State.bump_delivers _ _).talks
        exact .of_line_same s _ rfl rfl
      · exact .of_line s _ (hb _)

theorem State.lateCollide_talks (s : State) (c : TxClass) : State.Talks s (s.lateCollide c) := by
  unfold State.lateCollide
  split
  · exact .refl s
  · refine (State.bump_delivers s .lateCollisions).talks.trans
      (.trans (.of_line _ _ fun h => ?_) (State.abandoned_talks _ _ _))
    exact Line.leave_bounds c h

theorem State.sendDone_talks (s : State) (c : TxClass) : State.Talks s (s.sendDone c) := by
  unfold State.sendDone
  split
  · exact .refl s
  · rename_i f hf
    dsimp only
    split
    · refine .trans (.trans (.trans (State.bump_delivers s .framesSent).talks ?_) (State.mirror_delivers _ _ _ _ _).talks)
        (State.probeSent_talks _)
      exact .of_line _ _ fun h => Line.leave_bounds c h
    · refine .trans (.trans (State.bump_delivers s .framesSent).talks ?_) (State.mirror_delivers _ _ _ _ _).talks
      exact .of_line _ _ fun h => Line.leave_bounds c h

theorem State.waitEnds_talks (s : State) (c : TxClass) : State.Talks s (s.waitEnds c) := by
  unfold State.waitEnds
  split
  · exact .refl s
  · rename_i f hf
    split
    · exact .of_line s _ fun h => Line.setHead_bounds hf _ h
    · exact .refl s

end Sys2Proof.Machine
end

