-- ==== Sys2Proof/Laws/Peers.lean ====
section
/-! SUPPORT. The peer table: every arrival and every ageing keeps law 6, the ascending order and the absence of the
station's own address. -/

namespace Sys2Proof.Machine

/-- Law 6 on the entries, with the station's own address. -/
def EntriesSound (own : Nat) (es : List PeerEntry) : Prop :=
  es.length ≤ 15 ∧ es.Pairwise (fun e f => e.addr < f.addr) ∧ ∀ e ∈ es, e.addr ≠ own

theorem State.peersSound_iff (s : State) : s.PeersSound ↔ EntriesSound s.address s.peers.entries := Iff.rfl

/-! ### Addresses of changed entries -/

theorem PeerEntry.accept_addr (e : PeerEntry) (now : Time) (group : Nat) (seq : BitVec 8) (v : Statement) :
    (e.accept now group seq v).addr = e.addr := by
  unfold PeerEntry.accept
  dsimp only
  split
  · rfl
  · rfl
  · split
    · rfl
    · split <;> rfl
  · rfl
  · rfl

theorem PeerEntry.takeExcess_addr (e : PeerEntry) (now : Time) : (e.takeExcess now).addr = e.addr := by
  unfold PeerEntry.takeExcess
  dsimp only
  split <;> rfl

theorem PeerEntry.statement_addr (e : PeerEntry) (now : Time) (group : Nat) (seq : BitVec 8) (v : Statement) :
    (e.statement now group seq v).1.addr = e.addr := by
  have h : ∀ (x : SeqOutcome), (match x with
      | .duplicate => (e, [Message.count .duplicates])
      | .stale => (e, [.count .staleFrames])
      | .inOrder diff =>
        let e₁ := e.ordered seq diff
        if e₁.isExcess now then
          let e₂ := e₁.takeExcess now
          (e₂, .count .excesses :: if e₁.state = e₂.state then []
                 else [peerEvent e₂ (peerCode e₁.state) (peerCode e₂.state) .flooding])
        else (e₁.accept now group seq v, acceptEvent e₁ (e₁.accept now group seq v))).1.addr = e.addr := by
    intro x
    cases x with
    | duplicate => rfl
    | stale => rfl
    | inOrder d =>
      dsimp only
      split
      · exact PeerEntry.takeExcess_addr _ _
      · exact PeerEntry.accept_addr _ _ _ _ _
  unfold PeerEntry.statement
  split
  · exact PeerEntry.accept_addr e now group seq v
  · exact PeerEntry.accept_addr e now group seq v
  all_goals exact h _

theorem PeerEntry.hear_addr (e : PeerEntry) (now : Time) (seq : BitVec 8) (al : Option Nat) :
    (e.hear now seq al).1.addr = e.addr := by
  have h : ∀ (x : SeqOutcome), (match x with
      | .duplicate => (e, [Message.count .duplicates])
      | .stale => (e, [.count .staleFrames])
      | .inOrder diff =>
        let e₁ := { e.ordered seq diff with heard := some now }
        match al with
        | none => (e₁, [])
        | some al => ({ e₁ with last := e₁.last.map fun v => lowered v al }, [])).1.addr = e.addr := by
    intro x
    cases x with
    | duplicate => rfl
    | stale => rfl
    | inOrder d => cases al <;> rfl
  unfold PeerEntry.hear
  split
  · rfl
  · rfl
  all_goals exact h _

theorem PeerEntry.ageStep_addr (now : Time) (e e' : PeerEntry) (h : (e.ageStep now).1 = some e') :
    e'.addr = e.addr := by
  have hc : (e.calm now).1.addr = e.addr := by
    unfold PeerEntry.calm
    dsimp only
    split
    · split <;> rfl
    · split <;> rfl
  have ha : ∀ x : PeerEntry, (x.age now).1.addr = x.addr := by
    intro x
    unfold PeerEntry.age
    dsimp only
    split
    · split <;> rfl
    · split <;> rfl
  have hx : ∀ x y : PeerEntry, (x.expire now).1 = some y → y.addr = x.addr := by
    intro x y hxy
    unfold PeerEntry.expire at hxy
    split at hxy
    · split at hxy
      · simp at hxy; rw [← hxy]; rfl
      · simp at hxy
    · simp at hxy; rw [hxy]
  unfold PeerEntry.ageStep at h
  exact (hx _ _ h).trans ((ha _).trans hc)

/-! ### The table's operations -/

theorem findPeer_some {es : List PeerEntry} {addr : Nat} {e : PeerEntry} (h : findPeer es addr = some e) :
    e ∈ es ∧ e.addr = addr := by
  refine ⟨List.mem_of_find?_eq_some h, ?_⟩
  simpa using List.find?_some h

theorem findPeer_none {es : List PeerEntry} {addr : Nat} (h : findPeer es addr = none) :
    ∀ e ∈ es, e.addr ≠ addr := by
  simpa [findPeer] using h

/-- A map that keeps addresses keeps soundness. -/
theorem EntriesSound.map {own : Nat} {es : List PeerEntry} (f : PeerEntry → PeerEntry)
    (hf : ∀ e ∈ es, (f e).addr = e.addr) (h : EntriesSound own es) : EntriesSound own (es.map f) := by
  obtain ⟨h₁, h₂, h₃⟩ := h
  refine ⟨by simpa using h₁, ?_, ?_⟩
  · rw [List.pairwise_map]
    exact h₂.imp_of_mem fun {a b} ha hb hlt => by rw [hf a ha, hf b hb]; exact hlt
  · intro e he
    obtain ⟨x, hx, rfl⟩ := List.mem_map.mp he
    rw [hf x hx]; exact h₃ x hx

theorem EntriesSound.setPeer {own : Nat} {es : List PeerEntry} (e : PeerEntry) (h : EntriesSound own es) :
    EntriesSound own (setPeer es e) := by
  refine h.map _ fun x _ => ?_
  split
  · rename_i hx; exact (beq_iff_eq.mp hx).symm
  · rfl

theorem EntriesSound.filter {own : Nat} {es : List PeerEntry} (p : PeerEntry → Bool) (h : EntriesSound own es) :
    EntriesSound own (es.filter p) :=
  ⟨(List.length_filter_le _ _).trans h.1, h.2.1.filter _, fun e he => h.2.2 e (List.mem_of_mem_filter he)⟩

theorem insertPeer_perm (e : PeerEntry) (es : List PeerEntry) : (insertPeer e es).Perm (e :: es) := by
  induction es with
  | nil => exact List.Perm.refl _
  | cons x xs ih =>
    simp only [insertPeer]
    split
    · exact List.Perm.refl _
    · exact (ih.cons x).trans (List.Perm.swap e x xs)

/-- A new address put in its place. -/
theorem EntriesSound.insert {own : Nat} {es : List PeerEntry} {e : PeerEntry} (h : EntriesSound own es)
    (hl : es.length < 15) (ho : e.addr ≠ own) (hn : ∀ x ∈ es, x.addr ≠ e.addr) :
    EntriesSound own (insertPeer e es) := by
  have hp := insertPeer_perm e es
  refine ⟨by rw [hp.length_eq]; simp; omega, ?_, ?_⟩
  · have h₂ := h.2.1
    clear h hl ho hp
    induction es with
    | nil => simp [insertPeer]
    | cons x xs ih =>
      rw [List.pairwise_cons] at h₂
      simp only [insertPeer]
      split
      · rename_i hlt
        rw [List.pairwise_cons]
        refine ⟨?_, List.pairwise_cons.mpr h₂⟩
        intro y hy
        rcases List.mem_cons.mp hy with rfl | hy
        · exact hlt
        · exact hlt.trans (h₂.1 y hy)
      · rename_i hge
        have hne := hn x (by simp)
        rw [List.pairwise_cons]
        refine ⟨?_, ih (fun y hy => hn y (by simp [hy])) h₂.2⟩
        intro y hy
        rcases List.mem_cons.mp ((insertPeer_perm e xs).mem_iff.mp hy) with rfl | hy
        · omega
        · exact h₂.1 y hy
  · intro x hx
    rcases List.mem_cons.mp (hp.mem_iff.mp hx) with rfl | hx
    · exact ho
    · exact h.2.2 x hx

theorem oldestSilent_mem {now : Time} {es : List PeerEntry} {e : PeerEntry} (h : oldestSilent now es = some e) :
    e ∈ es := by
  induction es generalizing e with
  | nil => cases h
  | cons x xs ih =>
    simp only [oldestSilent] at h
    split at h
    · split at h
      · cases h; simp
      · rename_i f hf
        split at h
        · cases h; exact List.mem_cons_of_mem _ (ih hf)
        · cases h; simp
    · exact List.mem_cons_of_mem _ (ih h)

/-- A statement arrival keeps law 6. -/
theorem EntriesSound.statementArrival {own : Nat} {es : List PeerEntry} (h : EntriesSound own es) (now : Time)
    (addr group : Nat) (seq : BitVec 8) (v : Statement) (ho : addr ≠ own) :
    EntriesSound own (statementArrival now addr group seq v es).1 := by
  unfold Machine.statementArrival
  split
  · exact h.setPeer _
  · rename_i hf
    have hf := findPeer_none hf
    have ha : ((newPeer addr).accept now group seq v).addr = addr := PeerEntry.accept_addr _ _ _ _ _
    split
    · rename_i hl
      exact h.insert hl (by rw [ha]; exact ho) fun x hx => by rw [ha]; exact hf x hx
    · split
      · exact h
      · rename_i old hold
        have hm := oldestSilent_mem hold
        refine (h.filter _).insert ?_ (by rw [ha]; exact ho) fun x hx => by
          rw [ha]; exact hf x (List.mem_of_mem_filter hx)
        have hlt : (es.filter fun e => e.addr != old.addr).length < es.length :=
          List.length_filter_lt_length_iff_exists.mpr ⟨old, hm, by simp⟩
        have := h.1
        omega

theorem EntriesSound.hearArrival {own : Nat} {es : List PeerEntry} (h : EntriesSound own es) (now : Time)
    (addr : Nat) (seq : BitVec 8) (al : Option Nat) : EntriesSound own (hearArrival now addr seq al es).1 := by
  unfold Machine.hearArrival
  split
  · exact h
  · exact h.setPeer _

/-- Ageing keeps law 6. -/
theorem EntriesSound.age {own : Nat} {es : List PeerEntry} (h : EntriesSound own es) (now : Time) :
    EntriesSound own ((es.map (PeerEntry.ageStep now)).filterMap Prod.fst) := by
  rw [List.filterMap_map]
  obtain ⟨h₁, h₂, h₃⟩ := h
  refine ⟨(List.length_filterMap_le _ _).trans h₁, ?_, ?_⟩
  · rw [List.pairwise_filterMap]
    refine h₂.imp ?_
    intro a b hlt x hx y hy
    rw [PeerEntry.ageStep_addr now a x hx, PeerEntry.ageStep_addr now b y hy]
    exact hlt
  · intro e he
    obtain ⟨x, hx, hxe⟩ := List.mem_filterMap.mp he
    rw [PeerEntry.ageStep_addr now x e hxe]
    exact h₃ x hx

/-! ### On the state -/

/-- The table changed, then its messages delivered. -/
theorem State.withPeers_delivers (s : State) (r : List PeerEntry × List Message) :
    State.Delivers { s with peers := { s.peers with entries := r.1 } } (s.withPeers r) :=
  State.deliverAll_delivers _ _

end Sys2Proof.Machine
end

