-- ==== Sys2Proof/Laws/Slide.lean ====
section
/-! SUPPORT. The Slide Protection Unit: what a speed set arrival does to it, as one function on the unit, and that it
keeps laws 5 and 8. -/

namespace Sys2Proof.Machine

/-! ### A speed set arrival as a whole -/

/-- Stages 1 to 4. -/
def Slide.measured (u : Slide) (c : Configuration) (mode : Mode) (sp : Tri AxleSpeed) (peers : List Nat) (now : Time) :
    Slide := ((u.stage1 sp peers now).stage2 now).stage4 c mode sp now

/-- The changes of stage 4. -/
def Slide.changes (u : Slide) (c : Configuration) (mode : Mode) (sp : Tri AxleSpeed) (peers : List Nat) (now : Time) :
    List AxleChange := axleChanges ((u.stage1 sp peers now).stage2 now) (u.measured c mode sp peers now) sp

/-- All seven stages on the unit. -/
def Slide.arrive (u : Slide) (c : Configuration) (mode : Mode) (sp : Tri AxleSpeed) (peers : List Nat) (now : Time) :
    Slide :=
  (((u.measured c mode sp peers now).stage5 c (slideEntries (u.changes c mode sp peers now)) now).stage6 c now).stage7

/-- A change of the slide unit beside deliveries. -/
theorem State.Delivers.with_slide {s t : State} (h : State.Delivers s t) (u : Slide) :
    State.Delivers { s with slide := u } { t with slide := u } := by
  refine ⟨?_, h.moves, h.urgent, h.counts, h.grows, h.scans, h.numbers, h.sound⟩
  conv => lhs; rw [h.frame]

/-- A speed set arrival changes the slide unit as the stages say; besides, messages are delivered. -/
theorem State.speedArrival_spec (s : State) :
    State.Delivers
      { s with slide := s.slide.arrive s.config s.demand.mode s.acq.axles
                          (eligibleVrefs s.peers.entries s.config.group) s.now }
      s.speedArrival := by
  unfold State.speedArrival
  dsimp only
  generalize hu : (s.slide.stage1 s.acq.axles (eligibleVrefs s.peers.entries s.config.group) s.now).stage2 s.now = u
  generalize hw : u.stage4 s.config s.demand.mode s.acq.axles s.now = w
  have h₄ := State.deliverAll_delivers { s with slide := w } (stage4Messages (axleChanges u w s.acq.axles) w.vref)
  rw [h₄.slide]
  dsimp only
  generalize hx : w.stage5 s.config (slideEntries (axleChanges u w s.acq.axles)) s.now = x
  have h₅ := State.deliverAll_delivers
    { State.deliverAll { s with slide := w } (stage4Messages (axleChanges u w s.acq.axles) w.vref) with slide := x }
    (stage5Messages x (axleChanges u w s.acq.axles))
  rw [h₅.slide]
  dsimp only
  have hy : s.slide.arrive s.config s.demand.mode s.acq.axles (eligibleVrefs s.peers.entries s.config.group) s.now =
      (x.stage6 s.config s.now).stage7 := by
    unfold Slide.arrive Slide.changes Slide.measured
    rw [hu, hw, hx]
  rw [hy]
  exact .trans (h₄.with_slide _) (.trans (h₅.with_slide _) (State.recordSpeeds_delivers _))

/-! ### Law 5 -/

/-- Law 5 on the unit. -/
def Slide.AdhesionSound (u : Slide) (c : Configuration) : Prop :=
  c.amin ≤ u.a ∧ u.a ≤ 1000 ∧ u.al = c.abase * u.a / 1000

theorem reduced_bounds {amin a : Nat} (h : amin ≤ a) : amin ≤ reduced amin a ∧ reduced amin a ≤ a := by
  unfold reduced; omega

theorem reducedBy_bounds (n : Nat) {amin a : Nat} (h : amin ≤ a) :
    amin ≤ reducedBy amin n a ∧ reducedBy amin n a ≤ a := by
  induction n generalizing a with
  | zero => exact ⟨h, le_rfl⟩
  | succ n ih =>
    have hr := reduced_bounds h
    have hi := ih hr.1
    exact ⟨hi.1, hi.2.trans hr.2⟩

@[simp] theorem Slide.stage1_a (u : Slide) (sp : Tri AxleSpeed) (peers : List Nat) (now : Time) :
    (u.stage1 sp peers now).a = u.a := rfl
@[simp] theorem Slide.stage1_al (u : Slide) (sp : Tri AxleSpeed) (peers : List Nat) (now : Time) :
    (u.stage1 sp peers now).al = u.al := rfl
@[simp] theorem Slide.stage1_machines (u : Slide) (sp : Tri AxleSpeed) (peers : List Nat) (now : Time) :
    (u.stage1 sp peers now).machines = u.machines := rfl

/-- Stage 2 changes the standstill flag and the low-speed start time alone. -/
theorem Slide.stage2_frame (u : Slide) (now : Time) :
    u.stage2 now = { u with lowStart := (u.stage2 now).lowStart, standstill := (u.stage2 now).standstill } := by
  unfold Slide.stage2
  split
  · rfl
  · split
    · rfl
    · split <;> rfl

@[simp] theorem Slide.stage2_a (u : Slide) (now : Time) : (u.stage2 now).a = u.a := by rw [Slide.stage2_frame]
@[simp] theorem Slide.stage2_al (u : Slide) (now : Time) : (u.stage2 now).al = u.al := by rw [Slide.stage2_frame]
@[simp] theorem Slide.stage2_machines (u : Slide) (now : Time) : (u.stage2 now).machines = u.machines := by
  rw [Slide.stage2_frame]

theorem Slide.AdhesionSound.measured {u : Slide} {c : Configuration} (h : u.AdhesionSound c) (mode : Mode)
    (sp : Tri AxleSpeed) (peers : List Nat) (now : Time) : (u.measured c mode sp peers now).AdhesionSound c := by
  unfold Slide.AdhesionSound Slide.measured Slide.stage4 at *
  simpa using h

theorem Slide.AdhesionSound.stage5 {u : Slide} {c : Configuration} (h : u.AdhesionSound c) (es : List AxleChange)
    (now : Time) : (u.stage5 c es now).AdhesionSound c := by
  unfold Slide.stage5
  split
  · exact h
  · obtain ⟨h₁, h₂, h₃⟩ := h
    have hb := reducedBy_bounds es.length h₁
    refine ⟨hb.1, hb.2.trans h₂, ?_⟩
    dsimp only
    split
    · rename_i he; rw [he]; exact h₃
    · rfl

theorem Slide.AdhesionSound.stage6 {u : Slide} {c : Configuration} (h : u.AdhesionSound c) (now : Time) :
    (u.stage6 c now).AdhesionSound c := by
  obtain ⟨h₁, h₂, h₃⟩ := h
  have key : ({ u with a := min 1000 (u.a + c.recStep),
                       al := if min 1000 (u.a + c.recStep) = u.a then u.al
                             else adhesionLimit c.abase (min 1000 (u.a + c.recStep)) } : Slide).AdhesionSound c := by
    refine ⟨by dsimp only; omega, by dsimp only; omega, ?_⟩
    dsimp only
    split
    · rename_i he; rw [he]; exact h₃
    · rfl
  unfold Slide.stage6
  dsimp only
  split
  · split
    · exact key
    · exact ⟨h₁, h₂, h₃⟩
  · split
    · exact key
    · exact ⟨h₁, h₂, h₃⟩

/-- Law 5 is kept by a speed set arrival. -/
theorem Slide.AdhesionSound.arrive {u : Slide} {c : Configuration} (h : u.AdhesionSound c) (mode : Mode)
    (sp : Tri AxleSpeed) (peers : List Nat) (now : Time) : (u.arrive c mode sp peers now).AdhesionSound c :=
  ((h.measured mode sp peers now).stage5 _ now).stage6 now

/-! ### Law 8 -/

theorem AxleMachine.faulted_vent (m : AxleMachine) : m.faulted.vent = m.vent := rfl
theorem AxleMachine.normal_vent (m : AxleMachine) : m.normal.vent = m.vent := rfl

/-- A step keeps law 8 for its axle, for a Tvent of whole windows above 0. -/
theorem AxleMachine.VentSound.step {m : AxleMachine} {c : Configuration} (h : m.VentSound c.tVent)
    (hm : c.tVent % 20 = 0) (hp : 0 < c.tVent) (i : AxleStep) : (m.step c i).VentSound c.tVent := by
  obtain ⟨_, _, h₃, h₄, h₅⟩ := h
  have hv : ({ m.vented with lastQ := i.q }.stateStep c i).vent % 20 = 0 ∧
      ({ m.vented with lastQ := i.q }.stateStep c i).vent ≤ c.tVent ∧
      (({ m.vented with lastQ := i.q }.stateStep c i).state = .slide ∨
        ({ m.vented with lastQ := i.q }.stateStep c i).state = .recover →
          ({ m.vented with lastQ := i.q }.stateStep c i).vent < c.tVent) := by
    cases hst : m.state <;>
      simp only [AxleMachine.vented, AxleMachine.stateStep, hst, if_true, if_false, reduceCtorEq] at h₅ ⊢
    · -- NORMAL
      split
      · exact ⟨h₃, h₄, by simp [AxleMachine.faulted]⟩
      · split
        · unfold AxleMachine.normalStep
          split
          · exact ⟨h₃, h₄, by simp⟩
          · exact ⟨h₃, h₄, by simp⟩
        · exact ⟨h₃, h₄, by simp⟩
    · -- SUSPECT
      split
      · exact ⟨h₃, h₄, by simp [AxleMachine.faulted]⟩
      · split
        · unfold AxleMachine.suspectStep AxleMachine.beginSlide AxleMachine.normal
          dsimp only
          split
          · exact ⟨rfl, Nat.zero_le _, fun _ => hp⟩
          · split
            · split
              · exact ⟨rfl, Nat.zero_le _, fun _ => hp⟩
              · exact ⟨h₃, h₄, by simp⟩
            · split
              · exact ⟨h₃, h₄, by simp⟩
              · split
                · exact ⟨h₃, h₄, by simp⟩
                · exact ⟨h₃, h₄, by simp⟩
        · exact ⟨h₃, h₄, by simp [AxleMachine.normal]⟩
    · -- SLIDE
      have h₅ := h₅ (by simp)
      have hd : (m.vent + 20) % 20 = 0 := by omega
      have hle : m.vent + 20 ≤ c.tVent := by omega
      split
      · exact ⟨hd, hle, by simp [AxleMachine.faulted]⟩
      · split
        · unfold AxleMachine.slideStep
          dsimp only
          split
          · exact ⟨hd, hle, by simp⟩
          · split
            · exact ⟨hd, hle, fun _ => by dsimp only; omega⟩
            · exact ⟨hd, hle, fun _ => by dsimp only; omega⟩
        · exact ⟨hd, hle, by simp [AxleMachine.normal]⟩
    · -- RECOVER
      have h₅ := h₅ (by simp)
      split
      · exact ⟨h₃, h₄, by simp [AxleMachine.faulted]⟩
      · split
        · unfold AxleMachine.recoverStep AxleMachine.normal
          dsimp only
          split
          · exact ⟨h₃, h₄, fun _ => h₅⟩
          · split
            · exact ⟨h₃, h₄, fun _ => h₅⟩
            · split
              · exact ⟨h₃, h₄, by simp⟩
              · exact ⟨h₃, h₄, fun _ => h₅⟩
        · exact ⟨h₃, h₄, by simp [AxleMachine.normal]⟩
    · -- TIMEOUT
      split
      · exact ⟨h₃, h₄, by simp [AxleMachine.faulted]⟩
      · split
        · exact ⟨h₃, h₄, by simp [AxleMachine.normal]⟩
        · exact ⟨h₃, h₄, by simp⟩
    · -- FAULT
      unfold AxleMachine.faultStep
      split
      · split
        · exact ⟨h₃, h₄, by simp⟩
        · split
          · exact ⟨h₃, h₄, by simp [AxleMachine.normal]⟩
          · exact ⟨h₃, h₄, by simp⟩
      · exact ⟨h₃, h₄, by simp⟩
  exact ⟨rfl, rfl, hv⟩

/-- Stages 5 to 7 leave the machines. -/
theorem Slide.arrive_machines (u : Slide) (c : Configuration) (mode : Mode) (sp : Tri AxleSpeed) (peers : List Nat)
    (now : Time) :
    (u.arrive c mode sp peers now).machines = (u.measured c mode sp peers now).machines := by
  unfold Slide.arrive Slide.stage7
  have h₅ : ∀ (w : Slide) es, (w.stage5 c es now).machines = w.machines := by
    intro w es; unfold Slide.stage5; split <;> rfl
  have h₆ : ∀ w : Slide, (w.stage6 c now).machines = w.machines := by
    intro w; unfold Slide.stage6; dsimp only; split <;> split <;> rfl
  dsimp only
  rw [h₆, h₅]

/-- Law 8 is kept by a speed set arrival. -/
theorem Slide.vents_arrive {u : Slide} {c : Configuration} (hm : c.tVent % 20 = 0) (hp : 0 < c.tVent)
    (h : u.machines.one.VentSound c.tVent ∧ u.machines.two.VentSound c.tVent ∧ u.machines.three.VentSound c.tVent)
    (mode : Mode) (sp : Tri AxleSpeed) (peers : List Nat) (now : Time) :
    (u.arrive c mode sp peers now).machines.one.VentSound c.tVent ∧
      (u.arrive c mode sp peers now).machines.two.VentSound c.tVent ∧
        (u.arrive c mode sp peers now).machines.three.VentSound c.tVent := by
  rw [Slide.arrive_machines]
  simp only [Slide.measured, Slide.stage4, Tri.map2, Slide.stage2_machines, Slide.stage1_machines]
  exact ⟨h.1.step hm hp _, h.2.1.step hm hp _, h.2.2.step hm hp _⟩

end Sys2Proof.Machine
end

