-- ==== Sys2Proof/Laws/Steady.lean ====
section
/-! SUPPORT. What every event of the running part keeps, said once: `State.Steady`, with the lemmas that the work of the
sensors, of the Blending Unit, of the line and of the peer table is steady. -/

namespace Sys2Proof.Machine

/-- What work that is not a reset keeps. -/
structure State.Steady (s t : State) : Prop where
  moves : Recorder.Moves s.recorder t.recorder
  urgent : s.UrgentSound → t.UrgentSound
  counts : (∀ i, s.counters.get i ≤ 65535) → ∀ i, t.counters.get i ≤ 65535
  sound : s.RecorderSound → t.RecorderSound
  peers : s.PeersSound → t.PeersSound
  flash : Memory.wf 0xFF s.flash = true → Memory.wf 0xFF t.flash = true
  clock : t.clock = s.clock
  runPhase : t.runPhase = s.runPhase
  address : t.address = s.address
  cfgdef : t.cfgdef = s.cfgdef
  config : t.config = s.config
  source : t.source = s.source
  pending : t.pending = s.pending

theorem State.Steady.refl (s : State) : State.Steady s s :=
  ⟨.refl _, id, id, id, id, id, rfl, rfl, rfl, rfl, rfl, rfl, rfl⟩

theorem State.Steady.trans {s t u : State} (h : State.Steady s t) (h' : State.Steady t u) : State.Steady s u :=
  ⟨h.moves.trans h'.moves, h'.urgent ∘ h.urgent, h'.counts ∘ h.counts, h'.sound ∘ h.sound, h'.peers ∘ h.peers,
    h'.flash ∘ h.flash, h'.clock.trans h.clock, h'.runPhase.trans h.runPhase, h'.address.trans h.address,
    h'.cfgdef.trans h.cfgdef, h'.config.trans h.config, h'.source.trans h.source, h'.pending.trans h.pending⟩

theorem State.Talks.steady {s t : State} (h : State.Talks s t) : State.Steady s t :=
  ⟨h.moves, h.urgent, h.counts, h.sound, fun hp => by unfold State.PeersSound at *; rw [h.peers, h.address]; exact hp,
    fun hf => by rw [h.flash]; exact hf, h.clock, h.runPhase, h.address, h.cfgdef, h.config, h.source, h.pending⟩

theorem State.Delivers.steady {s t : State} (h : State.Delivers s t) : State.Steady s t := h.talks.steady

/-- A state that differs in the sensing and blending units, the service port and the level of the power-fail input
alone. -/
theorem State.Steady.of_units (s : State) (pf hl : Bool) (a : Acquisition) (u : Slide) (d : Demand) (sh : Sharing)
    (o : Outputs) (sv : ServicePort) :
    State.Steady s { s with powerFail := pf, handleLevel := hl, acq := a, slide := u, demand := d, sharing := sh,
                            outputs := o, service := sv } :=
  ⟨.refl _, id, id, id, id, id, rfl, rfl, rfl, rfl, rfl, rfl, rfl⟩

theorem State.Steady.of_peers (s : State) (es : List PeerEntry) (due : Nat)
    (h : s.PeersSound → EntriesSound s.address es) :
    State.Steady s { s with peers := { entries := es, ageingDue := due } } :=
  ⟨.refl _, id, id, id, h, id, rfl, rfl, rfl, rfl, rfl, rfl, rfl⟩

/-! ### Sensors -/

theorem State.convert_steady (s : State) (i : PressId) (c : Conversion) : State.Steady s (s.convert i c) := by
  unfold State.convert
  dsimp only
  split
  · exact .refl s
  · exact .of_units s _ _ _ _ _ _ _ _

theorem State.speedArrival_steady (s : State) : State.Steady s s.speedArrival :=
  .trans (.of_units s _ _ _ _ _ _ _ _) (State.speedArrival_spec s).steady

/-! ### Demand -/

theorem State.changeMode_delivers (s : State) (new : Mode) (cause : EventCause) (more : List Byte) :
    State.Delivers { s with demand := { s.demand with mode := new } } (s.changeMode new cause more) :=
  State.logEvent_delivers _ _ _

theorem State.changeMode_steady (s : State) (new : Mode) (cause : EventCause) (more : List Byte) :
    State.Steady s (s.changeMode new cause more) :=
  .trans (.of_units s _ _ _ _ _ _ _ _) (State.changeMode_delivers s new cause more).steady

theorem State.driveEmergency_steady (s : State) : State.Steady s s.driveEmergency := .of_units s _ _ _ _ _ _ _ _

theorem State.restartExit_steady (s : State) : State.Steady s s.restartExit := .of_units s _ _ _ _ _ _ _ _

theorem State.standstillChanged_steady (s : State) : State.Steady s s.standstillChanged := by
  unfold State.standstillChanged
  split
  · split
    · exact State.restartExit_steady s
    · exact .refl s
  · exact .of_units s _ _ _ _ _ _ _ _

theorem State.enterEmergency_steady (s : State) (cause : EventCause) (more : List Byte) :
    State.Steady s (s.enterEmergency cause more) :=
  (((State.changeMode_steady s .emergency cause more).trans (State.driveEmergency_steady _)).trans
    (.of_units _ _ _ _ _ _ _ _ _)).trans (State.restartExit_steady _)

theorem State.beginNotices_steady (s : State) (cause : Detection) (bp : Nat) :
    State.Steady s (s.beginNotices cause bp) := by
  unfold State.beginNotices
  refine .trans ?_ (State.handUrgent_delivers _ _ _).steady
  exact .of_units s _ _ _ _ _ _ _ _

theorem State.detect_steady (s : State) (cause : Detection) (bp : Nat) (fall : Int) :
    State.Steady s (s.detect cause bp fall) := by
  unfold State.detect
  split
  · exact State.restartExit_steady s
  · exact ((State.enterEmergency_steady s _ _).trans (State.deliver_delivers _ _).steady).trans
      (State.beginNotices_steady _ _ _)

theorem State.repeatNotice_steady (s : State) : State.Steady s s.repeatNotice := by
  unfold State.repeatNotice
  split
  · exact .of_units s _ _ _ _ _ _ _ _
  · dsimp only
    refine .trans ?_ (State.handUrgent_delivers _ _ _).steady
    exact .of_units s _ _ _ _ _ _ _ _

theorem State.takeNotice_steady (s : State) (f : GoodFrame) : State.Steady s (s.takeNotice f) := by
  unfold State.takeNotice
  split
  · exact State.restartExit_steady s
  · exact (State.enterEmergency_steady s _ _).trans (State.deliver_delivers _ _).steady

theorem State.leaveEmergency_steady (s : State) : State.Steady s s.leaveEmergency := by
  unfold State.leaveEmergency
  exact .trans (State.changeMode_steady s _ .exit []) (.of_units _ _ _ _ _ _ _ _ _)

theorem State.exitCheck_steady (s : State) : State.Steady s s.exitCheck := by
  unfold State.exitCheck
  split
  · exact State.leaveEmergency_steady s
  · exact .of_units s _ _ _ _ _ _ _ _

theorem State.demandArrival_steady (s : State) : State.Steady s s.demandArrival := by
  unfold State.demandArrival
  split
  · exact State.detect_steady s _ _ _
  · split
    · exact State.exitCheck_steady s
    · exact .refl s

/-! ### The control cycle and the converter link -/

theorem State.earlyTest_talks (s : State) : State.Talks s s.earlyTest := by
  unfold State.earlyTest
  split
  · exact .refl s
  · split
    · exact State.makeDue_talks s
    · exact .refl s

theorem State.linkCheck_steady (s : State) : State.Steady s s.linkCheck := by
  unfold State.linkCheck
  dsimp only
  exact .trans (.of_units s _ _ _ _ _ _ _ _) (State.deliverAll_delivers _ _).steady

theorem State.computeDemand_steady (s : State) : State.Steady s s.computeDemand := .of_units s _ _ _ _ _ _ _ _

theorem State.sharingStage_steady (s : State) : State.Steady s s.sharingStage := .of_units s _ _ _ _ _ _ _ _

theorem State.outputStage_steady (s : State) : State.Steady s s.outputStage := by
  unfold State.outputStage
  dsimp only
  split
  · exact .trans (.of_units s _ _ _ _ _ _ _ _) (State.deliver_delivers _ _).steady
  · exact .of_units s _ _ _ _ _ _ _ _

theorem State.evaluateMode_steady (s : State) : State.Steady s s.evaluateMode := by
  unfold State.evaluateMode
  split
  · exact .refl s
  · dsimp only
    split
    · exact .refl s
    · exact State.changeMode_steady s _ _ _

theorem State.controlCycle_steady (s : State) : State.Steady s s.controlCycle := by
  unfold State.controlCycle
  have h₀ := State.Steady.of_units s s.powerFail s.handleLevel s.acq s.slide
    { s.demand with cycleDue := s.demand.cycleDue + 20000 } s.sharing s.outputs s.service
  exact ((((((h₀.trans (State.earlyTest_talks _).steady).trans (State.linkCheck_steady _)).trans
    (State.computeDemand_steady _)).trans (State.sharingStage_steady _)).trans (State.outputStage_steady _)).trans
    (State.evaluateMode_steady _)).trans (State.recordBlend_delivers _).steady

theorem State.statusArrival_steady (s : State) (frame : List Byte) : State.Steady s (s.statusArrival frame) := by
  unfold State.statusArrival
  split
  · exact (State.bump_delivers s _).steady
  · split
    · exact (State.bump_delivers s _).steady
    · dsimp only
      split
      · exact .trans (.of_units s _ _ _ _ _ _ _ _) (State.deliverAll_delivers _ _).steady
      · exact (State.bump_delivers s _).steady

theorem State.frictionCheck_steady (s : State) : State.Steady s s.frictionCheck := by
  unfold State.frictionCheck
  dsimp only
  split
  · exact .of_units s _ _ _ _ _ _ _ _
  · split
    · exact .trans (.of_units s _ _ _ _ _ _ _ _) (State.deliver_delivers _ _).steady
    · exact .of_units s _ _ _ _ _ _ _ _

theorem State.outputArrival_steady (s : State) : State.Steady s s.outputArrival := by
  have h₁ : State.Steady s (if s.demand.mode = .emergency then s.driveEmergency else s) := by
    split
    · exact State.driveEmergency_steady s
    · exact .refl s
  unfold State.outputArrival
  dsimp only
  generalize (if s.demand.mode = .emergency then s.driveEmergency else s) = x at h₁ ⊢
  split
  · split
    · exact h₁.trans (.of_units _ _ _ _ _ _ _ _ _)
    · exact h₁
  · exact h₁.trans (State.frictionCheck_steady _)

theorem State.scanCompletes_steady (s : State) : State.Steady s s.scanCompletes := by
  unfold State.scanCompletes
  dsimp only
  have h₀ := State.Steady.of_units s s.powerFail s.handleLevel (s.acq.scan s.config.pscan s.now).1 s.slide s.demand
    s.sharing s.outputs s.service
  exact (((h₀.trans (State.deliverAll_delivers _ _).steady).trans (State.demandArrival_steady _)).trans
    (State.outputArrival_steady _)).trans (State.recordPressures_delivers _).steady

theorem State.windowExpires_steady (s : State) (faults : Tri Bool) : State.Steady s (s.windowExpires faults) := by
  have h₀ := (State.Steady.of_units s s.powerFail s.handleLevel
    (s.acq.window faults s.handleLevel s.clock s.now s.stamp) s.slide s.demand s.sharing s.outputs s.service).trans
    (State.speedArrival_steady _)
  unfold State.windowExpires
  dsimp only
  split
  · exact h₀
  · exact h₀.trans (State.standstillChanged_steady _)

/-! ### Receptions and ageing -/

theorem State.peerStatement_steady (s : State) (f : GoodFrame) (h : f.source ≠ s.address) :
    State.Steady s (s.peerStatement f) :=
  .trans (.of_peers s _ _ fun hp => EntriesSound.statementArrival hp _ _ _ _ _ h) (State.withPeers_delivers s _).steady

theorem State.peerHear_steady (s : State) (f : GoodFrame) (al : Option Nat) : State.Steady s (s.peerHear f al) :=
  .trans (.of_peers s _ _ fun hp => EntriesSound.hearArrival hp _ _ _ _) (State.withPeers_delivers s _).steady

theorem State.agePeers_steady (s : State) : State.Steady s s.agePeers := by
  unfold State.agePeers
  dsimp only
  exact .trans (.of_peers s _ s.peers.ageingDue fun hp => EntriesSound.age hp s.now)
    (State.withPeers_delivers s (_, _)).steady

theorem State.ageingExpires_steady (s : State) : State.Steady s s.ageingExpires :=
  .trans (.of_peers s _ _ id) (State.agePeers_steady _)

theorem State.dispatch_steady (s : State) (f : GoodFrame) (h : f.source ≠ s.address) :
    State.Steady s (s.dispatch f) := by
  unfold State.dispatch
  split
  · exact State.peerStatement_steady s f h
  · exact State.peerHear_steady s f _
  · exact (State.takeNotice_steady s f).trans (State.peerHear_steady _ f _)
  · exact (State.raise_delivers s _).steady.trans (State.peerHear_steady _ f _)

theorem State.takeFrame_steady (s : State) (f : GoodFrame) : State.Steady s (s.takeFrame f) := by
  unfold State.takeFrame
  split
  · unfold State.ownAddressFrame
    split
    · exact (State.clash_talks s f).steady.trans (State.takeNotice_steady _ f)
    · exact (State.clash_talks s f).steady
  · rename_i h
    exact (State.dispatch_steady s f h).trans (State.mirror_delivers _ _ _ _ _).steady

theorem State.receive_steady (s : State) (frame : List Byte) (extra : Nat) :
    State.Steady s (s.receive frame extra) := by
  have h₀ := (State.Talks.of_line_same s { s.line with lastActivityEnd := some s.clock } rfl rfl).steady
  unfold State.receive
  dsimp only
  split
  · exact h₀.trans (State.bump_delivers _ _).steady
  · exact h₀.trans (State.bump_delivers _ _).steady
  · exact h₀.trans (State.bump_delivers _ _).steady
  · exact h₀.trans (State.takeFrame_steady _ _)

/-! ### Events -/

/-- An event of the running part whose work keeps a property that time and deliveries keep. -/
theorem State.event_keeps {P : State → Prop} (hadv : ∀ s dt, P s → P (State.advance s dt))
    (hdel : ∀ s t, State.Delivers s t → P s → P t) {work : State → State} (hw : ∀ s, P s → P (work s)) (s : State)
    (dt : Nat) (hs : P s) : P (s.event dt work) := by
  unfold State.event
  dsimp only
  split
  · exact hdel _ _ (State.recordChannels_delivers _ _) (hw _ (hadv s dt hs))
  · exact hadv s dt hs

/-- The same for an event taken under a condition. -/
theorem State.eventIf_keeps {P : State → Prop} (hadv : ∀ s dt, P s → P (State.advance s dt))
    (hdel : ∀ s t, State.Delivers s t → P s → P t) {cond : State → Bool} {work : State → State}
    (hw : ∀ s, cond s = true → P s → P (work s)) (s : State) (dt : Nat) (hs : P s) :
    P (s.eventIf dt cond work) := by
  refine State.event_keeps hadv hdel (fun s hs => ?_) s dt hs
  split
  · rename_i hc; exact hw s hc hs
  · exact hs

end Sys2Proof.Machine
end

