-- ==== Sys2Proof/Laws/Store.lean ====
section
/-! SUPPORT. The Store Engine, the flash interface and the Service Port: what their events can do, said once as
`State.Stores`: they are steady and leave the sensing and blending units, and the flash stays in its canonical form. -/

namespace Sys2Proof.Machine

/-- What the events of the line, the Recorder, the Store Engine and the Service Port can do: work that is steady and
leaves the sensing and blending units. -/
structure State.Stores (s t : State) : Prop extends State.Steady s t where
  acq : t.acq = s.acq
  slide : t.slide = s.slide
  demand : t.demand = s.demand
  sharing : t.sharing = s.sharing
  outputs : t.outputs = s.outputs

theorem State.Stores.refl (s : State) : State.Stores s s := ⟨.refl s, rfl, rfl, rfl, rfl, rfl⟩

theorem State.Stores.trans {s t u : State} (h : State.Stores s t) (h' : State.Stores t u) : State.Stores s u :=
  ⟨h.toSteady.trans h'.toSteady, h'.acq.trans h.acq, h'.slide.trans h.slide, h'.demand.trans h.demand,
    h'.sharing.trans h.sharing, h'.outputs.trans h.outputs⟩

theorem State.Talks.stores {s t : State} (h : State.Talks s t) : State.Stores s t :=
  ⟨h.steady, h.acq, h.slide, h.demand, h.sharing, h.outputs⟩

theorem State.Delivers.stores {s t : State} (h : State.Delivers s t) : State.Stores s t := h.talks.stores

/-- A change of the Service Port and the power-fail level. -/
theorem State.Stores.of_service (s : State) (pf : Bool) (sv : ServicePort) :
    State.Stores s { s with powerFail := pf, service := sv } :=
  ⟨.of_units s _ _ _ _ _ _ _ _, rfl, rfl, rfl, rfl, rfl⟩

/-! ### The flash -/

theorem overlay_wf {m : Memory} (h : Memory.wf 0xFF m = true) (a n : Nat) (bs : List Byte) :
    Memory.wf 0xFF (overlay m a n bs) = true := Memory.wf_writeBytes (Memory.wf_clear h)

/-- The flash after an operation is canonical. -/
theorem FlashOp.after_wf {m : Memory} (h : Memory.wf 0xFF m = true) (op : FlashOp) (r : FlashResult) :
    Memory.wf 0xFF (op.after m r) = true := by
  cases r with
  | ok =>
    simp only [FlashOp.after, FlashOp.done]
    split
    · exact h
    · exact overlay_wf h _ _ _
  | failed left =>
    simp only [FlashOp.after, FlashOp.leftBy]
    split
    · exact h
    · exact overlay_wf h _ _ _

/-- The flash after a cut-off is canonical. -/
theorem State.cutOff_wf {s : State} (h : Memory.wf 0xFF s.flash = true) (left : List Byte) :
    Memory.wf 0xFF (s.cutOff left) = true := by
  unfold State.cutOff
  split
  · exact h
  · rename_i op _
    have hl : Memory.wf 0xFF (op.leftBy s.flash left) = true := FlashOp.after_wf h op (.failed left)
    unfold settleCut
    split
    · split
      · exact hl
      · exact Memory.wf_clear hl
    · split
      · exact hl
      · exact Memory.wf_clear hl
    · split
      · exact hl
      · exact Memory.wf_clear hl
    · split
      · exact Memory.wf_clear hl
      · exact hl
    · split
      · exact Memory.wf_clear hl
      · exact hl
    all_goals exact hl

/-! ### Changes of the Store Engine -/

/-- A change of the Store Engine that does not add a read of the scan. -/
theorem State.Stores.of_store (s : State) (st : Store) (h : st.scanOps.length ≤ s.store.scanOps.length) :
    State.Stores s { s with store := st } :=
  ⟨⟨.refl _, id, id, fun ⟨h₁, h₂, h₃, h₄⟩ => ⟨h₁, h₂, h.trans h₃, fun hn => h₄ fun he => hn (by
    rw [he] at h; exact List.length_eq_zero_iff.mp (Nat.le_zero.mp h))⟩,
    id, id, rfl, rfl, rfl, rfl, rfl, rfl, rfl⟩, rfl, rfl, rfl, rfl, rfl⟩

/-- The end of an operation in flight. -/
theorem State.endOp_stores (s : State) (op : FlashOp) (r : FlashResult) : State.Stores s (s.endOp op r) := by
  have h : State.Stores s { s with store := { s.store with inFlight := none } } := by
    refine .of_store s _ ?_
    unfold Store.scanOps
    exact (List.Sublist.filter _ (by simp)).length_le
  exact h.trans ⟨⟨.refl _, id, id, id, id, fun hf => FlashOp.after_wf hf op r, rfl, rfl, rfl, rfl, rfl, rfl, rfl⟩,
    rfl, rfl, rfl, rfl, rfl⟩

@[simp] theorem Store.setLine_scanOps (st : Store) (k : Nat) (l : DirLine) : (st.setLine k l).scanOps = st.scanOps :=
  rfl

/-- An operation that is no read of the scan asked for, after a change that leaves the interface. -/
theorem State.Stores.of_ask (s : State) (st : Store) (op : FlashOp) (h : ∀ k, op ≠ .scanRead k)
    (hi : st.scanOps = s.store.scanOps) : State.Stores s { s with store := st.ask op } := by
  refine .of_store s _ ?_
  rw [Store.scanOps_ask st op h, hi]

/-! ### Storing -/

theorem State.reErase_stores (s : State) (job : StoreJob) : State.Stores s (s.reErase job) := by
  unfold State.reErase
  split
  · exact .of_store s _ le_rfl
  · refine .of_ask s _ _ ?_ rfl
    intro k
    split <;> simp

theorem State.dropAndTest_stores (s : State) : State.Stores s s.dropAndTest :=
  ((State.dropEntry_delivers s).trans (State.startTest_delivers _)).stores

theorem State.retryOrDrop_stores (s : State) (job : StoreJob) : State.Stores s (s.retryOrDrop job) := by
  unfold State.retryOrDrop
  split
  · split
    · exact State.reErase_stores s _
    · exact State.dropAndTest_stores s
  · exact State.dropAndTest_stores s

theorem State.slotFailed_stores (s : State) (job : StoreJob) : State.Stores s (s.slotFailed job) := by
  unfold State.slotFailed
  refine .trans ?_ (State.retryOrDrop_stores _ _)
  exact .of_store s _ le_rfl

theorem State.commitFailed_stores (s : State) (job : StoreJob) : State.Stores s (s.commitFailed job) := by
  unfold State.commitFailed
  refine .trans ?_ (State.reErase_stores _ _)
  exact .of_store s _ le_rfl

theorem State.commit_stores (s : State) (job : StoreJob) : State.Stores s (s.commit job) := by
  unfold State.commit
  split
  · exact .refl s
  · exact .of_ask s _ _ (by simp) rfl

theorem State.programNext_stores (s : State) (job : StoreJob) : State.Stores s (s.programNext job) := by
  unfold State.programNext
  split
  · exact State.commit_stores s job
  · exact .of_ask s _ _ (by simp) rfl

/-- A store that completes. -/
theorem State.storeComplete_stores (s : State) (job : StoreJob) : State.Stores s (s.storeComplete job) := by
  unfold State.storeComplete
  split
  · exact .refl s
  · dsimp only
    refine .trans ?_ (State.startTest_delivers _).stores
    have hm := Recorder.Moves.retire s.recorder
    refine ⟨⟨hm, id, id, fun ⟨h₁, h₂, h₃⟩ => ⟨?_, hm.pending_bounded h₂, ?_⟩, id, id, rfl, rfl, rfl, rfl, rfl,
      rfl, rfl⟩, rfl, rfl, rfl, rfl, rfl⟩
    · simp only [Recorder.retire_capture, Recorder.retire_state]; exact h₁
    · simp only [Recorder.retire_state]; exact h₃

theorem State.cleanupFailed_stores (s : State) (job : StoreJob) : State.Stores s (s.cleanupFailed job) := by
  refine .trans ?_ (State.dropAndTest_stores _)
  exact .of_store s _ le_rfl

theorem State.slotErased_stores (s : State) (cleanup : Bool) (job : StoreJob) (ok : Bool) :
    State.Stores s (s.slotErased cleanup job ok) := by
  unfold State.slotErased
  split
  · split
    · exact State.retryOrDrop_stores s _
    · exact State.cleanupFailed_stores s job
  · split
    · exact State.programNext_stores s _
    · exact State.slotFailed_stores s _

theorem State.slotEraseEvent_stores (s : State) (r : FlashResult) : State.Stores s (s.slotEraseEvent r) := by
  unfold State.slotEraseEvent
  split
  · exact (State.endOp_stores s _ r).trans (State.slotErased_stores _ _ _ _)
  · exact (State.endOp_stores s _ r).trans (State.slotErased_stores _ _ _ _)
  · exact .refl s

theorem State.bodyEvent_stores (s : State) (r : FlashResult) : State.Stores s (s.bodyEvent r) := by
  unfold State.bodyEvent
  split
  · unfold State.bodyProgrammed
    split
    · exact (State.endOp_stores s _ r).trans (State.programNext_stores _ _)
    · exact (State.endOp_stores s _ r).trans (State.slotFailed_stores _ _)
  · exact .refl s

theorem State.headerEvent_stores (s : State) (r : FlashResult) : State.Stores s (s.headerEvent r) := by
  unfold State.headerEvent
  split
  · unfold State.headerProgrammed
    split
    · exact (State.endOp_stores s _ r).trans (State.storeComplete_stores _ _)
    · exact (State.endOp_stores s _ r).trans (State.commitFailed_stores _ _)
  · exact .refl s

/-! ### The arbiter, the scan and the other operations -/

/-- Issuing an operation moves it from the waiting ones to the one in flight. -/
theorem State.grantFlash_stores (s : State) : State.Stores s s.grantFlash := by
  unfold State.grantFlash
  split
  · rename_i op hi hn
    refine .of_store s _ ?_
    have hm : op ∈ s.store.requests := List.mem_of_find?_eq_some hn
    have hp : ((s.store.issue op).inFlight.toList ++ (s.store.issue op).requests).Perm
        (s.store.inFlight.toList ++ s.store.requests) := by
      have h : (s.store.issue op).inFlight = some op ∧ (s.store.issue op).requests = s.store.requests.erase op := by
        unfold Store.issue Store.issueLine
        split <;> exact ⟨rfl, rfl⟩
      rw [h.1, h.2, hi]
      exact (List.perm_cons_erase hm).symm
    unfold Store.scanOps
    exact (hp.filter _).length_eq.le
  · exact .refl s

/-- The read of one slot of the scan ends. -/
theorem State.scanReadEvent_stores (s : State) (ok : Bool) : State.Stores s (s.scanReadEvent ok) := by
  unfold State.scanReadEvent
  split
  · rename_i slot hf
    have hin : ∀ st : Store, st.inFlight = none → st.requests = s.store.requests →
        st.scanOps.length + 1 = s.store.scanOps.length := by
      intro st h₁ h₂
      unfold Store.scanOps
      simp [hf, h₁, h₂]
    unfold State.scanRead
    dsimp only
    split
    · refine .of_store s _ ?_
      have h := hin { s.store.setLine slot (if ok = true then scanLine s.flash slot else .empty) with
        inFlight := none, scan := some (slot + 1) } rfl rfl
      unfold Store.scanOps at h ⊢
      simp only [Store.ask, ← List.append_assoc, List.filter_append, List.length_append] at h ⊢
      simp at h ⊢
      omega
    · refine .trans ?_ (State.startTest_delivers _).stores
      have h := hin (Store.scanEnded { s.store.setLine slot (if ok = true then scanLine s.flash slot else .empty) with
        inFlight := none }) rfl rfl
      have hm := Recorder.Moves.notes s.recorder s.recorder.peaks .idle s.recorder.capture s.recorder.holdoff
      refine ⟨⟨hm, id, id, fun ⟨h₁, h₂, h₃, h₄⟩ => ?_, id, id, rfl, rfl, rfl, rfl, rfl,
      rfl, rfl⟩, rfl, rfl, rfl, rfl, rfl⟩
      have hsc : s.recorder.state = .scanning := h₄ (by intro he; rw [he] at h; simp at h)
      have hnil : (Store.scanEnded { s.store.setLine slot (if ok = true then scanLine s.flash slot else .empty) with
        inFlight := none }).scanOps = [] := List.length_eq_zero_iff.mp (by omega)
      have hcap : s.recorder.capture.isSome = false := by
        cases hc : s.recorder.capture.isSome with
        | false => rfl
        | true => have := h₁.mp hc; rw [hsc] at this; cases this
      refine ⟨?_, h₂, by simp only; rw [hnil]; simp, fun hn => absurd hnil hn⟩
      simp only [hcap]
      simp
  · exact .refl s

/-- What a failed erase of ERASING_ALL changes in the directory: its line, and for a noted slot the retained count and the
slots that may hold a retained record. -/
theorem Store.eraseFailed_eq (st : Store) (slot : Nat) :
    st.eraseFailed slot =
      if slot ∈ st.noted then
        { st.setLine slot .bad with retained := st.retained + 1, mayHold := st.mayHold ++ [slot] }
      else st.setLine slot .bad := by
  unfold Store.eraseFailed
  by_cases h : slot ∈ st.noted <;> simp [h, Store.setLine]

theorem State.eraseAllEvent_stores (s : State) (r : FlashResult) : State.Stores s (s.eraseAllEvent r) := by
  unfold State.eraseAllEvent
  split
  · rename_i k _
    refine (State.endOp_stores s (.eraseAll k) r).trans ?_
    generalize s.endOp (.eraseAll k) r = x
    have hst : ∀ b : Bool, (if b then x.store else x.store.eraseFailed k).scanOps = x.store.scanOps := by
      intro b; cases b <;> rfl
    have hst := hst (resultOk r)
    unfold State.erasedOne
    dsimp only
    generalize (if resultOk r = true then x.store else x.store.eraseFailed k) = st at hst ⊢
    split
    · exact .of_ask x _ _ (by simp) hst
    · refine .trans ?_ (State.startTest_delivers _).stores
      refine .of_store x _ ?_
      rw [← hst]
      exact le_rfl
  · exact .refl s

theorem State.warningCeases_stores (s : State) : State.Stores s s.warningCeases := by
  have h₀ := State.Stores.of_service s false s.service
  unfold State.warningCeases
  dsimp only
  split
  · split
    · exact h₀.trans (State.reErase_stores _ _)
    · exact h₀.trans (State.startTest_delivers _).stores
  · exact h₀

theorem State.warningStands_stores (s : State) : State.Stores s s.warningStands :=
  .trans (.of_service s _ _) (State.closeIncident_delivers _ _).stores

/-! ### The Service Port -/

theorem State.respondCode_stores (s : State) (c : Byte) (code : Code) (v : List Byte) :
    State.Stores s (s.respondCode c code v) := .of_service s _ _

theorem State.respond_stores (s : State) (c : Command) (code : Code) (v : List Byte) :
    State.Stores s (s.respond c code v) := .of_service s _ _

theorem State.setInProgress_stores (s : State) (q : Option Service) : State.Stores s (s.setInProgress q) :=
  .of_service s _ _

theorem State.setAssembly_stores (s : State) (a : Option (List Byte)) : State.Stores s (s.setAssembly a) :=
  .of_service s _ _

theorem State.hunt_stores (s : State) : State.Stores s s.hunt := .of_service s _ _

/-- A request whose service is steady is steady. -/
theorem State.request_stores {α : Type} (s : State) (c : Command) (operand : Option α) (serve : α → State → State)
    (h : ∀ x s, State.Stores s (serve x s)) : State.Stores s (s.request c operand serve) := by
  refine (State.hunt_stores s).trans ?_
  unfold State.request
  dsimp only
  split
  · exact State.respond_stores _ _ _ _
  · split
    · exact State.respond_stores _ _ _ _
    · exact h _ _

/-- Sending the response at the head of the queue changes the port's last frame alone. -/
theorem State.sendHead_eq (s : State) : ∃ out, s.sendHead = { s with serviceOut := out } := by
  unfold State.sendHead
  split
  · exact ⟨s.serviceOut, rfl⟩
  · exact ⟨_, rfl⟩

theorem State.sendHead_stores (s : State) : State.Stores s s.sendHead := by
  obtain ⟨out, hs⟩ := s.sendHead_eq
  rw [hs]
  exact ⟨⟨.refl _, id, id, id, id, id, rfl, rfl, rfl, rfl, rfl, rfl, rfl⟩, rfl, rfl, rfl, rfl, rfl⟩

theorem State.endConfig_stores (s : State) : State.Stores s s.endConfig := by
  unfold State.endConfig
  refine .trans ?_ (State.startTest_delivers _).stores
  exact .of_store s _ le_rfl

theorem State.configDone_stores (s : State) (ok : Bool) : State.Stores s (s.configDone ok) := by
  unfold State.configDone
  dsimp only
  refine .trans (.trans ?_ (State.setInProgress_stores _ _)) (State.endConfig_stores _)
  split <;> exact State.respond_stores s _ _ _

theorem State.configStep_stores (s : State) (job : ConfigJob) (ok : Bool) : State.Stores s (s.configStep job ok) := by
  unfold State.configStep
  split
  · split
    · exact State.configDone_stores s true
    · rename_i st hst
      unfold Store.nextConfig at hst
      split at hst
      · cases hst
      · cases hst
        exact .of_ask s _ _ (by simp) rfl
  · exact State.configDone_stores s false

theorem State.configEraseEvent_stores (s : State) (r : FlashResult) : State.Stores s (s.configEraseEvent r) := by
  unfold State.configEraseEvent
  split
  · exact (State.endOp_stores s _ r).trans (State.configStep_stores _ _ _)
  · exact .refl s

theorem State.configProgramEvent_stores (s : State) (r : FlashResult) : State.Stores s (s.configProgramEvent r) := by
  unfold State.configProgramEvent
  split
  · exact (State.endOp_stores s _ r).trans (State.configStep_stores _ _ _)
  · exact .refl s

theorem State.incidentReadEvent_stores (s : State) (ok : Bool) : State.Stores s (s.incidentReadEvent ok) := by
  unfold State.incidentReadEvent
  split
  · unfold State.incidentRead
    dsimp only
    have h : State.Stores s { s with store := { s.store with inFlight := none } } := by
      refine .of_store s _ ?_
      unfold Store.scanOps
      exact (List.Sublist.filter _ (by simp)).length_le
    split
    · exact .trans (.trans h (State.setInProgress_stores _ _)) (State.respond_stores _ _ _ _)
    · exact .trans (.trans h (State.setInProgress_stores _ _)) (State.respond_stores _ _ _ _)
  · exact .refl s

theorem State.serveIncident_stores (s : State) (r : IncidentRange) : State.Stores s (s.serveIncident r) := by
  unfold State.serveIncident
  split
  · exact State.respond_stores s _ _ _
  · split
    · exact State.respond_stores s _ _ _
    · dsimp only
      exact .trans (.of_ask s _ _ (by simp) rfl) (State.setInProgress_stores _ _)

theorem State.clearCounters_stores (s : State) : State.Stores s s.clearCounters := by
  have hm := Recorder.Moves.clearLost s.recorder
  refine ⟨⟨hm, id, ?_, id, fun h => ?_, id, rfl, rfl, rfl, rfl, rfl, rfl, rfl⟩, rfl, rfl, rfl, rfl, rfl⟩
  · intro _ i
    have : zeroCounters.get i = 0 := by cases i <;> rfl
    show zeroCounters.get i ≤ 65535
    omega
  · exact EntriesSound.map (fun e => { e with missed := 0 }) (fun _ _ => rfl) h

theorem State.serveTrigger_stores (s : State) : State.Stores s s.serveTrigger :=
  (State.respond_stores s _ _ _).trans (State.deliver_delivers _ _).stores

theorem State.serveClear_stores (s : State) (c : Nat) : State.Stores s (s.serveClear c) := by
  unfold State.serveClear
  split
  · exact State.respond_stores s _ _ _
  · rename_i ch hc
    split
    · exact State.respond_stores s _ _ _
    · split
      · exact State.respond_stores s _ _ _
      · split
        · exact State.respond_stores s _ _ _
        · refine .trans ?_ (State.respond_stores _ _ _ _)
          exact ⟨⟨Recorder.Moves.clear s.recorder c ch hc, id, id, id, id, id, rfl, rfl, rfl, rfl, rfl,
            rfl, rfl⟩, rfl, rfl, rfl, rfl, rfl⟩

theorem State.serveErase_stores (s : State) : State.Stores s s.serveErase := by
  unfold State.serveErase
  split
  · exact State.respond_stores s _ _ _
  · split
    · exact State.respond_stores s _ _ _
    · refine .trans ?_ (State.respond_stores _ _ _ _)
      exact .of_ask s _ (.eraseAll 1) (by simp) rfl

theorem State.finishImage_stores (s : State) (image : List Byte) : State.Stores s (s.finishImage image) := by
  have h₀ := State.setAssembly_stores s none
  unfold State.finishImage
  dsimp only
  split
  · exact h₀.trans (State.respond_stores _ _ _ _)
  · split
    · exact h₀.trans (State.respond_stores _ _ _ _)
    · split
      · exact h₀.trans (State.respond_stores _ _ _ _)
      · refine .trans h₀ (.trans ?_ (State.setInProgress_stores _ _))
        exact .of_ask _ _ _ (by simp) rfl

theorem State.serveChunk_stores (s : State) (c : Chunk) : State.Stores s (s.serveChunk c) := by
  have h₀ := State.setAssembly_stores s none
  unfold State.serveChunk
  split
  · exact h₀.trans (State.respond_stores _ _ _ _)
  · split
    · exact h₀.trans (State.respond_stores _ _ _ _)
    · split
      · exact State.finishImage_stores s _
      · exact .trans (State.setAssembly_stores s _) (State.respond_stores _ _ _ _)

theorem State.serveRestart_stores (s : State) : State.Stores s s.serveRestart := by
  unfold State.serveRestart
  split
  · exact State.respond_stores s _ _ _
  · exact .trans (State.respond_stores s _ _ _) (State.setInProgress_stores _ _)

/-! ### Requests and the receiver -/

theorem State.takeUnknown_stores (s : State) (code : Byte) : State.Stores s (s.takeUnknown code) := by
  unfold State.takeUnknown
  split <;> exact (State.hunt_stores s).trans (State.respondCode_stores _ _ _ _)

theorem State.servePeer_stores (s : State) (addr : Nat) : State.Stores s (s.servePeer addr) := by
  unfold State.servePeer
  split <;> exact State.respond_stores s _ _ _

/-- A request leaves the sensing and blending units, whatever its command. -/
theorem State.takeRequest_stores (s : State) (code : Byte) (p : List Byte) : State.Stores s (s.takeRequest code p) := by
  unfold State.takeRequest
  split
  · exact State.request_stores s _ _ _ fun _ s => State.respond_stores s _ _ _
  · exact State.request_stores s _ _ _ fun _ s => State.respond_stores s _ _ _
  · exact State.request_stores s _ _ _ fun a s => State.servePeer_stores s a
  · exact State.request_stores s _ _ _ fun _ s => State.respond_stores s _ _ _
  · exact State.request_stores s _ _ _ fun x s => State.serveIncident_stores s x
  · exact State.request_stores s _ _ _ fun _ s => State.respond_stores s _ _ _
  · exact State.request_stores s _ _ _ fun _ s => (State.clearCounters_stores s).trans (State.respond_stores _ _ _ _)
  · exact State.request_stores s _ _ _ fun _ s => State.serveTrigger_stores s
  · exact State.request_stores s _ _ _ fun x s => State.serveClear_stores s x
  · exact State.request_stores s _ _ _ fun _ s => State.serveErase_stores s
  · exact State.request_stores s _ _ _ fun x s => State.serveChunk_stores s x
  · exact State.request_stores s _ _ _ fun _ s => State.serveRestart_stores s
  · exact State.takeUnknown_stores s code

theorem State.setReceiver_stores (s : State) (r : Receiver × Heard) : State.Stores s (s.setReceiver r) := by
  unfold State.setReceiver
  dsimp only
  split
  · exact .of_service s _ _
  · exact .trans (.of_service s _ _) (State.bump_delivers _ _).stores
  · exact .trans (.of_service s _ _) (State.takeRequest_stores _ _ _)

theorem State.hearByte_stores (s : State) (b : LinkByte) : State.Stores s (s.hearByte b) :=
  (State.setReceiver_stores _ _).trans (State.setReceiver_stores _ _)

theorem State.timeOut_stores (s : State) : State.Stores s s.timeOut := State.setReceiver_stores s _

/-- Work in an event after time has passed, and more work after more time. -/
theorem State.Stores.after {s t u : State} {a b : Nat} (h : State.Stores (s.advance a) t)
    (h' : State.Stores (t.advance b) u) : State.Stores (s.advance (a + b)) u := by
  refine .trans (t := t.advance b) ?_ h'
  refine ⟨⟨h.moves, h.urgent, h.counts, h.sound, h.peers, h.flash, ?_, h.runPhase, h.address, h.cfgdef, h.config,
    h.source, h.pending⟩, h.acq, h.slide, h.demand, h.sharing, h.outputs⟩
  show t.clock + b = s.clock + (a + b)
  rw [h.clock]
  show s.clock + a + b = _
  omega

end Sys2Proof.Machine
end

