-- ==== Sys2Proof/Laws/Exec.lean ====
section
/-! SUPPORT. What a command can do to the state, said once for all 52: it is steady, or it is one of the two parts of the
reset sequence. -/

namespace Sys2Proof.Machine

/-- An event whose work is steady. -/
theorem State.event_steady {work : State → State} (hw : ∀ s, State.Steady s (work s)) (s : State) (dt : Nat) :
    State.Steady (s.advance dt) (s.event dt work) := by
  unfold State.event
  dsimp only
  split
  · exact (hw _).trans (State.recordChannels_delivers _ _).steady
  · exact .refl _

/-- An event under a condition whose work is steady. -/
theorem State.eventIf_steady {cond : State → Bool} {work : State → State} (hw : ∀ s, State.Steady s (work s))
    (s : State) (dt : Nat) : State.Steady (s.advance dt) (s.eventIf dt cond work) := by
  refine State.event_steady (fun s => ?_) s dt
  split
  · exact hw s
  · exact .refl s

/-- An event whose work leaves the sensing and blending units. -/
theorem State.event_stores {work : State → State} (hw : ∀ s, State.Stores s (work s)) (s : State) (dt : Nat) :
    State.Stores (s.advance dt) (s.event dt work) := by
  unfold State.event
  dsimp only
  split
  · exact (hw _).trans (State.recordChannels_delivers _ _).stores
  · exact .refl _

/-- The same under a condition. -/
theorem State.eventIf_stores {cond : State → Bool} {work : State → State} (hw : ∀ s, State.Stores s (work s))
    (s : State) (dt : Nat) : State.Stores (s.advance dt) (s.eventIf dt cond work) := by
  refine State.event_stores (fun s => ?_) s dt
  split
  · exact hw s
  · exact .refl s

/-- Bytes at the receiver leave the sensing and blending units. -/
theorem State.hearBytes_stores (bs : List LinkByte) (s : State) :
    State.Stores (s.advance (heardTime bs)) (s.hearBytes bs) := by
  induction bs generalizing s with
  | nil => exact .refl s
  | cons b bs ih =>
    exact (State.event_stores (fun s => State.hearByte_stores s b) s b.wait).after (ih _)

theorem State.ageingExpires_stores (s : State) : State.Stores s s.ageingExpires := by
  have h : ∀ (x : State) (r : List PeerEntry × List Message),
      (x.withPeers r).acq = x.acq ∧ (x.withPeers r).slide = x.slide ∧ (x.withPeers r).demand = x.demand ∧
        (x.withPeers r).sharing = x.sharing ∧ (x.withPeers r).outputs = x.outputs := by
    intro x r
    have hd := State.withPeers_delivers x r
    exact ⟨hd.acq, hd.slide, hd.demand, hd.sharing, hd.outputs⟩
  obtain ⟨h₁, h₂, h₃, h₄, h₅⟩ := h { s with peers := { s.peers with ageingDue := s.peers.ageingDue + 20000 } }
    ((s.peers.entries.map (PeerEntry.ageStep s.now)).filterMap Prod.fst,
      (s.peers.entries.map (PeerEntry.ageStep s.now)).flatMap Prod.snd)
  exact ⟨State.ageingExpires_steady s, h₁, h₂, h₃, h₄, h₅⟩

/-- The commands whose work is the sensing and blending units' or the reset sequence's. -/
def touchesUnits : Instr → Bool
  | .reset _ _ _ => true
  | .configImageReadCompletion _ _ => true
  | .scanCompletion _ => true
  | .toothPulse _ _ => true
  | .speedWindowExpiry _ _ _ _ => true
  | .controlCycle _ => true
  | .noticeRepeatExpiry _ => true
  | .exitTimerExpiry _ => true
  | .statusReplyArrival _ _ => true
  | .receiveCompletion _ _ _ => true
  | .listenTimerExpiry _ => false
  | .statementTimerExpiry _ => false
  | .dueStatementQueued _ => false
  | .holdTimerExpiry _ => false
  | .attemptStart _ => false
  | .collision _ => false
  | .jamEnd _ => false
  | .backoffWaitEnd _ _ => false
  | .lateCollision _ => false
  | .frameSent _ => false
  | .ageingTimerExpiry _ => false
  | .windowTimerExpiry _ => false
  | .powerFailWarningStanding _ => false
  | .powerFailWarningCeases _ => false
  | .scanReadCompletion _ _ => false
  | .flashInterfaceGrant _ => false
  | .slotEraseCompletion _ _ => false
  | .bodyProgramCompletion _ _ => false
  | .headerProgramCompletion _ _ => false
  | .eraseAllCompletion _ _ => false
  | .configEraseCompletion _ _ => false
  | .configProgramCompletion _ _ => false
  | .incidentReadCompletion _ _ => false
  | .serviceFrameError _ _ => false
  | .requestTimeout _ => false
  | .unknownCommand _ _ _ => false
  | .readStatus _ _ => false
  | .readPeers _ _ => false
  | .readPeer _ _ => false
  | .listIncidents _ _ => false
  | .readIncident _ _ => false
  | .readCounters _ _ => false
  | .clearCounters _ _ => false
  | .trigger _ _ => false
  | .clearChannel _ _ => false
  | .eraseIncidents _ _ => false
  | .writeConfig _ _ => false
  | .restart _ _ => false
  | .restartResponseSent _ _ _ => true
  | .pressureConversionCompletion _ _ _ => true
  | .handleInputEdge _ _ => true
  | .serviceResponseSent _ => false

/-- What every other command can do. -/
theorem exec_stores (c : Instr) (s t : State) (hc : touchesUnits c = false) (h : exec c s = .next t) :
    ∃ dt, State.Stores (s.advance dt) t := by
  cases c <;> first | (simp only [touchesUnits, Bool.true_eq_false] at hc; done) | skip
  all_goals (simp only [exec] at h; cases h)
  case listenTimerExpiry dt => exact ⟨dt, State.eventIf_stores (fun s => (State.listenEnds_talks s).stores) s dt⟩
  case statementTimerExpiry dt =>
    refine ⟨dt, State.eventIf_stores (fun s => ?_) s dt⟩
    have h := State.makeDue_talks { s with line := { s.line with statementDue := none } }
    exact (State.Talks.trans (.of_line_same s { s.line with statementDue := none } rfl rfl) h).stores
  case dueStatementQueued dt => exact ⟨dt, State.eventIf_stores (fun s => (State.queueStatement_talks s).stores) s dt⟩
  case holdTimerExpiry dt => exact ⟨dt, State.eventIf_stores (fun s => (State.placeProbe_talks s).stores) s dt⟩
  case attemptStart dt =>
    refine ⟨dt, State.event_stores (fun s => ?_) s dt⟩
    unfold State.tryAttempt
    split
    · exact .refl s
    · exact (State.startAttempt_talks s _).stores
  case collision dt =>
    refine ⟨dt, State.event_stores (fun s => ?_) s dt⟩
    unfold State.collisionEvent
    split
    · split
      · exact (State.collide_talks s _).stores
      · exact .refl s
    · exact .refl s
    · exact .refl s
  case jamEnd dt =>
    refine ⟨dt, State.event_stores (fun s => ?_) s dt⟩
    unfold State.jamEvent
    split
    · split
      · exact (State.jamEnds_talks s _).stores
      · exact .refl s
    · exact .refl s
    · exact .refl s
  case backoffWaitEnd dt cls => exact ⟨dt, State.event_stores (fun s => (State.waitEnds_talks s cls).stores) s dt⟩
  case lateCollision dt =>
    refine ⟨dt, State.event_stores (fun s => ?_) s dt⟩
    unfold State.lateEvent
    split
    · split
      · exact (State.lateCollide_talks s _).stores
      · exact .refl s
    · exact .refl s
    · exact .refl s
  case frameSent dt =>
    refine ⟨dt, State.event_stores (fun s => ?_) s dt⟩
    unfold State.sentEvent
    split
    · split
      · exact (State.sendDone_talks s _).stores
      · exact .refl s
    · exact .refl s
    · exact .refl s
  case ageingTimerExpiry dt => exact ⟨dt, State.eventIf_stores State.ageingExpires_stores s dt⟩
  case windowTimerExpiry dt =>
    exact ⟨dt, State.eventIf_stores (fun s => (State.closeIncident_delivers s false).stores) s dt⟩
  case powerFailWarningStanding dt =>
    refine ⟨dt, ?_⟩
    split
    · exact State.event_stores State.warningStands_stores s dt
    · exact .of_service _ _ _
  case powerFailWarningCeases dt =>
    refine ⟨dt, ?_⟩
    split
    · exact State.event_stores State.warningCeases_stores s dt
    · exact .of_service _ _ _
  case scanReadCompletion dt ok => exact ⟨dt, State.event_stores (fun s => State.scanReadEvent_stores s ok) s dt⟩
  case flashInterfaceGrant dt => exact ⟨dt, State.grantFlash_stores _⟩
  case slotEraseCompletion dt r => exact ⟨dt, State.event_stores (fun s => State.slotEraseEvent_stores s r) s dt⟩
  case bodyProgramCompletion dt r => exact ⟨dt, State.event_stores (fun s => State.bodyEvent_stores s r) s dt⟩
  case headerProgramCompletion dt r => exact ⟨dt, State.event_stores (fun s => State.headerEvent_stores s r) s dt⟩
  case eraseAllCompletion dt r => exact ⟨dt, State.event_stores (fun s => State.eraseAllEvent_stores s r) s dt⟩
  case configEraseCompletion dt r => exact ⟨dt, State.event_stores (fun s => State.configEraseEvent_stores s r) s dt⟩
  case configProgramCompletion dt r =>
    exact ⟨dt, State.event_stores (fun s => State.configProgramEvent_stores s r) s dt⟩
  case incidentReadCompletion dt ok =>
    exact ⟨dt, State.event_stores (fun s => State.incidentReadEvent_stores s ok) s dt⟩
  case serviceFrameError dt bs => exact ⟨_, (State.hearBytes_stores bs s).after (b := dt - heardTime bs) (.refl _)⟩
  case requestTimeout p =>
    exact ⟨_, (State.hearBytes_stores p.bytes s).after (State.event_stores State.timeOut_stores _ _)⟩
  case unknownCommand dt code p => exact ⟨dt, State.eventIf_stores (fun s => State.takeUnknown_stores s code) s dt⟩
  case readStatus dt p => exact ⟨dt, State.event_stores (fun s => State.takeRequest_stores s 1 p) s dt⟩
  case readPeers dt p => exact ⟨dt, State.event_stores (fun s => State.takeRequest_stores s 2 p) s dt⟩
  case readPeer dt p => exact ⟨dt, State.event_stores (fun s => State.takeRequest_stores s 3 p) s dt⟩
  case listIncidents dt p => exact ⟨dt, State.event_stores (fun s => State.takeRequest_stores s 4 p) s dt⟩
  case readIncident dt p => exact ⟨dt, State.event_stores (fun s => State.takeRequest_stores s 5 p) s dt⟩
  case readCounters dt p => exact ⟨dt, State.event_stores (fun s => State.takeRequest_stores s 6 p) s dt⟩
  case clearCounters dt p => exact ⟨dt, State.event_stores (fun s => State.takeRequest_stores s 7 p) s dt⟩
  case trigger dt p => exact ⟨dt, State.event_stores (fun s => State.takeRequest_stores s 8 p) s dt⟩
  case clearChannel dt p => exact ⟨dt, State.event_stores (fun s => State.takeRequest_stores s 9 p) s dt⟩
  case eraseIncidents dt p => exact ⟨dt, State.event_stores (fun s => State.takeRequest_stores s 10 p) s dt⟩
  case writeConfig dt p => exact ⟨dt, State.event_stores (fun s => State.takeRequest_stores s 11 p) s dt⟩
  case restart dt p => exact ⟨dt, State.event_stores (fun s => State.takeRequest_stores s 12 p) s dt⟩
  case serviceResponseSent dt =>
    refine ⟨dt, State.event_stores (fun s => ?_) s dt⟩
    unfold State.responseSent
    split
    · exact .refl s
    · exact (State.sendHead_stores s).trans (.of_service _ _ _)

/-- A command that is not the reset sequence's does work that is steady after some time has passed. -/
theorem exec_steady (c : Instr) (s t : State) (hc : resetCommand c = false) (h : exec c s = .next t) :
    ∃ dt, State.Steady (s.advance dt) t := by
  by_cases hu : touchesUnits c = false
  · obtain ⟨dt, hs⟩ := exec_stores c s t hu h
    exact ⟨dt, hs.toSteady⟩
  cases c <;> first | (simp only [touchesUnits, not_true_eq_false] at hu; done) | skip
  all_goals simp only [exec] at h
  case reset dt straps left => simp [resetCommand] at hc
  case configImageReadCompletion dt ok => simp [resetCommand] at hc
  case restartResponseSent dt straps left => simp [resetCommand] at hc
  case scanCompletion dt =>
    cases h
    exact ⟨dt, State.eventIf_steady State.scanCompletes_steady s dt⟩
  case toothPulse dt axle =>
    cases h
    exact ⟨dt, State.event_steady (fun s => .of_units s _ _ _ _ _ _ _ _) s dt⟩
  case speedWindowExpiry dt f₁ f₂ f₃ =>
    cases h
    exact ⟨dt, State.eventIf_steady (fun s => State.windowExpires_steady s _) s dt⟩
  case controlCycle dt =>
    cases h
    exact ⟨dt, State.eventIf_steady State.controlCycle_steady s dt⟩
  case noticeRepeatExpiry dt =>
    cases h
    exact ⟨dt, State.eventIf_steady State.repeatNotice_steady s dt⟩
  case exitTimerExpiry dt =>
    cases h
    exact ⟨dt, State.eventIf_steady State.exitCheck_steady s dt⟩
  case statusReplyArrival dt frame =>
    cases h
    exact ⟨dt, State.event_steady (fun s => State.statusArrival_steady s _) s dt⟩
  case receiveCompletion dt frame extra =>
    cases h
    exact ⟨dt, State.eventIf_steady (fun s => State.receive_steady s _ _) s dt⟩
  case pressureConversionCompletion dt ch r =>
    cases h
    exact ⟨dt, State.event_steady (fun s => State.convert_steady s ch r) s dt⟩
  case handleInputEdge dt high =>
    cases h
    exact ⟨dt, .of_units _ _ _ _ _ _ _ _ _⟩

/-- What a command can do: work that is steady after some time has passed, the start of the reset sequence, or its end. -/
theorem exec_cases (c : Instr) (s t : State) (h : exec c s = .next t) :
    (∃ dt, State.Steady (s.advance dt) t) ∨
      (∃ out straps left, t = State.beginReset { s with serviceOut := out } straps left) ∨
      (∃ ok, t = s.imageRead ok) := by
  by_cases hc : resetCommand c = false
  · exact .inl (exec_steady c s t hc h)
  cases c <;> first | (simp only [resetCommand, not_true_eq_false] at hc; done) | skip
  all_goals simp only [exec] at h
  case reset dt straps left =>
    cases h; exact .inr (.inl ⟨s.serviceOut, straps, left, rfl⟩)
  case restartResponseSent dt straps left =>
    cases h
    split
    · obtain ⟨out, hs⟩ := s.sendHead_eq
      exact .inr (.inl ⟨out, straps, left, by rw [hs]⟩)
    · exact .inl ⟨dt, .refl _⟩
  case configImageReadCompletion dt ok =>
    cases h
    split
    · exact .inr (.inr ⟨ok, rfl⟩)
    · exact .inl ⟨dt, .refl _⟩

end Sys2Proof.Machine
end

