-- ==== Sys2Proof/Laws/Blend.lean ====
section
/-! SUPPORT. The Blending Unit: the bounds of the sharing stage, of the commands and of the cylinder setpoint, and what the
demand section's operations leave. -/

namespace Sys2Proof.Machine

/-! ### The setpoint (R123, R124) -/

@[simp] theorem Outputs.drive_bcOut (o : Outputs) (v : Nat) (now : Time) : (o.drive v now).bcOut = v := by
  unfold Outputs.drive
  split
  · assumption
  · split <;> rfl

/-- Driving the setpoint changes BCout and the settle reference alone. -/
theorem Outputs.drive_frame (o : Outputs) (v : Nat) (now : Time) :
    o.drive v now = { o with bcOut := (o.drive v now).bcOut, settleRef := (o.drive v now).settleRef,
                             settleTime := (o.drive v now).settleTime } := by
  unfold Outputs.drive
  split
  · rfl
  · split <;> rfl

@[simp] theorem Outputs.drive_ecmd (o : Outputs) (v : Nat) (now : Time) : (o.drive v now).ecmd = o.ecmd := by
  rw [Outputs.drive_frame]
@[simp] theorem Outputs.drive_fcmd (o : Outputs) (v : Nat) (now : Time) : (o.drive v now).fcmd = o.fcmd := by
  rw [Outputs.drive_frame]
@[simp] theorem Outputs.drive_latest (o : Outputs) (v : Nat) (now : Time) : (o.drive v now).latest = o.latest := by
  rw [Outputs.drive_frame]
@[simp] theorem Outputs.drive_bcSet (o : Outputs) (v : Nat) (now : Time) : (o.drive v now).bcSet = o.bcSet := by
  rw [Outputs.drive_frame]
@[simp] theorem Outputs.drive_linkUp (o : Outputs) (v : Nat) (now : Time) : (o.drive v now).linkUp = o.linkUp := by
  rw [Outputs.drive_frame]
@[simp] theorem Outputs.drive_nextSeq (o : Outputs) (v : Nat) (now : Time) : (o.drive v now).nextSeq = o.nextSeq := by
  rw [Outputs.drive_frame]
@[simp] theorem Outputs.drive_frictionFault (o : Outputs) (v : Nat) (now : Time) :
    (o.drive v now).frictionFault = o.frictionFault := by rw [Outputs.drive_frame]
@[simp] theorem Outputs.drive_unservedStart (o : Outputs) (v : Nat) (now : Time) :
    (o.drive v now).unservedStart = o.unservedStart := by rw [Outputs.drive_frame]
@[simp] theorem Outputs.drive_unservedRaised (o : Outputs) (v : Nat) (now : Time) :
    (o.drive v now).unservedRaised = o.unservedRaised := by rw [Outputs.drive_frame]

/-! ### The commands (R116 to R119) -/

/-- A halving never raises (R117). -/
theorem halved_le (cut : Bool) (e : Nat) : halved cut e ≤ e := by
  unfold halved
  split
  · exact Nat.div_le_self e 2
  · exact le_rfl

/-- A ramp stays between its start and its target (R118, R119). -/
theorem ramp_between (target up down v : Nat) :
    min target v ≤ ramp target up down v ∧ ramp target up down v ≤ max target v := by
  unfold ramp
  split
  · omega
  · split <;> omega

/-- A ramp moves by no more than its rates (R118, R119). -/
theorem ramp_rate (target up down v : Nat) : ramp target up down v ≤ v + up ∧ v ≤ ramp target up down v + down := by
  unfold ramp
  split
  · omega
  · split <;> omega

/-- Ecmd is capped by AL and Emax (R118). -/
theorem nextEcmd_le (c : Configuration) (cut : Bool) (target al ecmd : Nat) :
    nextEcmd c cut target al ecmd ≤ al ∧ nextEcmd c cut target al ecmd ≤ c.emax := by
  unfold nextEcmd; omega

/-- With a target of 0 Ecmd does not rise (law 9). -/
theorem nextEcmd_zero (c : Configuration) (cut : Bool) (al ecmd : Nat) : nextEcmd c cut 0 al ecmd ≤ ecmd := by
  have h := (ramp_between 0 c.reUp c.reDn (halved cut ecmd)).2
  have h' := halved_le cut ecmd
  unfold nextEcmd
  omega

@[simp] theorem Outputs.command_ecmd (o : Outputs) (c : Configuration) (cut : Bool) (et ft al : Nat) :
    (o.command c cut et ft al).ecmd = nextEcmd c cut et al o.ecmd := by
  unfold Outputs.command; dsimp only; split <;> rfl
@[simp] theorem Outputs.command_fcmd (o : Outputs) (c : Configuration) (cut : Bool) (et ft al : Nat) :
    (o.command c cut et ft al).fcmd = nextFcmd c (decide (nextEcmd c cut et al o.ecmd < o.ecmd)) ft o.fcmd := by
  unfold Outputs.command; dsimp only; split <;> rfl
@[simp] theorem Outputs.setpoint_ecmd (o : Outputs) (c : Configuration) (m : Mode) (q : Quad PressItem) (now : Time) :
    (o.setpoint c m q now).ecmd = o.ecmd := by unfold Outputs.setpoint; dsimp only; split <;> simp
@[simp] theorem Outputs.setpoint_fcmd (o : Outputs) (c : Configuration) (m : Mode) (q : Quad PressItem) (now : Time) :
    (o.setpoint c m q now).fcmd = o.fcmd := by unfold Outputs.setpoint; dsimp only; split <;> simp

/-- What an outputs stage leaves (R111, R112, R118 to R123). -/
theorem Outputs.stage_spec (o : Outputs) (c : Configuration) (mode : Mode) (cut : Bool) (r : Sharing)
    (chans : Quad PressItem) (now : Time) :
    (o.stage c mode cut r chans now).ecmd = nextEcmd c cut (targetIn mode r.et) r.al o.ecmd ∧
      (o.stage c mode cut r chans now).latest.map Request.ecmd = some (o.stage c mode cut r chans now).ecmd ∧
      (mode = .emergency → (o.stage c mode cut r chans now).bcOut = emergencyPressure c chans.ind.value) := by
  refine ⟨?_, rfl, ?_⟩
  · simp [Outputs.stage, Outputs.close, Outputs.send]
  · intro hm
    simp [Outputs.stage, Outputs.close, Outputs.send, Outputs.setpoint, hm]

/-- What a cycle leaves for the statements and summaries that follow it (log entry 44). -/
theorem Outputs.stage_cycle (o : Outputs) (c : Configuration) (mode : Mode) (cut : Bool) (r : Sharing)
    (chans : Quad PressItem) (now : Time) :
    (o.stage c mode cut r chans now).cycle =
      { sd := r.sd, eact := (o.stage c mode cut r chans now).status.eact,
        fcmd := (o.stage c mode cut r chans now).fcmd, u := r.u } := rfl

@[simp] theorem Sharing.inEmergency_sd (r : Sharing) : r.inEmergency.sd = 0 := rfl
@[simp] theorem Sharing.inEmergency_et (r : Sharing) : r.inEmergency.et = 0 := rfl
@[simp] theorem Sharing.inEmergency_ft (r : Sharing) : r.inEmergency.ft = 0 := rfl
@[simp] theorem Sharing.inEmergency_u (r : Sharing) : r.inEmergency.u = 0 := rfl
@[simp] theorem Sharing.inEmergency_ce (r : Sharing) : r.inEmergency.ce = r.ce := rfl
@[simp] theorem Sharing.inEmergency_fx (r : Sharing) : r.inEmergency.fx = r.fx := rfl
@[simp] theorem Sharing.inEmergency_al (r : Sharing) : r.inEmergency.al = r.al := rfl

/-- The unserved run changes its own two fields (R127). -/
theorem Outputs.unserved_frame (o : Outputs) (uthr u : Nat) (now : Time) :
    (o.unserved uthr u now).1 =
      { o with unservedStart := (o.unserved uthr u now).1.unservedStart,
               unservedRaised := (o.unserved uthr u now).1.unservedRaised } := by
  unfold Outputs.unserved
  split
  · rfl
  · split
    · rfl
    · split <;> rfl

/-! ### Sharing (R98 to R106) -/

/-- CE is never above AL (R98). -/
theorem ownCe_le (c : Configuration) (mode : Mode) (o : Outputs) (al : Nat) : ownCe c mode o al ≤ al := by
  unfold ownCe
  split
  · omega
  · split
    · omega
    · split
      · omega
      · split
        · omega
        · split <;> omega

/-- Law 3 (R106): the targets of the stage stay within AL and FX. -/
theorem Sharing.stage_safe (r : Sharing) (mode : Mode) (d ce fx al : Nat) (alone : Alone) (peers : List Member)
    (h : ce ≤ al) :
    (r.stage mode d ce fx al alone peers).et + (r.stage mode d ce fx al alone peers).ft ≤
        (r.stage mode d ce fx al alone peers).al ∧
      (r.stage mode d ce fx al alone peers).ft ≤ (r.stage mode d ce fx al alone peers).fx := by
  have key : ∀ (x : Sharing) (own : Member) (ps : List Member), x.ce = ce → x.fx = fx → x.al = al →
      own.ce = ce → own.fx = fx → own.al = al →
      (x.compute own ps).et + (x.compute own ps).ft ≤ (x.compute own ps).al ∧
        (x.compute own ps).ft ≤ (x.compute own ps).fx := by
    intro x own ps h₁ h₂ h₃ h₄ h₅ h₆
    have hh : own.headroom ≤ fx ∧ own.headroom ≤ al - ce := by
      unfold Member.headroom; rw [h₄, h₅, h₆]; omega
    unfold Sharing.compute
    dsimp only
    split
    · simp
    · split
      · rename_i hsd hle
        simp only [Sharing.caseA, h₁, h₃]
        refine ⟨?_, Nat.zero_le _⟩
        have he : sumOf ((own :: ps).map Member.d) * 65536 / sumOf ((own :: ps).map Member.ce) ≤ 65536 := by
          exact Nat.div_le_of_le_mul (Nat.mul_le_mul_right 65536 hle)
        have : ce * (sumOf ((own :: ps).map Member.d) * 65536 / sumOf ((own :: ps).map Member.ce)) / 65536 ≤ ce := by
          refine Nat.div_le_of_le_mul ?_
          rw [Nat.mul_comm 65536]
          exact Nat.mul_le_mul_left _ he
        omega
      · unfold Sharing.caseB
        dsimp only
        split
        · simp only [h₁, h₃]; omega
        · split
          · simp only [h₁, h₂, h₃]; omega
          · simp only [h₁, h₂, h₃]; omega
  unfold Sharing.stage
  dsimp only
  split
  · simp [Sharing.emergency]
  · exact key _ _ _ rfl rfl rfl rfl rfl rfl

/-- Law 3 after the sharing stage of a cycle. -/
theorem State.sharingStage_targetsSafe (s : State) : s.sharingStage.TargetsSafe :=
  Sharing.stage_safe _ _ _ _ _ _ _ _ (ownCe_le _ _ _ _)

theorem Sharing.compute_al (r : Sharing) (own : Member) (ps : List Member) : (r.compute own ps).al = r.al := by
  unfold Sharing.compute
  dsimp only
  split
  · rfl
  · split
    · rfl
    · unfold Sharing.caseB
      dsimp only
      split
      · rfl
      · split <;> rfl

/-- The AL of the stage is the limit it was given. -/
theorem Sharing.stage_al (r : Sharing) (mode : Mode) (d ce fx al : Nat) (alone : Alone) (peers : List Member) :
    (r.stage mode d ce fx al alone peers).al = al := by
  unfold Sharing.stage
  dsimp only
  split
  · rfl
  · exact Sharing.compute_al _ _ _

/-! ### What the link check leaves (R114, R115) -/

/-- The link check leaves the commands, the setpoint and the latest request. -/
theorem Outputs.linkCheck_keeps (o : Outputs) (etol : Nat) :
    (o.linkCheck etol).1.ecmd = o.ecmd ∧ (o.linkCheck etol).1.fcmd = o.fcmd ∧ (o.linkCheck etol).1.bcOut = o.bcOut ∧
      (o.linkCheck etol).1.latest = o.latest := by
  unfold Outputs.linkCheck
  split
  · unfold Outputs.miss
    dsimp only
    split <;> exact ⟨rfl, rfl, rfl, rfl⟩
  · split
    · unfold Outputs.fadeRuns
      dsimp only
      split
      · exact ⟨rfl, rfl, rfl, rfl⟩
      · split
        · split <;> exact ⟨rfl, rfl, rfl, rfl⟩
        · exact ⟨rfl, rfl, rfl, rfl⟩
    · exact ⟨rfl, rfl, rfl, rfl⟩

end Sys2Proof.Machine
end

