-- ==== Sys2Proof/Laws/State.lean ====
section
/-! SUPPORT. One lemma for each field of State and each update that the operations make, so that no later proof unfolds a
record update. -/

namespace Sys2Proof.Machine

/-! ### advance -/

@[simp] theorem State.advance_clock (s : State) (dt : Nat) : (s.advance dt).clock = s.clock + dt := rfl
@[simp] theorem State.advance_runPhase (s : State) (dt : Nat) : (s.advance dt).runPhase = s.runPhase := rfl
@[simp] theorem State.advance_address (s : State) (dt : Nat) : (s.advance dt).address = s.address := rfl
@[simp] theorem State.advance_cfgdef (s : State) (dt : Nat) : (s.advance dt).cfgdef = s.cfgdef := rfl
@[simp] theorem State.advance_config (s : State) (dt : Nat) : (s.advance dt).config = s.config := rfl
@[simp] theorem State.advance_source (s : State) (dt : Nat) : (s.advance dt).source = s.source := rfl
@[simp] theorem State.advance_powerFail (s : State) (dt : Nat) : (s.advance dt).powerFail = s.powerFail := rfl
@[simp] theorem State.advance_handleLevel (s : State) (dt : Nat) : (s.advance dt).handleLevel = s.handleLevel := rfl
@[simp] theorem State.advance_acq (s : State) (dt : Nat) : (s.advance dt).acq = s.acq := rfl
@[simp] theorem State.advance_slide (s : State) (dt : Nat) : (s.advance dt).slide = s.slide := rfl
@[simp] theorem State.advance_demand (s : State) (dt : Nat) : (s.advance dt).demand = s.demand := rfl
@[simp] theorem State.advance_sharing (s : State) (dt : Nat) : (s.advance dt).sharing = s.sharing := rfl
@[simp] theorem State.advance_outputs (s : State) (dt : Nat) : (s.advance dt).outputs = s.outputs := rfl
@[simp] theorem State.advance_line (s : State) (dt : Nat) : (s.advance dt).line = s.line := rfl
@[simp] theorem State.advance_peers (s : State) (dt : Nat) : (s.advance dt).peers = s.peers := rfl
@[simp] theorem State.advance_recorder (s : State) (dt : Nat) : (s.advance dt).recorder = s.recorder := rfl
@[simp] theorem State.advance_store (s : State) (dt : Nat) : (s.advance dt).store = s.store := rfl
@[simp] theorem State.advance_service (s : State) (dt : Nat) : (s.advance dt).service = s.service := rfl
@[simp] theorem State.advance_counters (s : State) (dt : Nat) : (s.advance dt).counters = s.counters := rfl
@[simp] theorem State.advance_flash (s : State) (dt : Nat) : (s.advance dt).flash = s.flash := rfl
@[simp] theorem State.advance_serviceOut (s : State) (dt : Nat) : (s.advance dt).serviceOut = s.serviceOut := rfl
@[simp] theorem State.advance_pending (s : State) (dt : Nat) : (s.advance dt).pending = s.pending := rfl

/-! ### logEvent -/

@[simp] theorem State.logEvent_clock (s : State) (source : EventSource) (detail : List Byte) :
    (s.logEvent source detail).clock = s.clock := by
  simp only [State.logEvent]
@[simp] theorem State.logEvent_runPhase (s : State) (source : EventSource) (detail : List Byte) :
    (s.logEvent source detail).runPhase = s.runPhase := by
  simp only [State.logEvent]
@[simp] theorem State.logEvent_address (s : State) (source : EventSource) (detail : List Byte) :
    (s.logEvent source detail).address = s.address := by
  simp only [State.logEvent]
@[simp] theorem State.logEvent_cfgdef (s : State) (source : EventSource) (detail : List Byte) :
    (s.logEvent source detail).cfgdef = s.cfgdef := by
  simp only [State.logEvent]
@[simp] theorem State.logEvent_config (s : State) (source : EventSource) (detail : List Byte) :
    (s.logEvent source detail).config = s.config := by
  simp only [State.logEvent]
@[simp] theorem State.logEvent_source (s : State) (source : EventSource) (detail : List Byte) :
    (s.logEvent source detail).source = s.source := by
  simp only [State.logEvent]
@[simp] theorem State.logEvent_powerFail (s : State) (source : EventSource) (detail : List Byte) :
    (s.logEvent source detail).powerFail = s.powerFail := by
  simp only [State.logEvent]
@[simp] theorem State.logEvent_handleLevel (s : State) (source : EventSource) (detail : List Byte) :
    (s.logEvent source detail).handleLevel = s.handleLevel := by
  simp only [State.logEvent]
@[simp] theorem State.logEvent_acq (s : State) (source : EventSource) (detail : List Byte) :
    (s.logEvent source detail).acq = s.acq := by
  simp only [State.logEvent]
@[simp] theorem State.logEvent_slide (s : State) (source : EventSource) (detail : List Byte) :
    (s.logEvent source detail).slide = s.slide := by
  simp only [State.logEvent]
@[simp] theorem State.logEvent_demand (s : State) (source : EventSource) (detail : List Byte) :
    (s.logEvent source detail).demand = s.demand := by
  simp only [State.logEvent]
@[simp] theorem State.logEvent_sharing (s : State) (source : EventSource) (detail : List Byte) :
    (s.logEvent source detail).sharing = s.sharing := by
  simp only [State.logEvent]
@[simp] theorem State.logEvent_outputs (s : State) (source : EventSource) (detail : List Byte) :
    (s.logEvent source detail).outputs = s.outputs := by
  simp only [State.logEvent]
@[simp] theorem State.logEvent_line (s : State) (source : EventSource) (detail : List Byte) :
    (s.logEvent source detail).line = s.line := by
  simp only [State.logEvent]
@[simp] theorem State.logEvent_peers (s : State) (source : EventSource) (detail : List Byte) :
    (s.logEvent source detail).peers = s.peers := by
  simp only [State.logEvent]
@[simp] theorem State.logEvent_recorder (s : State) (source : EventSource) (detail : List Byte) :
    (s.logEvent source detail).recorder = s.recorder.logEvent s.now source detail := by
  simp only [State.logEvent]
@[simp] theorem State.logEvent_store (s : State) (source : EventSource) (detail : List Byte) :
    (s.logEvent source detail).store = s.store := by
  simp only [State.logEvent]
@[simp] theorem State.logEvent_service (s : State) (source : EventSource) (detail : List Byte) :
    (s.logEvent source detail).service = s.service := by
  simp only [State.logEvent]
@[simp] theorem State.logEvent_counters (s : State) (source : EventSource) (detail : List Byte) :
    (s.logEvent source detail).counters = s.counters := by
  simp only [State.logEvent]
@[simp] theorem State.logEvent_flash (s : State) (source : EventSource) (detail : List Byte) :
    (s.logEvent source detail).flash = s.flash := by
  simp only [State.logEvent]
@[simp] theorem State.logEvent_serviceOut (s : State) (source : EventSource) (detail : List Byte) :
    (s.logEvent source detail).serviceOut = s.serviceOut := by
  simp only [State.logEvent]
@[simp] theorem State.logEvent_pending (s : State) (source : EventSource) (detail : List Byte) :
    (s.logEvent source detail).pending = s.pending := by
  simp only [State.logEvent]

/-! ### respondCode -/

@[simp] theorem State.respondCode_clock (s : State) (c : Byte) (code : Code) (v : List Byte) :
    (s.respondCode c code v).clock = s.clock := rfl
@[simp] theorem State.respondCode_runPhase (s : State) (c : Byte) (code : Code) (v : List Byte) :
    (s.respondCode c code v).runPhase = s.runPhase := rfl
@[simp] theorem State.respondCode_address (s : State) (c : Byte) (code : Code) (v : List Byte) :
    (s.respondCode c code v).address = s.address := rfl
@[simp] theorem State.respondCode_cfgdef (s : State) (c : Byte) (code : Code) (v : List Byte) :
    (s.respondCode c code v).cfgdef = s.cfgdef := rfl
@[simp] theorem State.respondCode_config (s : State) (c : Byte) (code : Code) (v : List Byte) :
    (s.respondCode c code v).config = s.config := rfl
@[simp] theorem State.respondCode_source (s : State) (c : Byte) (code : Code) (v : List Byte) :
    (s.respondCode c code v).source = s.source := rfl
@[simp] theorem State.respondCode_powerFail (s : State) (c : Byte) (code : Code) (v : List Byte) :
    (s.respondCode c code v).powerFail = s.powerFail := rfl
@[simp] theorem State.respondCode_handleLevel (s : State) (c : Byte) (code : Code) (v : List Byte) :
    (s.respondCode c code v).handleLevel = s.handleLevel := rfl
@[simp] theorem State.respondCode_acq (s : State) (c : Byte) (code : Code) (v : List Byte) :
    (s.respondCode c code v).acq = s.acq := rfl
@[simp] theorem State.respondCode_slide (s : State) (c : Byte) (code : Code) (v : List Byte) :
    (s.respondCode c code v).slide = s.slide := rfl
@[simp] theorem State.respondCode_demand (s : State) (c : Byte) (code : Code) (v : List Byte) :
    (s.respondCode c code v).demand = s.demand := rfl
@[simp] theorem State.respondCode_sharing (s : State) (c : Byte) (code : Code) (v : List Byte) :
    (s.respondCode c code v).sharing = s.sharing := rfl
@[simp] theorem State.respondCode_outputs (s : State) (c : Byte) (code : Code) (v : List Byte) :
    (s.respondCode c code v).outputs = s.outputs := rfl
@[simp] theorem State.respondCode_line (s : State) (c : Byte) (code : Code) (v : List Byte) :
    (s.respondCode c code v).line = s.line := rfl
@[simp] theorem State.respondCode_peers (s : State) (c : Byte) (code : Code) (v : List Byte) :
    (s.respondCode c code v).peers = s.peers := rfl
@[simp] theorem State.respondCode_recorder (s : State) (c : Byte) (code : Code) (v : List Byte) :
    (s.respondCode c code v).recorder = s.recorder := rfl
@[simp] theorem State.respondCode_store (s : State) (c : Byte) (code : Code) (v : List Byte) :
    (s.respondCode c code v).store = s.store := rfl
@[simp] theorem State.respondCode_service (s : State) (c : Byte) (code : Code) (v : List Byte) :
    (s.respondCode c code v).service = { s.service with responses := s.service.responses ++ [{ command := c, code := code, values := v }] } := rfl
@[simp] theorem State.respondCode_counters (s : State) (c : Byte) (code : Code) (v : List Byte) :
    (s.respondCode c code v).counters = s.counters := rfl
@[simp] theorem State.respondCode_flash (s : State) (c : Byte) (code : Code) (v : List Byte) :
    (s.respondCode c code v).flash = s.flash := rfl
@[simp] theorem State.respondCode_serviceOut (s : State) (c : Byte) (code : Code) (v : List Byte) :
    (s.respondCode c code v).serviceOut = s.serviceOut := rfl
@[simp] theorem State.respondCode_pending (s : State) (c : Byte) (code : Code) (v : List Byte) :
    (s.respondCode c code v).pending = s.pending := rfl

/-! ### setInProgress -/

@[simp] theorem State.setInProgress_clock (s : State) (q : Option Service) : (s.setInProgress q).clock = s.clock := rfl
@[simp] theorem State.setInProgress_runPhase (s : State) (q : Option Service) :
    (s.setInProgress q).runPhase = s.runPhase := rfl
@[simp] theorem State.setInProgress_address (s : State) (q : Option Service) :
    (s.setInProgress q).address = s.address := rfl
@[simp] theorem State.setInProgress_cfgdef (s : State) (q : Option Service) :
    (s.setInProgress q).cfgdef = s.cfgdef := rfl
@[simp] theorem State.setInProgress_config (s : State) (q : Option Service) :
    (s.setInProgress q).config = s.config := rfl
@[simp] theorem State.setInProgress_source (s : State) (q : Option Service) :
    (s.setInProgress q).source = s.source := rfl
@[simp] theorem State.setInProgress_powerFail (s : State) (q : Option Service) :
    (s.setInProgress q).powerFail = s.powerFail := rfl
@[simp] theorem State.setInProgress_handleLevel (s : State) (q : Option Service) :
    (s.setInProgress q).handleLevel = s.handleLevel := rfl
@[simp] theorem State.setInProgress_acq (s : State) (q : Option Service) : (s.setInProgress q).acq = s.acq := rfl
@[simp] theorem State.setInProgress_slide (s : State) (q : Option Service) : (s.setInProgress q).slide = s.slide := rfl
@[simp] theorem State.setInProgress_demand (s : State) (q : Option Service) :
    (s.setInProgress q).demand = s.demand := rfl
@[simp] theorem State.setInProgress_sharing (s : State) (q : Option Service) :
    (s.setInProgress q).sharing = s.sharing := rfl
@[simp] theorem State.setInProgress_outputs (s : State) (q : Option Service) :
    (s.setInProgress q).outputs = s.outputs := rfl
@[simp] theorem State.setInProgress_line (s : State) (q : Option Service) : (s.setInProgress q).line = s.line := rfl
@[simp] theorem State.setInProgress_peers (s : State) (q : Option Service) : (s.setInProgress q).peers = s.peers := rfl
@[simp] theorem State.setInProgress_recorder (s : State) (q : Option Service) :
    (s.setInProgress q).recorder = s.recorder := rfl
@[simp] theorem State.setInProgress_store (s : State) (q : Option Service) : (s.setInProgress q).store = s.store := rfl
@[simp] theorem State.setInProgress_service (s : State) (q : Option Service) :
    (s.setInProgress q).service = { s.service with inProgress := q } := rfl
@[simp] theorem State.setInProgress_counters (s : State) (q : Option Service) :
    (s.setInProgress q).counters = s.counters := rfl
@[simp] theorem State.setInProgress_flash (s : State) (q : Option Service) : (s.setInProgress q).flash = s.flash := rfl
@[simp] theorem State.setInProgress_serviceOut (s : State) (q : Option Service) : (s.setInProgress q).serviceOut = s.serviceOut := rfl
@[simp] theorem State.setInProgress_pending (s : State) (q : Option Service) :
    (s.setInProgress q).pending = s.pending := rfl

/-! ### hunt -/

@[simp] theorem State.hunt_clock (s : State) : s.hunt.clock = s.clock := rfl
@[simp] theorem State.hunt_runPhase (s : State) : s.hunt.runPhase = s.runPhase := rfl
@[simp] theorem State.hunt_address (s : State) : s.hunt.address = s.address := rfl
@[simp] theorem State.hunt_cfgdef (s : State) : s.hunt.cfgdef = s.cfgdef := rfl
@[simp] theorem State.hunt_config (s : State) : s.hunt.config = s.config := rfl
@[simp] theorem State.hunt_source (s : State) : s.hunt.source = s.source := rfl
@[simp] theorem State.hunt_powerFail (s : State) : s.hunt.powerFail = s.powerFail := rfl
@[simp] theorem State.hunt_handleLevel (s : State) : s.hunt.handleLevel = s.handleLevel := rfl
@[simp] theorem State.hunt_acq (s : State) : s.hunt.acq = s.acq := rfl
@[simp] theorem State.hunt_slide (s : State) : s.hunt.slide = s.slide := rfl
@[simp] theorem State.hunt_demand (s : State) : s.hunt.demand = s.demand := rfl
@[simp] theorem State.hunt_sharing (s : State) : s.hunt.sharing = s.sharing := rfl
@[simp] theorem State.hunt_outputs (s : State) : s.hunt.outputs = s.outputs := rfl
@[simp] theorem State.hunt_line (s : State) : s.hunt.line = s.line := rfl
@[simp] theorem State.hunt_peers (s : State) : s.hunt.peers = s.peers := rfl
@[simp] theorem State.hunt_recorder (s : State) : s.hunt.recorder = s.recorder := rfl
@[simp] theorem State.hunt_store (s : State) : s.hunt.store = s.store := rfl
@[simp] theorem State.hunt_service (s : State) :
    s.hunt.service = { s.service with receiver := .hunting } := rfl
@[simp] theorem State.hunt_counters (s : State) : s.hunt.counters = s.counters := rfl
@[simp] theorem State.hunt_flash (s : State) : s.hunt.flash = s.flash := rfl
@[simp] theorem State.hunt_serviceOut (s : State) : s.hunt.serviceOut = s.serviceOut := rfl
@[simp] theorem State.hunt_pending (s : State) : s.hunt.pending = s.pending := rfl

/-! ### setAssembly -/

@[simp] theorem State.setAssembly_clock (s : State) (a : Option (List Byte)) : (s.setAssembly a).clock = s.clock := rfl
@[simp] theorem State.setAssembly_runPhase (s : State) (a : Option (List Byte)) :
    (s.setAssembly a).runPhase = s.runPhase := rfl
@[simp] theorem State.setAssembly_address (s : State) (a : Option (List Byte)) :
    (s.setAssembly a).address = s.address := rfl
@[simp] theorem State.setAssembly_cfgdef (s : State) (a : Option (List Byte)) :
    (s.setAssembly a).cfgdef = s.cfgdef := rfl
@[simp] theorem State.setAssembly_config (s : State) (a : Option (List Byte)) :
    (s.setAssembly a).config = s.config := rfl
@[simp] theorem State.setAssembly_source (s : State) (a : Option (List Byte)) :
    (s.setAssembly a).source = s.source := rfl
@[simp] theorem State.setAssembly_powerFail (s : State) (a : Option (List Byte)) :
    (s.setAssembly a).powerFail = s.powerFail := rfl
@[simp] theorem State.setAssembly_handleLevel (s : State) (a : Option (List Byte)) :
    (s.setAssembly a).handleLevel = s.handleLevel := rfl
@[simp] theorem State.setAssembly_acq (s : State) (a : Option (List Byte)) : (s.setAssembly a).acq = s.acq := rfl
@[simp] theorem State.setAssembly_slide (s : State) (a : Option (List Byte)) : (s.setAssembly a).slide = s.slide := rfl
@[simp] theorem State.setAssembly_demand (s : State) (a : Option (List Byte)) :
    (s.setAssembly a).demand = s.demand := rfl
@[simp] theorem State.setAssembly_sharing (s : State) (a : Option (List Byte)) :
    (s.setAssembly a).sharing = s.sharing := rfl
@[simp] theorem State.setAssembly_outputs (s : State) (a : Option (List Byte)) :
    (s.setAssembly a).outputs = s.outputs := rfl
@[simp] theorem State.setAssembly_line (s : State) (a : Option (List Byte)) : (s.setAssembly a).line = s.line := rfl
@[simp] theorem State.setAssembly_peers (s : State) (a : Option (List Byte)) : (s.setAssembly a).peers = s.peers := rfl
@[simp] theorem State.setAssembly_recorder (s : State) (a : Option (List Byte)) :
    (s.setAssembly a).recorder = s.recorder := rfl
@[simp] theorem State.setAssembly_store (s : State) (a : Option (List Byte)) : (s.setAssembly a).store = s.store := rfl
@[simp] theorem State.setAssembly_service (s : State) (a : Option (List Byte)) :
    (s.setAssembly a).service = { s.service with assembly := a } := rfl
@[simp] theorem State.setAssembly_counters (s : State) (a : Option (List Byte)) :
    (s.setAssembly a).counters = s.counters := rfl
@[simp] theorem State.setAssembly_flash (s : State) (a : Option (List Byte)) : (s.setAssembly a).flash = s.flash := rfl
@[simp] theorem State.setAssembly_serviceOut (s : State) (a : Option (List Byte)) : (s.setAssembly a).serviceOut = s.serviceOut := rfl
@[simp] theorem State.setAssembly_pending (s : State) (a : Option (List Byte)) :
    (s.setAssembly a).pending = s.pending := rfl

/-! ### endOp -/

@[simp] theorem State.endOp_clock (s : State) (op : FlashOp) (r : FlashResult) : (s.endOp op r).clock = s.clock := rfl
@[simp] theorem State.endOp_runPhase (s : State) (op : FlashOp) (r : FlashResult) :
    (s.endOp op r).runPhase = s.runPhase := rfl
@[simp] theorem State.endOp_address (s : State) (op : FlashOp) (r : FlashResult) :
    (s.endOp op r).address = s.address := rfl
@[simp] theorem State.endOp_cfgdef (s : State) (op : FlashOp) (r : FlashResult) :
    (s.endOp op r).cfgdef = s.cfgdef := rfl
@[simp] theorem State.endOp_config (s : State) (op : FlashOp) (r : FlashResult) :
    (s.endOp op r).config = s.config := rfl
@[simp] theorem State.endOp_source (s : State) (op : FlashOp) (r : FlashResult) :
    (s.endOp op r).source = s.source := rfl
@[simp] theorem State.endOp_powerFail (s : State) (op : FlashOp) (r : FlashResult) :
    (s.endOp op r).powerFail = s.powerFail := rfl
@[simp] theorem State.endOp_handleLevel (s : State) (op : FlashOp) (r : FlashResult) :
    (s.endOp op r).handleLevel = s.handleLevel := rfl
@[simp] theorem State.endOp_acq (s : State) (op : FlashOp) (r : FlashResult) : (s.endOp op r).acq = s.acq := rfl
@[simp] theorem State.endOp_slide (s : State) (op : FlashOp) (r : FlashResult) : (s.endOp op r).slide = s.slide := rfl
@[simp] theorem State.endOp_demand (s : State) (op : FlashOp) (r : FlashResult) :
    (s.endOp op r).demand = s.demand := rfl
@[simp] theorem State.endOp_sharing (s : State) (op : FlashOp) (r : FlashResult) :
    (s.endOp op r).sharing = s.sharing := rfl
@[simp] theorem State.endOp_outputs (s : State) (op : FlashOp) (r : FlashResult) :
    (s.endOp op r).outputs = s.outputs := rfl
@[simp] theorem State.endOp_line (s : State) (op : FlashOp) (r : FlashResult) : (s.endOp op r).line = s.line := rfl
@[simp] theorem State.endOp_peers (s : State) (op : FlashOp) (r : FlashResult) : (s.endOp op r).peers = s.peers := rfl
@[simp] theorem State.endOp_recorder (s : State) (op : FlashOp) (r : FlashResult) :
    (s.endOp op r).recorder = s.recorder := rfl
@[simp] theorem State.endOp_store (s : State) (op : FlashOp) (r : FlashResult) :
    (s.endOp op r).store = { s.store with inFlight := none } := rfl
@[simp] theorem State.endOp_service (s : State) (op : FlashOp) (r : FlashResult) :
    (s.endOp op r).service = s.service := rfl
@[simp] theorem State.endOp_counters (s : State) (op : FlashOp) (r : FlashResult) :
    (s.endOp op r).counters = s.counters := rfl
@[simp] theorem State.endOp_flash (s : State) (op : FlashOp) (r : FlashResult) :
    (s.endOp op r).flash = op.after s.flash r := rfl
@[simp] theorem State.endOp_serviceOut (s : State) (op : FlashOp) (r : FlashResult) :
    (s.endOp op r).serviceOut = s.serviceOut := rfl
@[simp] theorem State.endOp_pending (s : State) (op : FlashOp) (r : FlashResult) :
    (s.endOp op r).pending = s.pending := rfl

/-! ### driveEmergency -/

@[simp] theorem State.driveEmergency_clock (s : State) : (s.driveEmergency).clock = s.clock := rfl
@[simp] theorem State.driveEmergency_runPhase (s : State) : (s.driveEmergency).runPhase = s.runPhase := rfl
@[simp] theorem State.driveEmergency_address (s : State) : (s.driveEmergency).address = s.address := rfl
@[simp] theorem State.driveEmergency_cfgdef (s : State) : (s.driveEmergency).cfgdef = s.cfgdef := rfl
@[simp] theorem State.driveEmergency_config (s : State) : (s.driveEmergency).config = s.config := rfl
@[simp] theorem State.driveEmergency_source (s : State) : (s.driveEmergency).source = s.source := rfl
@[simp] theorem State.driveEmergency_powerFail (s : State) : (s.driveEmergency).powerFail = s.powerFail := rfl
@[simp] theorem State.driveEmergency_handleLevel (s : State) : (s.driveEmergency).handleLevel = s.handleLevel := rfl
@[simp] theorem State.driveEmergency_acq (s : State) : (s.driveEmergency).acq = s.acq := rfl
@[simp] theorem State.driveEmergency_slide (s : State) : (s.driveEmergency).slide = s.slide := rfl
@[simp] theorem State.driveEmergency_demand (s : State) : (s.driveEmergency).demand = s.demand := rfl
@[simp] theorem State.driveEmergency_sharing (s : State) : (s.driveEmergency).sharing = s.sharing := rfl
@[simp] theorem State.driveEmergency_line (s : State) : (s.driveEmergency).line = s.line := rfl
@[simp] theorem State.driveEmergency_peers (s : State) : (s.driveEmergency).peers = s.peers := rfl
@[simp] theorem State.driveEmergency_recorder (s : State) : (s.driveEmergency).recorder = s.recorder := rfl
@[simp] theorem State.driveEmergency_store (s : State) : (s.driveEmergency).store = s.store := rfl
@[simp] theorem State.driveEmergency_service (s : State) : (s.driveEmergency).service = s.service := rfl
@[simp] theorem State.driveEmergency_counters (s : State) : (s.driveEmergency).counters = s.counters := rfl
@[simp] theorem State.driveEmergency_flash (s : State) : (s.driveEmergency).flash = s.flash := rfl
@[simp] theorem State.driveEmergency_serviceOut (s : State) : (s.driveEmergency).serviceOut = s.serviceOut := rfl
@[simp] theorem State.driveEmergency_pending (s : State) : (s.driveEmergency).pending = s.pending := rfl

/-! ### restartExit -/

@[simp] theorem State.restartExit_clock (s : State) : (s.restartExit).clock = s.clock := rfl
@[simp] theorem State.restartExit_runPhase (s : State) : (s.restartExit).runPhase = s.runPhase := rfl
@[simp] theorem State.restartExit_address (s : State) : (s.restartExit).address = s.address := rfl
@[simp] theorem State.restartExit_cfgdef (s : State) : (s.restartExit).cfgdef = s.cfgdef := rfl
@[simp] theorem State.restartExit_config (s : State) : (s.restartExit).config = s.config := rfl
@[simp] theorem State.restartExit_source (s : State) : (s.restartExit).source = s.source := rfl
@[simp] theorem State.restartExit_powerFail (s : State) : (s.restartExit).powerFail = s.powerFail := rfl
@[simp] theorem State.restartExit_handleLevel (s : State) : (s.restartExit).handleLevel = s.handleLevel := rfl
@[simp] theorem State.restartExit_acq (s : State) : (s.restartExit).acq = s.acq := rfl
@[simp] theorem State.restartExit_slide (s : State) : (s.restartExit).slide = s.slide := rfl
@[simp] theorem State.restartExit_demand (s : State) :
    (s.restartExit).demand = { s.demand with exitTimer := restartedTimer s.slide.standstill s.clock } := rfl
@[simp] theorem State.restartExit_sharing (s : State) : (s.restartExit).sharing = s.sharing := rfl
@[simp] theorem State.restartExit_outputs (s : State) : (s.restartExit).outputs = s.outputs := rfl
@[simp] theorem State.restartExit_line (s : State) : (s.restartExit).line = s.line := rfl
@[simp] theorem State.restartExit_peers (s : State) : (s.restartExit).peers = s.peers := rfl
@[simp] theorem State.restartExit_recorder (s : State) : (s.restartExit).recorder = s.recorder := rfl
@[simp] theorem State.restartExit_store (s : State) : (s.restartExit).store = s.store := rfl
@[simp] theorem State.restartExit_service (s : State) : (s.restartExit).service = s.service := rfl
@[simp] theorem State.restartExit_counters (s : State) : (s.restartExit).counters = s.counters := rfl
@[simp] theorem State.restartExit_flash (s : State) : (s.restartExit).flash = s.flash := rfl
@[simp] theorem State.restartExit_serviceOut (s : State) : (s.restartExit).serviceOut = s.serviceOut := rfl
@[simp] theorem State.restartExit_pending (s : State) : (s.restartExit).pending = s.pending := rfl

/-! ### handleEdge -/

@[simp] theorem State.handleEdge_clock (s : State) (high : Bool) : (s.handleEdge high).clock = s.clock := rfl
@[simp] theorem State.handleEdge_runPhase (s : State) (high : Bool) : (s.handleEdge high).runPhase = s.runPhase := rfl
@[simp] theorem State.handleEdge_address (s : State) (high : Bool) : (s.handleEdge high).address = s.address := rfl
@[simp] theorem State.handleEdge_cfgdef (s : State) (high : Bool) : (s.handleEdge high).cfgdef = s.cfgdef := rfl
@[simp] theorem State.handleEdge_config (s : State) (high : Bool) : (s.handleEdge high).config = s.config := rfl
@[simp] theorem State.handleEdge_source (s : State) (high : Bool) : (s.handleEdge high).source = s.source := rfl
@[simp] theorem State.handleEdge_powerFail (s : State) (high : Bool) :
    (s.handleEdge high).powerFail = s.powerFail := rfl
@[simp] theorem State.handleEdge_handleLevel (s : State) (high : Bool) : (s.handleEdge high).handleLevel = high := rfl
@[simp] theorem State.handleEdge_slide (s : State) (high : Bool) : (s.handleEdge high).slide = s.slide := rfl
@[simp] theorem State.handleEdge_demand (s : State) (high : Bool) : (s.handleEdge high).demand = s.demand := rfl
@[simp] theorem State.handleEdge_sharing (s : State) (high : Bool) : (s.handleEdge high).sharing = s.sharing := rfl
@[simp] theorem State.handleEdge_outputs (s : State) (high : Bool) : (s.handleEdge high).outputs = s.outputs := rfl
@[simp] theorem State.handleEdge_line (s : State) (high : Bool) : (s.handleEdge high).line = s.line := rfl
@[simp] theorem State.handleEdge_peers (s : State) (high : Bool) : (s.handleEdge high).peers = s.peers := rfl
@[simp] theorem State.handleEdge_recorder (s : State) (high : Bool) : (s.handleEdge high).recorder = s.recorder := rfl
@[simp] theorem State.handleEdge_store (s : State) (high : Bool) : (s.handleEdge high).store = s.store := rfl
@[simp] theorem State.handleEdge_service (s : State) (high : Bool) : (s.handleEdge high).service = s.service := rfl
@[simp] theorem State.handleEdge_counters (s : State) (high : Bool) : (s.handleEdge high).counters = s.counters := rfl
@[simp] theorem State.handleEdge_flash (s : State) (high : Bool) : (s.handleEdge high).flash = s.flash := rfl
@[simp] theorem State.handleEdge_serviceOut (s : State) (high : Bool) : (s.handleEdge high).serviceOut = s.serviceOut := rfl
@[simp] theorem State.handleEdge_pending (s : State) (high : Bool) : (s.handleEdge high).pending = s.pending := rfl

/-! ### computeDemand -/

@[simp] theorem State.computeDemand_clock (s : State) : (s.computeDemand).clock = s.clock := rfl
@[simp] theorem State.computeDemand_runPhase (s : State) : (s.computeDemand).runPhase = s.runPhase := rfl
@[simp] theorem State.computeDemand_address (s : State) : (s.computeDemand).address = s.address := rfl
@[simp] theorem State.computeDemand_cfgdef (s : State) : (s.computeDemand).cfgdef = s.cfgdef := rfl
@[simp] theorem State.computeDemand_config (s : State) : (s.computeDemand).config = s.config := rfl
@[simp] theorem State.computeDemand_source (s : State) : (s.computeDemand).source = s.source := rfl
@[simp] theorem State.computeDemand_powerFail (s : State) : (s.computeDemand).powerFail = s.powerFail := rfl
@[simp] theorem State.computeDemand_handleLevel (s : State) : (s.computeDemand).handleLevel = s.handleLevel := rfl
@[simp] theorem State.computeDemand_acq (s : State) : (s.computeDemand).acq = s.acq := rfl
@[simp] theorem State.computeDemand_slide (s : State) : (s.computeDemand).slide = s.slide := rfl
@[simp] theorem State.computeDemand_sharing (s : State) : (s.computeDemand).sharing = s.sharing := rfl
@[simp] theorem State.computeDemand_outputs (s : State) : (s.computeDemand).outputs = s.outputs := rfl
@[simp] theorem State.computeDemand_line (s : State) : (s.computeDemand).line = s.line := rfl
@[simp] theorem State.computeDemand_peers (s : State) : (s.computeDemand).peers = s.peers := rfl
@[simp] theorem State.computeDemand_recorder (s : State) : (s.computeDemand).recorder = s.recorder := rfl
@[simp] theorem State.computeDemand_store (s : State) : (s.computeDemand).store = s.store := rfl
@[simp] theorem State.computeDemand_service (s : State) : (s.computeDemand).service = s.service := rfl
@[simp] theorem State.computeDemand_counters (s : State) : (s.computeDemand).counters = s.counters := rfl
@[simp] theorem State.computeDemand_flash (s : State) : (s.computeDemand).flash = s.flash := rfl
@[simp] theorem State.computeDemand_serviceOut (s : State) : (s.computeDemand).serviceOut = s.serviceOut := rfl
@[simp] theorem State.computeDemand_pending (s : State) : (s.computeDemand).pending = s.pending := rfl

/-! ### sharingStage -/

@[simp] theorem State.sharingStage_clock (s : State) : (s.sharingStage).clock = s.clock := rfl
@[simp] theorem State.sharingStage_runPhase (s : State) : (s.sharingStage).runPhase = s.runPhase := rfl
@[simp] theorem State.sharingStage_address (s : State) : (s.sharingStage).address = s.address := rfl
@[simp] theorem State.sharingStage_cfgdef (s : State) : (s.sharingStage).cfgdef = s.cfgdef := rfl
@[simp] theorem State.sharingStage_config (s : State) : (s.sharingStage).config = s.config := rfl
@[simp] theorem State.sharingStage_source (s : State) : (s.sharingStage).source = s.source := rfl
@[simp] theorem State.sharingStage_powerFail (s : State) : (s.sharingStage).powerFail = s.powerFail := rfl
@[simp] theorem State.sharingStage_handleLevel (s : State) : (s.sharingStage).handleLevel = s.handleLevel := rfl
@[simp] theorem State.sharingStage_acq (s : State) : (s.sharingStage).acq = s.acq := rfl
@[simp] theorem State.sharingStage_slide (s : State) : (s.sharingStage).slide = s.slide := rfl
@[simp] theorem State.sharingStage_demand (s : State) : (s.sharingStage).demand = s.demand := rfl
@[simp] theorem State.sharingStage_outputs (s : State) : (s.sharingStage).outputs = s.outputs := rfl
@[simp] theorem State.sharingStage_line (s : State) : (s.sharingStage).line = s.line := rfl
@[simp] theorem State.sharingStage_peers (s : State) : (s.sharingStage).peers = s.peers := rfl
@[simp] theorem State.sharingStage_recorder (s : State) : (s.sharingStage).recorder = s.recorder := rfl
@[simp] theorem State.sharingStage_store (s : State) : (s.sharingStage).store = s.store := rfl
@[simp] theorem State.sharingStage_service (s : State) : (s.sharingStage).service = s.service := rfl
@[simp] theorem State.sharingStage_counters (s : State) : (s.sharingStage).counters = s.counters := rfl
@[simp] theorem State.sharingStage_flash (s : State) : (s.sharingStage).flash = s.flash := rfl
@[simp] theorem State.sharingStage_serviceOut (s : State) : (s.sharingStage).serviceOut = s.serviceOut := rfl
@[simp] theorem State.sharingStage_pending (s : State) : (s.sharingStage).pending = s.pending := rfl

/-! ### placeProbe -/

@[simp] theorem State.placeProbe_clock (s : State) : (s.placeProbe).clock = s.clock := rfl
@[simp] theorem State.placeProbe_runPhase (s : State) : (s.placeProbe).runPhase = s.runPhase := rfl
@[simp] theorem State.placeProbe_address (s : State) : (s.placeProbe).address = s.address := rfl
@[simp] theorem State.placeProbe_cfgdef (s : State) : (s.placeProbe).cfgdef = s.cfgdef := rfl
@[simp] theorem State.placeProbe_config (s : State) : (s.placeProbe).config = s.config := rfl
@[simp] theorem State.placeProbe_source (s : State) : (s.placeProbe).source = s.source := rfl
@[simp] theorem State.placeProbe_powerFail (s : State) : (s.placeProbe).powerFail = s.powerFail := rfl
@[simp] theorem State.placeProbe_handleLevel (s : State) : (s.placeProbe).handleLevel = s.handleLevel := rfl
@[simp] theorem State.placeProbe_acq (s : State) : (s.placeProbe).acq = s.acq := rfl
@[simp] theorem State.placeProbe_slide (s : State) : (s.placeProbe).slide = s.slide := rfl
@[simp] theorem State.placeProbe_demand (s : State) : (s.placeProbe).demand = s.demand := rfl
@[simp] theorem State.placeProbe_sharing (s : State) : (s.placeProbe).sharing = s.sharing := rfl
@[simp] theorem State.placeProbe_outputs (s : State) : (s.placeProbe).outputs = s.outputs := rfl
@[simp] theorem State.placeProbe_peers (s : State) : (s.placeProbe).peers = s.peers := rfl
@[simp] theorem State.placeProbe_recorder (s : State) : (s.placeProbe).recorder = s.recorder := rfl
@[simp] theorem State.placeProbe_store (s : State) : (s.placeProbe).store = s.store := rfl
@[simp] theorem State.placeProbe_service (s : State) : (s.placeProbe).service = s.service := rfl
@[simp] theorem State.placeProbe_counters (s : State) : (s.placeProbe).counters = s.counters := rfl
@[simp] theorem State.placeProbe_flash (s : State) : (s.placeProbe).flash = s.flash := rfl
@[simp] theorem State.placeProbe_serviceOut (s : State) : (s.placeProbe).serviceOut = s.serviceOut := rfl
@[simp] theorem State.placeProbe_pending (s : State) : (s.placeProbe).pending = s.pending := rfl

/-! ### mirror -/

@[simp] theorem State.mirror_clock (s : State) (bit : Nat) (own : Bool) (body check : List Byte) :
    (s.mirror bit own body check).clock = s.clock := by
  simp only [State.mirror]
@[simp] theorem State.mirror_runPhase (s : State) (bit : Nat) (own : Bool) (body check : List Byte) :
    (s.mirror bit own body check).runPhase = s.runPhase := by
  simp only [State.mirror]
@[simp] theorem State.mirror_address (s : State) (bit : Nat) (own : Bool) (body check : List Byte) :
    (s.mirror bit own body check).address = s.address := by
  simp only [State.mirror]
@[simp] theorem State.mirror_cfgdef (s : State) (bit : Nat) (own : Bool) (body check : List Byte) :
    (s.mirror bit own body check).cfgdef = s.cfgdef := by
  simp only [State.mirror]
@[simp] theorem State.mirror_config (s : State) (bit : Nat) (own : Bool) (body check : List Byte) :
    (s.mirror bit own body check).config = s.config := by
  simp only [State.mirror]
@[simp] theorem State.mirror_source (s : State) (bit : Nat) (own : Bool) (body check : List Byte) :
    (s.mirror bit own body check).source = s.source := by
  simp only [State.mirror]
@[simp] theorem State.mirror_powerFail (s : State) (bit : Nat) (own : Bool) (body check : List Byte) :
    (s.mirror bit own body check).powerFail = s.powerFail := by
  simp only [State.mirror]
@[simp] theorem State.mirror_handleLevel (s : State) (bit : Nat) (own : Bool) (body check : List Byte) :
    (s.mirror bit own body check).handleLevel = s.handleLevel := by
  simp only [State.mirror]
@[simp] theorem State.mirror_acq (s : State) (bit : Nat) (own : Bool) (body check : List Byte) :
    (s.mirror bit own body check).acq = s.acq := by
  simp only [State.mirror]
@[simp] theorem State.mirror_slide (s : State) (bit : Nat) (own : Bool) (body check : List Byte) :
    (s.mirror bit own body check).slide = s.slide := by
  simp only [State.mirror]
@[simp] theorem State.mirror_demand (s : State) (bit : Nat) (own : Bool) (body check : List Byte) :
    (s.mirror bit own body check).demand = s.demand := by
  simp only [State.mirror]
@[simp] theorem State.mirror_sharing (s : State) (bit : Nat) (own : Bool) (body check : List Byte) :
    (s.mirror bit own body check).sharing = s.sharing := by
  simp only [State.mirror]
@[simp] theorem State.mirror_outputs (s : State) (bit : Nat) (own : Bool) (body check : List Byte) :
    (s.mirror bit own body check).outputs = s.outputs := by
  simp only [State.mirror]
@[simp] theorem State.mirror_line (s : State) (bit : Nat) (own : Bool) (body check : List Byte) :
    (s.mirror bit own body check).line = s.line := by
  simp only [State.mirror]
@[simp] theorem State.mirror_peers (s : State) (bit : Nat) (own : Bool) (body check : List Byte) :
    (s.mirror bit own body check).peers = s.peers := by
  simp only [State.mirror]
@[simp] theorem State.mirror_store (s : State) (bit : Nat) (own : Bool) (body check : List Byte) :
    (s.mirror bit own body check).store = s.store := by
  simp only [State.mirror]
@[simp] theorem State.mirror_service (s : State) (bit : Nat) (own : Bool) (body check : List Byte) :
    (s.mirror bit own body check).service = s.service := by
  simp only [State.mirror]
@[simp] theorem State.mirror_counters (s : State) (bit : Nat) (own : Bool) (body check : List Byte) :
    (s.mirror bit own body check).counters = s.counters := by
  simp only [State.mirror]
@[simp] theorem State.mirror_flash (s : State) (bit : Nat) (own : Bool) (body check : List Byte) :
    (s.mirror bit own body check).flash = s.flash := by
  simp only [State.mirror]
@[simp] theorem State.mirror_serviceOut (s : State) (bit : Nat) (own : Bool) (body check : List Byte) :
    (s.mirror bit own body check).serviceOut = s.serviceOut := by
  simp only [State.mirror]
@[simp] theorem State.mirror_pending (s : State) (bit : Nat) (own : Bool) (body check : List Byte) :
    (s.mirror bit own body check).pending = s.pending := by
  simp only [State.mirror]

/-! ### setLine -/

@[simp] theorem State.setLine_clock (s : State) (new : LineState) (cause : EventCause) :
    (s.setLine new cause).clock = s.clock := by
  simp only [State.setLine, State.logEvent]
@[simp] theorem State.setLine_runPhase (s : State) (new : LineState) (cause : EventCause) :
    (s.setLine new cause).runPhase = s.runPhase := by
  simp only [State.setLine, State.logEvent]
@[simp] theorem State.setLine_address (s : State) (new : LineState) (cause : EventCause) :
    (s.setLine new cause).address = s.address := by
  simp only [State.setLine, State.logEvent]
@[simp] theorem State.setLine_cfgdef (s : State) (new : LineState) (cause : EventCause) :
    (s.setLine new cause).cfgdef = s.cfgdef := by
  simp only [State.setLine, State.logEvent]
@[simp] theorem State.setLine_config (s : State) (new : LineState) (cause : EventCause) :
    (s.setLine new cause).config = s.config := by
  simp only [State.setLine, State.logEvent]
@[simp] theorem State.setLine_source (s : State) (new : LineState) (cause : EventCause) :
    (s.setLine new cause).source = s.source := by
  simp only [State.setLine, State.logEvent]
@[simp] theorem State.setLine_powerFail (s : State) (new : LineState) (cause : EventCause) :
    (s.setLine new cause).powerFail = s.powerFail := by
  simp only [State.setLine, State.logEvent]
@[simp] theorem State.setLine_handleLevel (s : State) (new : LineState) (cause : EventCause) :
    (s.setLine new cause).handleLevel = s.handleLevel := by
  simp only [State.setLine, State.logEvent]
@[simp] theorem State.setLine_acq (s : State) (new : LineState) (cause : EventCause) :
    (s.setLine new cause).acq = s.acq := by
  simp only [State.setLine, State.logEvent]
@[simp] theorem State.setLine_slide (s : State) (new : LineState) (cause : EventCause) :
    (s.setLine new cause).slide = s.slide := by
  simp only [State.setLine, State.logEvent]
@[simp] theorem State.setLine_demand (s : State) (new : LineState) (cause : EventCause) :
    (s.setLine new cause).demand = s.demand := by
  simp only [State.setLine, State.logEvent]
@[simp] theorem State.setLine_sharing (s : State) (new : LineState) (cause : EventCause) :
    (s.setLine new cause).sharing = s.sharing := by
  simp only [State.setLine, State.logEvent]
@[simp] theorem State.setLine_outputs (s : State) (new : LineState) (cause : EventCause) :
    (s.setLine new cause).outputs = s.outputs := by
  simp only [State.setLine, State.logEvent]
@[simp] theorem State.setLine_line (s : State) (new : LineState) (cause : EventCause) :
    (s.setLine new cause).line = { s.line with state := new } := by
  simp only [State.setLine, State.logEvent]
@[simp] theorem State.setLine_peers (s : State) (new : LineState) (cause : EventCause) :
    (s.setLine new cause).peers = s.peers := by
  simp only [State.setLine, State.logEvent]
@[simp] theorem State.setLine_store (s : State) (new : LineState) (cause : EventCause) :
    (s.setLine new cause).store = s.store := by
  simp only [State.setLine, State.logEvent]
@[simp] theorem State.setLine_service (s : State) (new : LineState) (cause : EventCause) :
    (s.setLine new cause).service = s.service := by
  simp only [State.setLine, State.logEvent]
@[simp] theorem State.setLine_counters (s : State) (new : LineState) (cause : EventCause) :
    (s.setLine new cause).counters = s.counters := by
  simp only [State.setLine, State.logEvent]
@[simp] theorem State.setLine_flash (s : State) (new : LineState) (cause : EventCause) :
    (s.setLine new cause).flash = s.flash := by
  simp only [State.setLine, State.logEvent]
@[simp] theorem State.setLine_serviceOut (s : State) (new : LineState) (cause : EventCause) :
    (s.setLine new cause).serviceOut = s.serviceOut := by
  simp only [State.setLine, State.logEvent]
@[simp] theorem State.setLine_pending (s : State) (new : LineState) (cause : EventCause) :
    (s.setLine new cause).pending = s.pending := by
  simp only [State.setLine, State.logEvent]

/-! ### changeMode -/

@[simp] theorem State.changeMode_clock (s : State) (new : Mode) (cause : EventCause) (more : List Byte) :
    (s.changeMode new cause more).clock = s.clock := by
  simp only [State.changeMode, State.logEvent]
@[simp] theorem State.changeMode_runPhase (s : State) (new : Mode) (cause : EventCause) (more : List Byte) :
    (s.changeMode new cause more).runPhase = s.runPhase := by
  simp only [State.changeMode, State.logEvent]
@[simp] theorem State.changeMode_address (s : State) (new : Mode) (cause : EventCause) (more : List Byte) :
    (s.changeMode new cause more).address = s.address := by
  simp only [State.changeMode, State.logEvent]
@[simp] theorem State.changeMode_cfgdef (s : State) (new : Mode) (cause : EventCause) (more : List Byte) :
    (s.changeMode new cause more).cfgdef = s.cfgdef := by
  simp only [State.changeMode, State.logEvent]
@[simp] theorem State.changeMode_config (s : State) (new : Mode) (cause : EventCause) (more : List Byte) :
    (s.changeMode new cause more).config = s.config := by
  simp only [State.changeMode, State.logEvent]
@[simp] theorem State.changeMode_source (s : State) (new : Mode) (cause : EventCause) (more : List Byte) :
    (s.changeMode new cause more).source = s.source := by
  simp only [State.changeMode, State.logEvent]
@[simp] theorem State.changeMode_powerFail (s : State) (new : Mode) (cause : EventCause) (more : List Byte) :
    (s.changeMode new cause more).powerFail = s.powerFail := by
  simp only [State.changeMode, State.logEvent]
@[simp] theorem State.changeMode_handleLevel (s : State) (new : Mode) (cause : EventCause) (more : List Byte) :
    (s.changeMode new cause more).handleLevel = s.handleLevel := by
  simp only [State.changeMode, State.logEvent]
@[simp] theorem State.changeMode_acq (s : State) (new : Mode) (cause : EventCause) (more : List Byte) :
    (s.changeMode new cause more).acq = s.acq := by
  simp only [State.changeMode, State.logEvent]
@[simp] theorem State.changeMode_slide (s : State) (new : Mode) (cause : EventCause) (more : List Byte) :
    (s.changeMode new cause more).slide = s.slide := by
  simp only [State.changeMode, State.logEvent]
@[simp] theorem State.changeMode_demand (s : State) (new : Mode) (cause : EventCause) (more : List Byte) :
    (s.changeMode new cause more).demand = { s.demand with mode := new } := by
  simp only [State.changeMode, State.logEvent]
@[simp] theorem State.changeMode_sharing (s : State) (new : Mode) (cause : EventCause) (more : List Byte) :
    (s.changeMode new cause more).sharing = s.sharing := by
  simp only [State.changeMode, State.logEvent]
@[simp] theorem State.changeMode_outputs (s : State) (new : Mode) (cause : EventCause) (more : List Byte) :
    (s.changeMode new cause more).outputs = s.outputs := by
  simp only [State.changeMode, State.logEvent]
@[simp] theorem State.changeMode_line (s : State) (new : Mode) (cause : EventCause) (more : List Byte) :
    (s.changeMode new cause more).line = s.line := by
  simp only [State.changeMode, State.logEvent]
@[simp] theorem State.changeMode_peers (s : State) (new : Mode) (cause : EventCause) (more : List Byte) :
    (s.changeMode new cause more).peers = s.peers := by
  simp only [State.changeMode, State.logEvent]
@[simp] theorem State.changeMode_store (s : State) (new : Mode) (cause : EventCause) (more : List Byte) :
    (s.changeMode new cause more).store = s.store := by
  simp only [State.changeMode, State.logEvent]
@[simp] theorem State.changeMode_service (s : State) (new : Mode) (cause : EventCause) (more : List Byte) :
    (s.changeMode new cause more).service = s.service := by
  simp only [State.changeMode, State.logEvent]
@[simp] theorem State.changeMode_counters (s : State) (new : Mode) (cause : EventCause) (more : List Byte) :
    (s.changeMode new cause more).counters = s.counters := by
  simp only [State.changeMode, State.logEvent]
@[simp] theorem State.changeMode_flash (s : State) (new : Mode) (cause : EventCause) (more : List Byte) :
    (s.changeMode new cause more).flash = s.flash := by
  simp only [State.changeMode, State.logEvent]
@[simp] theorem State.changeMode_serviceOut (s : State) (new : Mode) (cause : EventCause) (more : List Byte) :
    (s.changeMode new cause more).serviceOut = s.serviceOut := by
  simp only [State.changeMode, State.logEvent]
@[simp] theorem State.changeMode_pending (s : State) (new : Mode) (cause : EventCause) (more : List Byte) :
    (s.changeMode new cause more).pending = s.pending := by
  simp only [State.changeMode, State.logEvent]

/-! ### reinit -/

@[simp] theorem State.reinit_clock (s : State) (c : Configuration) (src : ConfigSource) :
    (s.reinit c src).clock = 0 := rfl
@[simp] theorem State.reinit_runPhase (s : State) (c : Configuration) (src : ConfigSource) :
    (s.reinit c src).runPhase = .running := rfl
@[simp] theorem State.reinit_address (s : State) (c : Configuration) (src : ConfigSource) :
    (s.reinit c src).address = s.address := rfl
@[simp] theorem State.reinit_cfgdef (s : State) (c : Configuration) (src : ConfigSource) :
    (s.reinit c src).cfgdef = s.cfgdef := rfl
@[simp] theorem State.reinit_config (s : State) (c : Configuration) (src : ConfigSource) :
    (s.reinit c src).config = c := rfl
@[simp] theorem State.reinit_source (s : State) (c : Configuration) (src : ConfigSource) :
    (s.reinit c src).source = src := rfl
@[simp] theorem State.reinit_powerFail (s : State) (c : Configuration) (src : ConfigSource) :
    (s.reinit c src).powerFail = s.powerFail := rfl
@[simp] theorem State.reinit_handleLevel (s : State) (c : Configuration) (src : ConfigSource) :
    (s.reinit c src).handleLevel = s.handleLevel := rfl
@[simp] theorem State.reinit_acq (s : State) (c : Configuration) (src : ConfigSource) :
    (s.reinit c src).acq = resetAcquisition c := rfl
@[simp] theorem State.reinit_slide (s : State) (c : Configuration) (src : ConfigSource) :
    (s.reinit c src).slide = resetSlide c := rfl
@[simp] theorem State.reinit_demand (s : State) (c : Configuration) (src : ConfigSource) :
    (s.reinit c src).demand = resetDemand := rfl
@[simp] theorem State.reinit_sharing (s : State) (c : Configuration) (src : ConfigSource) :
    (s.reinit c src).sharing = resetSharing c := rfl
@[simp] theorem State.reinit_outputs (s : State) (c : Configuration) (src : ConfigSource) :
    (s.reinit c src).outputs = resetOutputs c := rfl
@[simp] theorem State.reinit_line (s : State) (c : Configuration) (src : ConfigSource) :
    (s.reinit c src).line = resetLine c s.address := rfl
@[simp] theorem State.reinit_peers (s : State) (c : Configuration) (src : ConfigSource) :
    (s.reinit c src).peers = resetPeers c s.address := rfl
@[simp] theorem State.reinit_recorder (s : State) (c : Configuration) (src : ConfigSource) :
    (s.reinit c src).recorder = resetRecorder c := rfl
@[simp] theorem State.reinit_store (s : State) (c : Configuration) (src : ConfigSource) :
    (s.reinit c src).store = resetStore := rfl
@[simp] theorem State.reinit_service (s : State) (c : Configuration) (src : ConfigSource) :
    (s.reinit c src).service = resetService := rfl
@[simp] theorem State.reinit_counters (s : State) (c : Configuration) (src : ConfigSource) :
    (s.reinit c src).counters = zeroCounters := rfl
@[simp] theorem State.reinit_flash (s : State) (c : Configuration) (src : ConfigSource) :
    (s.reinit c src).flash = s.flash := rfl
@[simp] theorem State.reinit_serviceOut (s : State) (c : Configuration) (src : ConfigSource) :
    (s.reinit c src).serviceOut = s.serviceOut := rfl
@[simp] theorem State.reinit_pending (s : State) (c : Configuration) (src : ConfigSource) :
    (s.reinit c src).pending = s.pending := rfl

/-! ### The speed of an axle with fewer than two pulses (R12, R18) -/

@[simp] theorem AxleSpeed.estimated_first (a : AxleSpeed) (pitch : Nat) (t : Stamp) :
    a.estimated pitch true t = 0 := rfl
@[simp] theorem AxleSpeed.estimated_later (a : AxleSpeed) (pitch : Nat) (t : Stamp) :
    a.estimated pitch false t = decayedSpeed pitch (a.recent.map (stampsApart t)) a.prevValid a.prevV := rfl

end Sys2Proof.Machine
end

