-- ==== Sys2Proof/Laws/Events.lean ====
section
/-! SUPPORT. What an event is when no channel of the Recorder changes its state in it: its work on the state after the
time has passed, with no channel-state record. -/

namespace Sys2Proof.Machine

/-- The channels' states, by which the channel-state records are decided (R134). -/
def Recorder.states (r : Recorder) : List (Bool × ChannelState) := r.chans.map fun ch => (ch.enable, ch.state)

theorem Channel.state_of_perm {ch ch' : Channel} (h : ch'.holding.Perm ch.holding) (he : ch'.enable = ch.enable) :
    ch'.state = ch.state := by
  have hn : ch'.holding = [] ↔ ch.holding = [] := by
    constructor <;> intro hx
    · rw [hx] at h; exact h.symm.eq_nil
    · rw [hx] at h; exact h.eq_nil
  unfold Channel.state
  rw [he]
  by_cases hx : ch.holding = []
  · simp [hx, hn.mpr hx]
  · simp [hx, mt hn.mp hx]

theorem Recorder.offer_states (r : Recorder) (c : Nat) (rec : TraceRecord) : (r.offer c rec).1.states = r.states := by
  rcases r.offer_cases c rec with he | ⟨ch, ch', m, hc, he, hp, -, hen, -, -⟩
  · rw [he]
  · rw [he]
    unfold Recorder.states
    rw [List.map_set, hen, Channel.state_of_perm hp hen]
    apply List.ext_getElem?
    intro i
    rw [List.getElem?_set]
    split
    · subst i
      rw [List.getElem?_map, hc]
      split
      · rfl
      · rename_i hl
        rw [List.length_map, not_lt] at hl
        simp [List.getElem?_eq_none hl] at hc
    · rfl

theorem Recorder.offerAll_states (sel : Channel → Bool) (rec : TraceRecord) (r : Recorder) :
    (Recorder.offerAll sel rec r).1.states = r.states := by
  unfold Recorder.offerAll
  suffices h : ∀ (cs : List Nat) (acc : Recorder × List Nat),
      (cs.foldl (fun acc c =>
        if ((acc.1.chans[c]?).map sel).getD false then
          let o := acc.1.offer c rec
          (o.1, if o.2 then acc.2 ++ [c] else acc.2)
        else acc) acc).1.states = acc.1.states from h (List.range 8) (r, [])
  intro cs
  induction cs with
  | nil => intro acc; rfl
  | cons c cs ih =>
    intro acc
    rw [List.foldl_cons, ih]
    split
    · exact Recorder.offer_states _ _ _
    · rfl

theorem Recorder.foldl_states {β : Type} (f : Recorder → β → Recorder) (h : ∀ r b, (f r b).states = r.states)
    (bs : List β) (r : Recorder) : (bs.foldl f r).states = r.states := by
  induction bs generalizing r with
  | nil => rfl
  | cons b bs ih => rw [List.foldl_cons, ih, h]

theorem Recorder.log_states (n : Nat) (t : Time) (source : Nat) (detail : List Byte) (r : Recorder) :
    (Recorder.log n t source detail r).states = r.states := by
  induction n generalizing source detail r with
  | zero => rfl
  | succ n ih =>
    simp only [Recorder.log]
    rw [Recorder.foldl_states _ (fun r _ => ih _ _ r), Recorder.offerAll_states]

/-- An event record changes no channel's state. -/
theorem Recorder.logEvent_states (r : Recorder) (t : Time) (source : EventSource) (detail : List Byte) :
    (r.logEvent t source detail).states = r.states := Recorder.log_states _ _ _ _ _

/-- A trace record changes no channel's state. -/
theorem Recorder.trace_states (r : Recorder) (sel : Channel → Bool) (rec : TraceRecord) :
    (r.trace sel rec).states = r.states := by
  unfold Recorder.trace
  exact (Recorder.foldl_states _ (fun r _ => Recorder.logEvent_states r _ _ _) _ _).trans
    (Recorder.offerAll_states _ _ _)

theorem State.logEvent_states (s : State) (source : EventSource) (detail : List Byte) :
    (s.logEvent source detail).recorder.states = s.recorder.states := by
  simp only [State.logEvent, Recorder.logEvent_states]

/-- A count changes no channel's state. -/
theorem State.bump_states (s : State) (i : CounterId) : (s.bump i).recorder.states = s.recorder.states := by
  unfold State.bump
  split
  · dsimp only
    split
    · exact State.logEvent_states _ _ _
    · rfl
  · rfl

theorem State.bumpN_states (n : Nat) (s : State) (i : CounterId) : (s.bumpN i n).recorder.states = s.recorder.states := by
  induction n generalizing s with
  | zero => rfl
  | succ n ih => rw [State.bumpN, ih, State.bump_states]

/-- An urgent entry changes no channel's state. -/
theorem State.handUrgent_states (s : State) (kind : FrameKind) (payload : List Byte) :
    (s.handUrgent kind payload).recorder.states = s.recorder.states := by
  unfold State.handUrgent
  split
  · exact State.bump_states _ _
  · split
    · rfl
    · split <;> exact State.bump_states _ _

/-- Without a change of a channel's state there is no channel-state record. -/
theorem State.recordChannels_same (before after : State) (h : after.recorder.states = before.recorder.states) :
    State.recordChannels before after = after := by
  unfold State.recordChannels
  have hz : ∀ p ∈ (before.recorder.chans.zip after.recorder.chans).zipIdx, p.1.1.state = p.1.2.state := by
    intro p hp
    obtain ⟨i, hi⟩ := List.mem_iff_getElem?.mp hp
    rw [List.getElem?_zipIdx, Option.map_eq_some_iff] at hi
    obtain ⟨q, hq, rfl⟩ := hi
    rw [List.getElem?_zip_eq_some] at hq
    have := congrArg (fun l => l[i]?) h
    simp only [Recorder.states, List.getElem?_map, hq.1, hq.2, Option.map_some, Option.some.injEq, Prod.mk.injEq] at this
    exact this.2.symm
  generalize (before.recorder.chans.zip after.recorder.chans).zipIdx = l at hz
  suffices ∀ s : State, l.foldl (fun s p =>
      if p.1.1.enable && p.1.1.state != p.1.2.state then
        s.logEvent .channel
          (be8 p.2 ++ be8 (channelStateCode p.1.1.state) ++ be8 (channelStateCode p.1.2.state) ++
            be8 (eventCauseCode (if p.1.2.state = .suspended then .freeze else .grant)))
      else s) s = s from this after
  induction l with
  | nil => intro s; rfl
  | cons p l ih =>
    intro s
    rw [List.foldl_cons, if_neg (by simp [hz p (by simp)])]
    exact ih (fun q hq => hz q (by simp [hq])) s

/-- An event of the running part in which no channel changes its state. -/
theorem State.event_same {s : State} {dt : Nat} {work : State → State} (hr : s.runPhase = .running)
    (h : (work (s.advance dt)).recorder.states = s.recorder.states) : s.event dt work = work (s.advance dt) := by
  unfold State.event
  dsimp only
  rw [if_pos (by exact hr)]
  exact State.recordChannels_same _ _ h

/-- The same under a condition that holds. -/
theorem State.eventIf_same {s : State} {dt : Nat} {cond : State → Bool} {work : State → State}
    (hr : s.runPhase = .running) (hc : cond (s.advance dt) = true)
    (h : (work (s.advance dt)).recorder.states = s.recorder.states) :
    s.eventIf dt cond work = work (s.advance dt) := by
  unfold State.eventIf
  rw [State.event_same hr] <;> simp [hc, h]

/-- Under a condition that does not hold only time passes. -/
theorem State.eventIf_not {s : State} {dt : Nat} {cond : State → Bool} {work : State → State}
    (hc : cond (s.advance dt) = false) : s.eventIf dt cond work = s.advance dt := by
  unfold State.eventIf State.event
  dsimp only
  rw [hc]
  split
  · exact State.recordChannels_same _ _ rfl
  · rfl

/-- An event of the running part, when channels may change their states: the work, then event records alone. -/
theorem State.event_running {s : State} {dt : Nat} {work : State → State} (hr : s.runPhase = .running) :
    s.event dt work = State.recordChannels (s.advance dt) (work (s.advance dt)) := by
  unfold State.event
  dsimp only
  rw [if_pos (by exact hr)]

theorem State.eventIf_running {s : State} {dt : Nat} {cond : State → Bool} {work : State → State}
    (hr : s.runPhase = .running) (hc : cond (s.advance dt) = true) :
    s.eventIf dt cond work = State.recordChannels (s.advance dt) (work (s.advance dt)) := by
  unfold State.eventIf
  rw [State.event_running hr, if_pos hc]

/-- The channel-state records change the Recorder alone. -/
theorem State.recordChannels_frame (before after : State) :
    ∃ r, State.recordChannels before after = { after with recorder := r } ∧ Recorder.OnlyChannels after.recorder r := by
  have hlog : ∀ (s : State) (d : List Byte), ∃ r, s.logEvent .channel d = { s with recorder := r } ∧
      Recorder.OnlyChannels s.recorder r := by
    intro s d
    refine ⟨s.recorder.logEvent s.now .channel d, ?_, Recorder.logEvent_onlyChannels _ _ _ _⟩
    rw [State.logEvent]
  unfold State.recordChannels
  generalize (before.recorder.chans.zip after.recorder.chans).zipIdx = l
  induction l generalizing after with
  | nil => exact ⟨after.recorder, rfl, .refl _⟩
  | cons p l ih =>
    rw [List.foldl_cons]
    split
    · obtain ⟨r₀, h₀, ho₀⟩ := hlog after
        (be8 p.2 ++ be8 (channelStateCode p.1.1.state) ++ be8 (channelStateCode p.1.2.state) ++
            be8 (eventCauseCode (if p.1.2.state = .suspended then .freeze else .grant)))
      rw [h₀]
      obtain ⟨r, hr, ho⟩ := ih { after with recorder := r₀ }
      exact ⟨r, hr, .trans ho₀ ho⟩
    · exact ih after

/-! ### Counts -/

/-- A count raises its own counter and no other one. -/
theorem State.bump_get (s : State) (i j : CounterId) :
    (s.bump i).counters.get j = if j = i then countedOnce (s.counters.get i) else s.counters.get j := by
  unfold State.bump countedOnce
  split
  · dsimp only
    have hg : (s.counters.set i (s.counters.get i + 1)).get j =
        if j = i then s.counters.get i + 1 else s.counters.get j := by
      split
      · subst j; cases i <;> rfl
      · exact Counters.get_set_other _ _ ‹_›
    split <;> exact hg
  · split
    · subst j; rfl
    · rfl

/-- A count changes the counters and the Recorder alone. -/
theorem State.bump_frame (s : State) (i : CounterId) :
    ∃ c r, s.bump i = { s with counters := c, recorder := r } ∧ Recorder.OnlyChannels s.recorder r := by
  unfold State.bump
  split
  · dsimp only
    split
    · refine ⟨s.counters.set i (s.counters.get i + 1), s.recorder.logEvent s.now .saturation (be8 (counterCode i)), ?_,
        Recorder.logEvent_onlyChannels _ _ _ _⟩
      rw [State.logEvent]
      rfl
    · exact ⟨_, s.recorder, rfl, .refl _⟩
  · exact ⟨s.counters, s.recorder, rfl, .refl _⟩

/-- A count on a state whose line has been changed. -/
theorem State.bump_withLine (s : State) (i : CounterId) (l : Line) :
    { s.bump i with line := l } = State.bump { s with line := l } i := by
  unfold State.bump
  dsimp only
  split
  · split
    · simp only [State.logEvent, State.now]
    · rfl
  · rfl

end Sys2Proof.Machine
end

