-- ==== Sys2Proof/Laws/Receiver.lean ====
section
/-! SUPPORT. What the receiver of the service link can do (R176): one lemma for each of its operations. -/

namespace Sys2Proof.Machine

/-- One byte at a hunting receiver: it begins a request or is skipped, and nothing is found. -/
theorem Receiver.take_hunting (time : Nat) (b : LinkByte) :
    Receiver.hunting.take time b =
      (if b.framing = false ∧ b.value = startByte then .assembling [] time else .hunting, .nothing) := rfl

/-- One byte at an assembling receiver: a framing error discards the request; otherwise the byte joins it, and a request
that is whole leaves the receiver hunting and is checked. -/
theorem Receiver.take_assembling (got : List Byte) (start time : Nat) (b : LinkByte) :
    b.framing = true ∧ (Receiver.assembling got start).take time b = (.hunting, .discard) ∨
    b.framing = false ∧ requestWhole (got ++ [b.value]) = true ∧
      (Receiver.assembling got start).take time b = (.hunting, checkRequest (got ++ [b.value])) ∨
    b.framing = false ∧ requestWhole (got ++ [b.value]) = false ∧
      (Receiver.assembling got start).take time b = (.assembling (got ++ [b.value]) start, .nothing) := by
  cases hf : b.framing <;> cases hw : requestWhole (got ++ [b.value]) <;> simp [Receiver.take, hf, hw]

/-- A whole request arrives with its command code and payload when its CRC is good, and is discarded otherwise. -/
theorem checkRequest_cases (bs : List Byte) :
    crcGood bs = true ∧ checkRequest bs = .request (bs.getD 0 0) ((bs.drop 2).take (byteAt bs 1)) ∨
    crcGood bs = false ∧ checkRequest bs = .discard := by
  cases h : crcGood bs <;> simp [checkRequest, h]

@[simp] theorem Receiver.expire_hunting (ended : Nat → Bool) :
    Receiver.hunting.expire ended = (.hunting, .nothing) := rfl

/-- A request expires when its 50 ms have ended, and stands otherwise. -/
theorem Receiver.expire_assembling (got : List Byte) (start : Nat) (ended : Nat → Bool) :
    (Receiver.assembling got start).expire ended =
      if ended (start + requestTime) then (.hunting, .discard) else (.assembling got start, .nothing) := rfl

@[simp] theorem State.setReceiver_nothing (s : State) (r : Receiver) :
    s.setReceiver (r, .nothing) = { s with service := { s.service with receiver := r } } := rfl
@[simp] theorem State.setReceiver_discard (s : State) (r : Receiver) :
    s.setReceiver (r, .discard) = State.bump { s with service := { s.service with receiver := r } } .serviceErrors := rfl
@[simp] theorem State.setReceiver_request (s : State) (r : Receiver) (code : Byte) (payload : List Byte) :
    s.setReceiver (r, .request code payload) =
      State.takeRequest { s with service := { s.service with receiver := r } } code payload := rfl
@[simp] theorem State.hearBytes_nil (s : State) : s.hearBytes [] = s := rfl
@[simp] theorem State.hearBytes_cons (s : State) (b : LinkByte) (bs : List LinkByte) :
    s.hearBytes (b :: bs) = (s.event b.wait fun s => s.hearByte b).hearBytes bs := rfl
@[simp] theorem heardTime_nil : heardTime [] = 0 := rfl
@[simp] theorem heardTime_cons (b : LinkByte) (bs : List LinkByte) :
    heardTime (b :: bs) = b.wait + heardTime bs := rfl

/-- Bytes heard in two stretches. -/
theorem State.hearBytes_append (s : State) (as bs : List LinkByte) :
    s.hearBytes (as ++ bs) = (s.hearBytes as).hearBytes bs := by
  induction as generalizing s with
  | nil => rfl
  | cons a as ih => exact ih _

/-- A byte at a hunting receiver changes the receiver alone. -/
theorem State.hearByte_hunting (s : State) (b : LinkByte) (h : s.service.receiver = .hunting) :
    s.hearByte b = { s with service := { s.service with
      receiver := if b.framing = false ∧ b.value = startByte then .assembling [] s.clock else .hunting } } := by
  unfold State.hearByte
  rw [h, Receiver.expire_hunting, State.setReceiver_nothing]
  rfl

/-- Where no request is being assembled, the end of 50 ms changes nothing. -/
theorem State.timeOut_hunting (s : State) (h : s.service.receiver = .hunting) : s.timeOut = s := by
  unfold State.timeOut
  rw [h, Receiver.expire_hunting, State.setReceiver_nothing]
  rw [← h]

/-- What an unknown code asks for. -/
theorem State.takeRequest_unknown (s : State) (code : Byte) (p : List Byte) (h : unknownCode code = true) :
    s.takeRequest code p = s.takeUnknown code := by
  unfold State.takeRequest
  split <;> simp_all [unknownCode]

/-- An arriving request does at its arrival what the row of its command does (R177). -/
theorem exec_request (c : Instr) (dt : Nat) (code : Byte) (p : List Byte) (s : State)
    (h : requestOf c = some (dt, code, p)) : exec c s = .next (s.event dt fun s => s.takeRequest code p) := by
  cases c
  case unknownCommand =>
    simp only [requestOf, Option.ite_none_right_eq_some, Option.some.injEq, Prod.mk.injEq] at h
    obtain ⟨hc, rfl, rfl, rfl⟩ := h
    simp only [exec, execUnknownCommand, State.eventIf, hc, if_true, State.takeRequest_unknown]
  all_goals first
    | (simp [requestOf] at h; done)
    | (simp only [requestOf, Option.some.injEq, Prod.mk.injEq] at h; obtain ⟨rfl, rfl, rfl⟩ := h; rfl)

end Sys2Proof.Machine
end

