-- ==== Sys2Proof/Laws/Reset.lean ====
section
/-! SUPPORT. The reset state of the units under a configuration: it meets the laws of the manual. -/

namespace Sys2Proof.Machine

/-! ### The recorder's blocks -/

theorem resetChannel_holding (c : ChannelCfg) (bs : List Nat) : (resetChannel c bs).holding = bs := rfl

/-- The channels' holdings at reset are the blocks from `next` on, in order. -/
theorem allotChannels_holdings (next : Nat) (cs : List ChannelCfg) :
    (allotChannels next cs).flatMap Channel.holding = List.range' next (enabledSum cs) := by
  induction cs generalizing next with
  | nil => rfl
  | cons c cs ih =>
    have he : enabledSum (c :: cs) = (if c.enable then c.alloc else 0) + enabledSum cs := rfl
    simp only [allotChannels, List.flatMap_cons, resetChannel_holding, ih, he]
    exact List.range'_append_1

theorem allotChannels_bounds (next : Nat) (cs : List ChannelCfg) :
    ∀ ch ∈ allotChannels next cs,
      (ch.holding.length ≤ ch.alloc ∧ (ch.enable = false → ch.holding = [])) ∧ ch.lost = 0 := by
  induction cs generalizing next with
  | nil => simp [allotChannels]
  | cons c cs ih =>
    intro ch hch
    simp only [allotChannels, List.mem_cons] at hch
    rcases hch with rfl | hch
    · refine ⟨⟨?_, ?_⟩, rfl⟩
      · rw [resetChannel_holding, List.length_range']
        show (if c.enable = true then c.alloc else 0) ≤ c.alloc
        split <;> omega
      · intro hf
        have hf : c.enable = false := hf
        rw [resetChannel_holding, hf]; rfl
    · exact ih _ ch hch

/-- The table in force never takes more than 88 blocks (R131). -/
theorem tableInForce_le (c : Configuration) : enabledSum (tableInForce c) ≤ 88 := by
  unfold tableInForce
  split
  · assumption
  · decide

/-- Law 1 at reset. -/
theorem resetRecorder_partition (c : Configuration) : (resetRecorder c).Partition := by
  have hle := tableInForce_le c
  unfold Recorder.Partition Recorder.blockList resetRecorder
  simp only [allotChannels_holdings, List.flatMap_nil, List.append_nil]
  refine List.perm_append_comm.trans ?_
  have h : List.range' 0 (enabledSum (tableInForce c)) ++
      List.range' (enabledSum (tableInForce c)) (96 - enabledSum (tableInForce c)) = List.range' 0 96 := by
    have h := List.range'_append_1 (s := 0) (m := enabledSum (tableInForce c))
      (n := 96 - enabledSum (tableInForce c))
    rw [Nat.zero_add] at h
    rw [h]
    congr 1
    omega
  rw [h, List.range_eq_range']

/-- Law 2 at reset. -/
theorem resetRecorder_holdings (c : Configuration) : (resetRecorder c).HoldingsBounded :=
  fun ch hch => (allotChannels_bounds 0 _ ch hch).1

theorem resetRecorder_lost (c : Configuration) : ∀ ch ∈ (resetRecorder c).chans, ch.lost ≤ 65535 :=
  fun ch hch => by rw [(allotChannels_bounds 0 _ ch hch).2]; omega

/-! ### The peer table -/

theorem sortAsc_perm (l : List Nat) : (sortAsc l).Perm l := by
  induction l with
  | nil => exact List.Perm.refl _
  | cons x xs ih => exact (insertAsc_perm x _).trans (ih.cons x)

/-- A sorted list is ascending. -/
theorem sortAsc_pairwise (l : List Nat) : (sortAsc l).Pairwise (· ≤ ·) := by
  induction l with
  | nil => exact List.Pairwise.nil
  | cons x xs ih => exact insertAsc_pairwise x _ ih

theorem distinct_nodup {l : List Nat} (h : distinct l = true) : l.Nodup := by
  induction l with
  | nil => exact List.nodup_nil
  | cons x xs ih =>
    simp only [distinct, Bool.and_eq_true, Bool.not_eq_true', List.contains_eq_mem, decide_eq_false_iff_not] at h
    exact List.nodup_cons.mpr ⟨h.1, ih h.2⟩

/-- Law 6 at reset, for a roster of at most 15 addresses without repeats. -/
theorem resetPeers_sound (c : Configuration) (own : Nat) (hl : c.roster.length ≤ 15) (hd : distinct c.roster = true) :
    EntriesSound own (resetPeers c own).entries := by
  have hp := sortAsc_perm (c.roster.filter (· != own))
  have hn : (sortAsc (c.roster.filter (· != own))).Nodup := hp.nodup_iff.mpr ((distinct_nodup hd).filter _)
  have hs := sortAsc_pairwise (c.roster.filter (· != own))
  unfold resetPeers
  refine ⟨?_, ?_, ?_⟩
  · rw [List.length_map, hp.length_eq]
    exact (List.length_filter_le _ _).trans hl
  · rw [List.pairwise_map]
    exact (List.Pairwise.and hs hn).imp fun {a b} h => lt_of_le_of_ne h.1 h.2
  · intro e he
    obtain ⟨a, ha, rfl⟩ := List.mem_map.mp he
    have := (List.mem_filter.mp (hp.mem_iff.mp ha)).2
    simpa [staticEntry] using this

/-! ### The configuration put in force -/

theorem defaultConfig_inRange : configInRange defaultConfig = true := by decide +kernel

/-- An image that passes every check of R175 carries parameters in their ranges. -/
theorem checkImage_loaded {bs : List Byte} (h : checkImage bs = .loaded) : configInRange (configOf bs) = true := by
  unfold checkImage at h
  split at h
  · cases h
  · split at h
    · cases h
    · split at h
      · cases h
      · split at h
        · cases h
        · rename_i hn
          simp only [not_or, Bool.not_eq_false] at hn
          exact hn.2

/-- The configuration that the end of the read puts in force is in range. -/
theorem configFrom_inRange (ok : Bool) (bs : List Byte) :
    configInRange (configFrom (if ok then checkImage bs else .readFailed) bs) = true := by
  unfold configFrom
  cases ok with
  | false => exact defaultConfig_inRange
  | true =>
    simp only [if_true]
    split
    · rename_i h; exact checkImage_loaded h
    · exact defaultConfig_inRange

end Sys2Proof.Machine
end

