-- ==== Sys2Proof/WellFormed.lean ====
section
/-! DEFINITION. Which commands can arise: the ranges of the data that a command carries (section 12.4 and R59, R61,
R176). -/

namespace Sys2Proof

/-- The service request payloads fit their length byte (R176). -/
def payloadFits (p : List Byte) : Bool := decide (p.length ≤ 255)

/-- What a failed or cut-off flash operation leaves fits one slot (R162). -/
def fitsSlot (bs : List Byte) : Bool := decide (bs.length ≤ 65536)

/-- What a flash operation's end leaves fits one slot. -/
def FlashResult.fits : FlashResult → Bool
  | .ok => true
  | .failed left => fitsSlot left

/-- Bytes of the service link end within the time since the command before, and a byte of ten bits at 115,200 bit/s
takes at least 86 µs after the byte before it (R176, section 11.3). -/
def linkBytesFit (dt : Nat) (bs : List LinkByte) : Bool :=
  bs.tail.all (fun b => decide (86 ≤ b.wait)) && decide ((bs.map LinkByte.wait).foldl (· + ·) 0 ≤ dt)

/-- The well-formed commands. -/
def Instr.wf : Instr → Bool
  | .reset _ _ left => fitsSlot left
  | .restartResponseSent _ _ left => fitsSlot left
  | .receiveCompletion _ _ extra => decide (extra < 8)
  | .slotEraseCompletion _ r => FlashResult.fits r
  | .bodyProgramCompletion _ r => FlashResult.fits r
  | .headerProgramCompletion _ r => FlashResult.fits r
  | .eraseAllCompletion _ r => FlashResult.fits r
  | .configEraseCompletion _ r => FlashResult.fits r
  | .configProgramCompletion _ r => FlashResult.fits r
  | .serviceFrameError dt bs => linkBytesFit dt bs && !bs.isEmpty
  | .requestTimeout p => linkBytesFit p.dt p.bytes
  | .unknownCommand _ code p => (decide (code.toNat = 0) || decide (12 < code.toNat)) && payloadFits p
  | .readStatus _ p => payloadFits p
  | .readPeers _ p => payloadFits p
  | .readPeer _ p => payloadFits p
  | .listIncidents _ p => payloadFits p
  | .readIncident _ p => payloadFits p
  | .readCounters _ p => payloadFits p
  | .clearCounters _ p => payloadFits p
  | .trigger _ p => payloadFits p
  | .clearChannel _ p => payloadFits p
  | .eraseIncidents _ p => payloadFits p
  | .writeConfig _ p => payloadFits p
  | .restart _ p => payloadFits p
  | .configImageReadCompletion _ _ => true
  | .scanCompletion _ => true
  | .toothPulse _ _ => true
  | .speedWindowExpiry _ _ _ _ => true
  | .controlCycle _ => true
  | .noticeRepeatExpiry _ => true
  | .exitTimerExpiry _ => true
  | .statusReplyArrival _ _ => true
  | .listenTimerExpiry _ => true
  | .statementTimerExpiry _ => true
  | .dueStatementQueued _ => true
  | .holdTimerExpiry _ => true
  | .attemptStart _ => true
  | .collision _ => true
  | .jamEnd _ => true
  | .backoffWaitEnd _ _ => true
  | .lateCollision _ => true
  | .frameSent _ => true
  | .ageingTimerExpiry _ => true
  | .windowTimerExpiry _ => true
  | .powerFailWarningStanding _ => true
  | .powerFailWarningCeases _ => true
  | .scanReadCompletion _ _ => true
  | .flashInterfaceGrant _ => true
  | .incidentReadCompletion _ _ => true
  | .pressureConversionCompletion _ _ _ => true
  | .handleInputEdge _ _ => true
  | .serviceResponseSent _ => true

end Sys2Proof
end

