-- ==== Sys2Proof/Tests/Slice0.lean ====
section
/-! SUPPORT. Tests on fixed values, each with its source in the manual, and for each statement of the certificate that has
hypotheses a theorem that shows values which meet them. -/

namespace Sys2Proof.Tests

open Sys2Proof Sys2Proof.Machine

/-! One theorem at a time: each one's check in a thread of its own would ask for more memory than the check has. -/
set_option Elab.async false

/-- The state that a command answers. -/
def run (c : Instr) (s : State) : State :=
  match exec c s with
  | .next t => t
  | .fault _ => s
  | .refused _ => s

/-- The state after reset, 100 ms on. -/
def later : State := { State.reset with clock := 100000 }

/-! ### Well-formedness: an ill-formed command for each check -/

/-- One byte more than a slot holds. -/
def tooLong : List Byte := List.replicate 65537 0
theorem tooLong_length : tooLong.length = 65537 := List.length_replicate

theorem test_wf_reset_left : Instr.wf (.reset 0 ⟨1, true⟩ tooLong) = false ∧
    Instr.wf (.restartResponseSent 0 ⟨1, true⟩ tooLong) = false := by
  simp only [Instr.wf, fitsSlot, tooLong_length]
  decide
theorem test_wf_extra_bits : Instr.wf (.receiveCompletion 0 [] 8) = false := by decide
theorem test_wf_flash_results :
    Instr.wf (.slotEraseCompletion 0 (.failed tooLong)) = false ∧
    Instr.wf (.bodyProgramCompletion 0 (.failed tooLong)) = false ∧
    Instr.wf (.headerProgramCompletion 0 (.failed tooLong)) = false ∧
    Instr.wf (.eraseAllCompletion 0 (.failed tooLong)) = false ∧
    Instr.wf (.configEraseCompletion 0 (.failed tooLong)) = false ∧
    Instr.wf (.configProgramCompletion 0 (.failed tooLong)) = false := by
  simp only [Instr.wf, FlashResult.fits, fitsSlot, tooLong_length]
  decide
/-- A byte of the service link with good framing. -/
def byteOf (wait : Nat) (v : Byte) : LinkByte := { wait := wait, value := v, framing := false }
theorem test_wf_link_bytes :
    Instr.wf (.serviceFrameError 9 []) = false ∧ Instr.wf (.serviceFrameError 9 [byteOf 10 1]) = false ∧
    Instr.wf (.serviceFrameError 900 [byteOf 0 1, byteOf 85 1]) = false ∧
    Instr.wf (.serviceFrameError 86 [byteOf 0 1, byteOf 86 1]) = true ∧
    Instr.wf (.requestTimeout ⟨9, [byteOf 10 1]⟩) = false := by decide
theorem test_wf_known_code : Instr.wf (.unknownCommand 0 12 []) = false ∧ Instr.wf (.unknownCommand 0 1 []) = false ∧
    Instr.wf (.unknownCommand 0 13 []) = true ∧ Instr.wf (.unknownCommand 0 0 []) = true := by decide
theorem test_wf_payload : (([.unknownCommand 0 13, .readStatus 0, .readPeers 0, .readPeer 0, .listIncidents 0,
    .readIncident 0, .readCounters 0, .clearCounters 0, .trigger 0, .clearChannel 0, .eraseIncidents 0, .writeConfig 0,
    .restart 0] : List (List Byte → Instr)).all fun c => !Instr.wf (c (List.replicate 256 0))) = true := by
  decide +kernel

/-- The table gives no row a bit (log entry 5). -/
theorem test_no_word_decodes : decodeTableWord 8 0x7E = none := by decide

/-! ### Check words, adhesion, divisions: R188 and section 0.5.2 -/

/-- The published check values of the two polynomials for the ASCII digits 1 to 9 (CRC-16/CMS, CRC-32/BZIP2). -/
theorem test_check_words :
    crc16 [0x31, 0x32, 0x33, 0x34, 0x35, 0x36, 0x37, 0x38, 0x39] = 0xAEE7#16 ∧
    crc32 [0x31, 0x32, 0x33, 0x34, 0x35, 0x36, 0x37, 0x38, 0x39] = 0xFC891918#32 := by decide +kernel

/-- Section 1.2.1: Dw 1016 mm and Z 100 give 31,919 µm. -/
theorem test_tooth_pitch : toothPitch 1016 100 = 31919 := by decide

/-- Section 4.4.1: station 5's seed is 3589 hexadecimal. R174: RESET samples the straps. -/
theorem test_reset : (run (.reset 0 ⟨5, true⟩ []) later).line.backoff = 0x3589#16 ∧
    (run (.reset 0 ⟨5, true⟩ []) later).line.state = .listening ∧
    (run (.reset 0 ⟨5, false⟩ []) later).runPhase = .loading ∧
    (run (.reset 0 ⟨0, true⟩ []) later).line.state = .off := by decide +kernel

/-! ### A configuration image after section 12.5: the defaults, but an effective converter and a roster of 3 and 9 -/

def imageFields : List Byte :=
  be8 1 ++ be8 0xF0 ++ be8 10 ++ be8 1 ++ be8 3 ++ be8 100 ++
  [1016, 620, 40, 170, 2000, 280, 50, 1500, 500, 30, 80, 60, 200, 3000, 300, 2400].flatMap be16 ++ be8 2 ++ be8 0 ++
  [1500, 100, 20, 40, 15, 30, 60, 30, 400, 450, 480, 200].flatMap be16 ++
  be8 2 ++ be8 9 ++ be8 3 ++ List.replicate 13 0 ++
  be8 0x81 ++ be8 16 ++ be32 0 ++ be8 0x82 ++ be8 16 ++ be32 0 ++ be8 0x83 ++ be8 24 ++ be32 0 ++
  be8 0x84 ++ be8 8 ++ be32 0 ++ be8 0x85 ++ be8 16 ++ be32 0x7FFFFFFE ++
  (List.replicate 3 (be8 1 ++ be8 2 ++ be32 0)).flatten ++
  (List.replicate 4 (be8 0xC0 ++ be16 5000)).flatten ++ (List.replicate 9 (be8 0x80 ++ be16 3000)).flatten ++
  List.replicate 87 0

def image : List Byte := withCrc16 imageFields

theorem test_image_length : image.length = 256 := by decide +kernel

/-- Steps 1 to 3 of R174 with slot 0 being read and holding these bytes. -/
def loading (bytes : List Byte) : State :=
  { State.reset with
    runPhase := .loading, cfgdef := false, flash := Memory.writeBytes 0xFF [] 0 bytes
    store := { resetStore with inFlight := some .readImage, requests := [] } }

/-- R175: the checks after the check word pass, and the layout of section 12.5 gives back the fields. -/
theorem test_image_fields :
    byteAt image 0 = 1 ∧ reservedZero image = true ∧ kindsKnown image = true ∧ configInRange (configOf image) = true ∧
    configOf image = { defaultConfig with group := 1, emax := 1500, roster := [9, 3] } := by decide +kernel

/-- R96: the roster's static entries stand in ascending order. -/
theorem test_roster_entries : (resetPeers (configOf image) 5).entries = [staticEntry 3, staticEntry 9] := by
  decide +kernel

/-- R175: a read that fails puts the whole default in force. -/
theorem test_image_read_failed :
    (run (.configImageReadCompletion 0 false) (loading image)).source = .readFailed ∧
    (run (.configImageReadCompletion 0 false) (loading image)).config = defaultConfig ∧
    (run (.configImageReadCompletion 0 false) (loading image)).runPhase = .running := by decide +kernel

/-! ### Acquisition Unit -/

/-- `later` with the BC channel in a state of section 1.1.1 and a code delivered for it. -/
def bcAt (state : PressState) (last : Option Nat) (invalid valid : Nat) (code : BitVec 12) : State :=
  { later with acq := { later.acq with chans := { later.acq.chans with
      bc := { state := state, last := last, invalidRun := invalid, validRun := valid, sample := .code code } } } }

/-- Section 1.1.1, scans 1 and 2. -/
theorem test_conversion :
    (run (.pressureConversionCompletion 5 .bc (.code 1008)) later).acq.chans.bc.sample.value = some 190 ∧
    (run (.pressureConversionCompletion 5 .bc .error) later).acq.chans.bc.sample.value = none := by decide +kernel

/-- Section 1.1.1, scan 8: the fourth invalid sample fails the channel. -/
theorem test_scan_fails :
    (run (.scanCompletion 0) (bcAt .held (some 195) 3 0 150)).acq.chans.bc =
      { state := .failed, last := some 195, invalidRun := 0, validRun := 0, sample := .none } := by decide +kernel

/-- Section 1.1.1, scan 16: the fifth valid sample brings it back. -/
theorem test_scan_returns :
    (run (.scanCompletion 0) (bcAt .failed (some 195) 0 4 1040)).acq.chans.bc =
      { state := .valid, last := some 200, invalidRun := 0, validRun := 0, sample := .none } := by decide +kernel

/-- R9: a first pulse. -/
theorem test_tooth : (run (.toothPulse 7 .two) later).acq.axles.two.n = 1 ∧
    (run (.toothPulse 7 .two) later).acq.axles.two.first = some 100007 := by decide +kernel

/-- Section 1.2.1. -/
def measured : State :=
  { later with acq := { later.acq with axles := { later.acq.axles with two := { later.acq.axles.two with
      n := 13, first := some 1240, last := some 19850, recent := some 19850, prevV := 20640, prevValid := true } } } }

theorem test_window_measures : (run (.speedWindowExpiry 0 false false false) measured).acq.axles.two.v = 20581 ∧
    (run (.speedWindowExpiry 0 false false false) measured).acq.axles.two.dv = 59 := by decide +kernel

/-- Section 1.2.2, expiry k: no pulse for 45,000 µs after 900 mm/s. -/
def decaying : State :=
  { later with acq := { later.acq with speedTime := some 80, axles := { later.acq.axles with one := {
      later.acq.axles.one with recent := some 55000, prevV := 900, prevValid := true } } } }

theorem test_window_decays : (run (.speedWindowExpiry 0 false false false) decaying).acq.axles.one.v = 709 ∧
    (run (.speedWindowExpiry 0 false false false) decaying).acq.axles.one.dv = 191 := by decide +kernel

/-- One pulse 20,000 µs ago in the window and no previous speed, the speed set being the first one or not. -/
def singlePulse (latest : Option Time) : State :=
  { later with acq := { later.acq with speedTime := latest, axles := { later.acq.axles with one := {
      later.acq.axles.one with n := 1, first := some 80000, last := some 80000, recent := some 80000 } } } }

/-- Axle 1 after the speed window's expiry. -/
def arrivedOne (latest : Option Time) : AxleSpeed :=
  (run (.speedWindowExpiry 0 false false false) (singlePulse latest)).acq.axles.one

/-- R18: 0 mm/s and valid in the first speed set; R12's last row after it, floor(31,919,000 / 20,000). -/
theorem test_single_pulse : (arrivedOne none).v = 0 ∧ (arrivedOne none).valid = true ∧ (arrivedOne (some 80)).v = 1595 := by
  decide +kernel

/-- R16, R17: 10 ms high of 20 ms is a duty of 500‰, which gives h = 500‰. -/
theorem test_handle_edge :
    (run (.handleInputEdge 10000 false) { later with handleLevel := true, acq := { later.acq with
      handle := { later.acq.handle with highSince := 100000 } } }).acq.handle.highTime = 10000 := by decide +kernel
theorem test_handle_duty :
    (run (.speedWindowExpiry 0 false false false) { later with acq := { later.acq with
      handle := { later.acq.handle with highTime := 10000 } } }).acq.handle.h = 500 := by decide +kernel

/-! ### Slide protection: section 3.8 -/

/-- A speed line that measures `v` mm/s in the window: a tooth pitch of 10 µm and a pulse for each mm/s more. -/
def rolling (v prev : Nat) : AxleSpeed :=
  { n := v + 1, first := some 0, last := some 10000, recent := some 10000, prevV := prev, prevValid := true,
    v := prev, valid := true, faulted := false, dv := 0 }

/-- Arrival 4 of section 3.8, before it: axle 2 in SUSPECT with one high count. -/
def slipping : State :=
  { later with
    demand := { later.demand with mode := .service }
    acq := { later.acq with pitch := 10, axles := ⟨rolling 14960 14970, rolling 13700 14400, rolling 14960 14970⟩ }
    slide := { later.slide with
      vref := 14970, firstPending := false
      machines := { later.slide.machines with two := { resetMachine with
        state := .suspect, high := 1, holdValve := true, untrusted := some 40 } } } }

theorem test_slide_entry :
    let t := run (.speedWindowExpiry 0 false false false) slipping
    t.slide.vref = 14960 ∧ t.slide.machines.two.state = .slide ∧ t.slide.machines.two.lastQ = 84 ∧ t.slide.a = 875 ∧
      t.slide.al = 2100 ∧ t.slide.slideCut = true ∧ t.slide.machines.two.ventValve = true := by decide +kernel

/-! ### Demand: sections 2.1.1 and 2.5 -/

/-- A pressure set in which BP, IND and MR carry values. -/
def setOf (bp ind mr : Nat) : PressureSet :=
  { chans := ⟨⟨.valid, some bp⟩, ⟨.valid, some 0⟩, ⟨.valid, some ind⟩, ⟨.valid, some mr⟩⟩, fall := 0, time := 0 }

/-- A station in a mode whose latest set carries BP, IND and MR, and whose handle stands at h. -/
def braking (mode : Mode) (bp ind h : Nat) : State :=
  { later with
    demand := { later.demand with mode := mode }
    acq := { later.acq with latest := some (setOf bp ind 850), handle := { later.acq.handle with h := h } } }

/-- Section 2.1.1, the row of 540 kPa, and the row of 450 kPa. -/
theorem test_cycle_demand : (run (.controlCycle 0) (braking .service 540 0 250)).demand.d = 615 ∧
    (run (.controlCycle 0) (braking .service 450 0 250)).demand.d = 2000 ∧
    (run (.controlCycle 0) (braking .service 650 0 250)).demand.d = 500 := by decide +kernel

/-- Section 7.9, cycle 3: the converter is lost, electric effort ramps out and friction fills. -/
def losing : State :=
  let s := braking .service 620 0 0
  { s with
    config := { s.config with emax := 1500 }
    acq := { s.acq with handle := { s.acq.handle with h := 600 } }
    outputs := { s.outputs with
      ecmd := 1199, linkUp := true, missRun := 2, latest := some { seq := 8, ecmd := 1199, slideCut := false },
      status := { eav := 1500, eact := 1199, ready := true, fault := false, asked := 1199 } } }

theorem test_cycle_converter_lost :
    let t := run (.controlCycle 0) losing
    t.outputs.linkUp = false ∧ t.sharing.ft = 1201 ∧ t.outputs.ecmd = 1159 ∧ t.outputs.fcmd = 60 ∧
      t.outputs.bcOut = 45 := by decide +kernel

/-- Section 2.5, 10,020 ms: the second copy of the notice, cause RATE and BP 541 kPa (section 12.2). -/
def repeating : State :=
  { later with
    line := { later.line with state := .active }
    demand := { later.demand with
      notice := some { cause := .rate, bp := 541 }, noticeLeft := 2, repeatDue := some 100000 } }

theorem test_notice_repeat :
    (run (.noticeRepeatExpiry 0) repeating).line.queue.map TxFrame.payload = [[0x22, 0x02, 0x1D]] ∧
    (run (.noticeRepeatExpiry 0) repeating).demand.repeatDue = some 120000 := by decide +kernel

/-- Section 2.5, 118,000 ms and 122,000 ms: the exit check at 590 and at 600 kPa. -/
def exiting (bp : Nat) : State :=
  let s := braking .emergency bp 0 0
  { s with
    slide := { s.slide with standstill := true }
    demand := { s.demand with exitTimer := .running 100000 }, sharing := { s.sharing with fx := 1680 } }

theorem test_exit_pending : (run (.exitTimerExpiry 0) (exiting 590)).demand.exitTimer = .expired ∧
    (run (.exitTimerExpiry 0) (exiting 590)).demand.mode = .emergency := by decide +kernel
theorem test_exit_leaves : (run (.exitTimerExpiry 0) (exiting 600)).demand.mode = .released ∧
    (run (.exitTimerExpiry 0) (exiting 600)).outputs.fcmd = 1680 := by decide +kernel

/-- R113: Eact is clamped to the request plus Etol, 1199 + 100 EU, and the overshoot counts. -/
theorem test_status_reply :
    let t := run (.statusReplyArrival 0 (withCrc16 [2, 8, 0x05, 0xDC, 0x05, 0xDC, 1])) losing
    t.outputs.status.eact = 1299 ∧ t.outputs.status.ready = true ∧ t.counters.overshoots = 1 := by decide +kernel

/-- Section 6.7: the friction target of stations A and C, and U with the drawn-down reservoirs. -/
def member (ce fx al : Nat) : Member := { d := 1500, ce := ce, fx := fx, al := al }
def sharesOf (own : Member) (peers : List Member) : Sharing :=
  Sharing.compute { later.sharing with ce := own.ce, fx := own.fx, al := own.al } own peers

theorem test_shares :
    (sharesOf (member 1800 1600 2400) [member 1800 1600 2400, member 700 1600 700]).ft = 101 ∧
    (sharesOf (member 700 1600 700) [member 1800 1600 2400, member 1800 1600 2400]).ft = 0 ∧
    (sharesOf (member 1800 80 2400) [member 1800 80 2400, member 700 1600 700]).u = 40 ∧
    (sharesOf (member 1800 1600 2400) [member 1800 1600 2400, member 1800 1600 2400]).et = 1499 := by decide +kernel

/-! ### The consist brake line: sections 4.4.1 and 4.5.1 -/

/-- A station on the line in a state, at a time in ms. -/
def onLine (state : LineState) (ms : Nat) : State :=
  { State.reset with clock := ms * 1000, line := { State.reset.line with state := state, activeSince := some 5000 } }

def statementFrame : TxFrame := { kind := .statement, payload := List.replicate 18 0, seq := none, k := 0, wait := none }
def slideFrame : TxFrame := { kind := .slideNotice, payload := List.replicate 7 0, seq := some 42, k := 1, wait := none }

/-- Section 4.5.1 at 5200 ms, and at 5221 ms after a statement queued at 5200 ms whose sending ended at 5201 ms. -/
def stating (ms queuedMs : Nat) : State :=
  let s := onLine .active ms
  { s with line := { s.line with
      statementDue := some (ms * 1000), lastQueuedAt := some (queuedMs * 1000), lastSentEnd := some 5201 } }

theorem test_statement_timer : (run (.statementTimerExpiry 0) (stating 5300 5200)).line.statementDue = some 5400000 ∧
    (run (.statementTimerExpiry 0) (stating 5300 5200)).line.slot.isSome = true := by decide +kernel
theorem test_statement_held : (run (.statementTimerExpiry 0) (stating 5210 5200)).line.due = true ∧
    (run (.statementTimerExpiry 0) (stating 5210 5200)).line.slot = none := by decide +kernel

def held (ms : Nat) : State :=
  let s := stating ms 5200
  { s with line := { s.line with due := true, statementDue := some 5300000 } }

theorem test_due_statement : (run (.dueStatementQueued 0) (held 5221)).line.statementDue = some 5321000 ∧
    (run (.dueStatementQueued 0) (held 5220)).line.due = true := by decide +kernel

theorem test_listen : (run (.listenTimerExpiry 0)
    { onLine .listening 300 with line := { (onLine .listening 300).line with listenDue := some 300000 } }).line.state =
      .active := by decide +kernel

theorem test_hold : (run (.holdTimerExpiry 0)
    { onLine .isolated 9000 with line := { (onLine .isolated 9000).line with holdDue := some 9000000 } }).line.slot.map
      TxFrame.kind = some .statement := by decide +kernel

/-- Section 4.4.1: station 5 with the statement in the slot and the register of a draw. -/
def station5 (us : Nat) (tx : Transmitter) (k : Nat) (seq : Option (BitVec 8)) (register : BitVec 16) : State :=
  let s := onLine .active 6000
  { s with
    clock := 6000000 + us, address := 5
    line := { s.line with
      tx := tx, nextSeq := 41, backoff := register, slot := some { statementFrame with k := k, seq := seq } } }

theorem test_attempt : (run (.attemptStart 0) (station5 0 .idle 0 none 0x3589)).line.slot.map TxFrame.seq =
      some (some 41) ∧
    (run (.attemptStart 0) (station5 0 .idle 0 none 0x3589)).line.nextSeq = 42 := by decide +kernel

/-- Section 12.2's header and 18 bytes of payload, with the CRC of R188 after its last byte. -/
theorem test_attempt_frame : (run (.attemptStart 0) (station5 0 .idle 0 none 0x3589)).line.frameOut =
    withCrc16 ([1, 5, 0, 41, 18, 0] ++ List.replicate 18 0) := by decide +kernel

theorem test_collision : (run (.collision 0) (station5 60 (.sending .routine 6000000) 0 (some 41) 0x3589)).line.tx =
      .jamming (some .routine) 6000188 ∧
    (run (.collision 0) (station5 60 (.sending .routine 6000000) 0 (some 41) 0x3589)).line.slot.map TxFrame.k =
      some 1 := by decide +kernel

/-- Draws 1 and 3. -/
theorem test_jam_end :
    (run (.jamEnd 0) (station5 188 (.jamming (some .routine) 6000188) 1 (some 41) 0x3589)).line.backoff = 0xAEC4#16 ∧
    (run (.jamEnd 0) (station5 188 (.jamming (some .routine) 6000188) 1 (some 41) 0x3589)).line.slot.map TxFrame.wait =
      some none ∧
    (run (.jamEnd 0) (station5 188 (.jamming (some .routine) 6000188) 2 (some 41) 0x5762)).line.backoff = 0x2BB1#16 ∧
    (run (.jamEnd 0) (station5 188 (.jamming (some .routine) 6000188) 2 (some 41) 0x5762)).line.slot.map TxFrame.wait =
      some (some 6000444) := by decide +kernel

/-- R72: the wait of 256 µs ends. -/
def waiting : State :=
  let s := station5 188 .idle 2 (some 41) 0x2BB1
  { s with line := { s.line with slot := some { statementFrame with k := 2, wait := some 6000444 } } }
theorem test_wait_end : (run (.backoffWaitEnd 256 .routine) waiting).line.slot.map TxFrame.wait = some none ∧
    (run (.backoffWaitEnd 255 .routine) waiting).line.slot.map TxFrame.wait = some (some 6000444) := by decide +kernel

/-- Section 4.4.1: the slide notice started at 752 is sent at 1232, after 120 bits. -/
def sending : State :=
  let s := station5 752 (.sending .urgent 6000752) 1 (some 41) 0x5762
  { s with line := { s.line with queue := [slideFrame] } }
theorem test_frame_sent : (run (.frameSent 480) sending).line.queue = [] ∧
    (run (.frameSent 480) sending).counters.framesSent = 1 ∧
    (run (.frameSent 479) sending).line.queue = [slideFrame] := by decide +kernel

/-- R74: at bit time 64 the collision is late and the frame is abandoned without a jam. -/
theorem test_late_collision : (run (.lateCollision 256) sending).line.tx = .idle ∧
    (run (.lateCollision 256) sending).line.trouble = 1 ∧
    (run (.lateCollision 256) sending).counters.lateCollisions = 1 := by decide +kernel

/-! ### The peer table: sections 5.2 and 5.6 -/

/-- A LIVE entry of station 9 with a last sequence, heard at a time. -/
def live9 (seq : BitVec 8) (heard : Time) : PeerEntry :=
  { staticEntry 9 with
    fixed := false, state := .live, group := some 0, lastSeq := some seq, lastTime := some heard, heard := some heard,
    last := some (parseStatement (List.replicate 18 0)) }

def knowing (e : PeerEntry) (ms : Nat) : State :=
  let s := onLine .active ms
  { s with peers := { entries := [e], ageingDue := ms * 1000 } }

def from9 (seq : BitVec 8) : List Byte := withCrc16 (frameBody .statement 9 0 seq (List.replicate 18 0))

/-- The worked values of the check: 250 then 3 misses 8 frames; 10 then 138 is stale. -/
theorem test_receive_statement :
    (run (.receiveCompletion 0 (from9 3) 0) (knowing (live9 250 5000) 6000)).peers.entries.map PeerEntry.missed = [8] ∧
    (run (.receiveCompletion 0 (from9 138) 0) (knowing (live9 10 5000) 6000)).counters.staleFrames = 1 := by
  decide +kernel

/-- R70: a second good frame with the station's own address. -/
theorem test_receive_clash :
    let s := knowing (live9 0 5000) 6000
    (run (.receiveCompletion 0 (from9 3) 0) { s with address := 9, line := { s.line with clashes := 1 } }).line.state =
      .clashed := by decide +kernel

/-- Section 5.6: entry 3, heard at 430 ms, stays LIVE at 920 ms and enters SILENT at 940 ms. -/
theorem test_ageing :
    (run (.ageingTimerExpiry 0) (knowing (live9 18 430) 920)).peers.entries.map PeerEntry.state = [.live] ∧
    (run (.ageingTimerExpiry 0) (knowing (live9 18 430) 940)).peers.entries.map PeerEntry.state = [.silent] := by
  decide +kernel

/-! ### The Recorder: sections 8.4.1, 8.5.1 and 9.8 -/

/-- A pressure record of section 8.4.1, at a time in ms. -/
def pressures (ms bp bc mr : Nat) : TraceRecord :=
  { time := BitVec.ofNat 32 ms, tag := 0, lead := [], vals := [bp, bc, 0, mr], valid := [true, true, true, true],
    body := [] }

/-- Channel 0 after the record of 40,020 ms. -/
def channel0 : Channel :=
  { enable := true, kind := .pressureTrace, alloc := 16, mirror := 0, ring := [4], current := some 9, empty := [],
    nextSeq := 213, openTime := 40000, openSeq := 212, used := 19, fill := 2, lastTime := 40020, sinceKey := 2,
    prev := some ([618, 0, 0, 850], [true, true, true, true]), lost := 0 }

/-- The records of 40,040 ms, a delta, and 40,060 ms, a key for the range of BC. -/
theorem test_records :
    let one := (channel0.writeRecord 0 (pressures 40040 541 120 848) []).1
    let two := (one.writeRecord 0 (pressures 40060 470 310 848) []).1
    one.used = 25 ∧ one.fill = 3 ∧ one.sinceKey = 3 ∧ two.used = 38 ∧ two.fill = 4 ∧ two.sinceKey = 1 := by
  decide +kernel

/-- A channel of the default table holding blocks from `first` on, of which the last is the current one. -/
def holds (n : Nat) (first held : Nat) : Channel :=
  { (resetRecorder defaultConfig).chans.getD n channel0 with
    ring := List.range' first (held - 1), current := some (first + held - 1), empty := [] }

/-- The five default channels with holdings of these sizes. -/
def recorderOf (a b c d e : Nat) (spare : List Nat) (served : Nat) : Recorder :=
  { resetRecorder defaultConfig with
    chans := [holds 0 0 a, holds 1 16 b, holds 2 32 c, holds 3 56 d, holds 4 64 e] ++
      ((resetRecorder defaultConfig).chans.drop 5)
    spare := spare, lastServed := served, state := .idle }

def holdings (r : Recorder) : List Nat := r.chans.map fun ch => ch.holding.length

/-- Section 8.5.1, the uncapped and the capped round. -/
theorem test_rounds :
    let r := recorderOf 10 16 20 8 13 (List.range' 80 9) 2
    holdings (r.round false) = [13, 16, 23, 8, 16, 0, 0, 0] ∧ (r.round false).lastServed = 2 ∧
      holdings (r.round true) = [12, 16, 22, 8, 15, 0, 0, 0] ∧ (r.round true).spare.length = 3 := by decide +kernel

/-- Section 9.8: incident 37 in capture with all holdings full. -/
def capturing : State :=
  let s := later
  let inc : Incident :=
    { number := 37, openMs := 90, windowEnd := 100, truncated := false, overflowed := false, summary := s.summary,
      causes := [{ cause := .emergencyLocal, offset := 0, detail := [], origin := none }], snapshot := [] }
  { s with
    recorder := { recorderOf 16 16 24 8 16 (List.range' 80 16) 7 with state := .capturing, capture := some inc }
    store := { s.store with requests := [], scan := none, lines := List.replicate 63 .empty } }

theorem test_window_close :
    let t := run (.windowTimerExpiry 0) capturing
    holdings t.recorder = [2, 2, 2, 2, 2, 0, 0, 0] ∧ t.recorder.spare.length = 6 ∧ t.recorder.lastServed = 4 ∧
      t.recorder.pendingQueue.map (fun e => e.blocks.length) = [80] ∧ t.store.phase = .erasing := by decide +kernel

theorem test_power_fail_close :
    let t := run (.powerFailWarningStanding 0) capturing
    t.recorder.pendingQueue.map (fun e => e.incident.truncated) = [true] ∧ t.store.phase = .idle := by decide +kernel

/-- R169: the start test runs when the warning ceases. -/
theorem test_power_fail_ceases :
    (run (.powerFailWarningCeases 0) (run (.powerFailWarningStanding 0) capturing)).store.requests = [.eraseTarget 1] := by
  decide +kernel

/-! ### The Store Engine: section 10.9 -/

/-- A pending incident without frozen lists. -/
def pendingIncident : PendingEntry :=
  { incident :=
      { number := 45, openMs := 90, windowEnd := 100, truncated := false, overflowed := false,
        summary := later.summary, causes := [], snapshot := [] }
    closeTime := 100, tracesAbsent := true, retention := true, frozen := [] }

/-- Slots 62, 63 and 1 VALID, slot 62 retained; 48 retained; incident 45 pending; an operation in flight for a store. -/
def storing (op : Option FlashOp) (target attempt position : Nat) : State :=
  { later with
    recorder := { later.recorder with state := .idle, pendingQueue := [pendingIncident] }
    store := { resetStore with
      requests := [], scan := none, lastWritten := some 61, retained := 48
      lines := (((List.replicate 63 DirLine.empty).set 61 (.valid 21 true 1 400)).set 62 (.valid 22 false 1 400)).set 0
        (.valid 23 false 1 400)
      phase := if op.isSome then .erasing else .idle, inFlight := op
      job := if op.isSome then
          some { target := target, attempt := attempt, position := position, cleanup := false, retained := false }
        else none } }

/-- 62, retained, is passed over. -/
theorem test_target : (storing none 0 0 0).store.chooseTarget 61 = some 63 := by decide +kernel

/-- R164: the end of the last read of the scan. -/
theorem test_scan_ends :
    let s := storing none 0 0 0
    let t := run (.scanReadCompletion 0 false) { s with
      recorder := { s.recorder with state := .scanning, pendingQueue := [] }
      store := { s.store with scan := some 63, inFlight := some (.scanRead 63) } }
    t.recorder.state = .idle ∧ t.store.nextNumber = 24 ∧ t.store.lastWritten = some 1 := by decide +kernel

/-- The erase of 63 fails: 63 is BAD and 1 is the second target. -/
theorem test_erase_fails :
    let t := run (.slotEraseCompletion 0 (.failed [])) (storing (some (.eraseTarget 63)) 63 1 0)
    t.store.lineOf 63 = .bad ∧ t.store.requests = [.eraseTarget 1] ∧ t.store.job.map StoreJob.attempt = some 2 := by
  decide +kernel

/-- The read of 23, asked for after the erase of its slot, is issued before it. -/
theorem test_grant :
    let s := storing none 0 0 0
    let t := run (.flashInterfaceGrant 0) { s with
      store := { s.store with requests := [.eraseTarget 1, .readIncident 1 0 24] } }
    t.store.inFlight = some (.readIncident 1 0 24) ∧ (run (.incidentReadCompletion 0 true) t).store.inFlight = none ∧
      (run (.flashInterfaceGrant 0) (run (.incidentReadCompletion 0 true) t)).store.lineOf 1 = .empty := by decide +kernel

/-- The body of the entry is 104 + 1 + 1 + 1 bytes (R162); after its last program the header follows. -/
theorem test_body_ends :
    let t := run (.bodyProgramCompletion 0 .ok) (storing (some (.programBody 1 106 [0])) 1 2 106)
    t.store.phase = .committing ∧ t.store.job.map StoreJob.retained = some false := by decide +kernel

/-- Slot 1 becomes VALID with incident 45, not retained. -/
theorem test_header_ends :
    let t := run (.headerProgramCompletion 0 .ok) (storing (some (.programHeader 1 [])) 1 2 107)
    t.store.lineOf 1 = .valid 45 false 0 107 ∧ t.store.lastWritten = some 1 ∧ t.recorder.pendingQueue = [] ∧
      t.store.retained = 48 := by decide +kernel

/-- R171: the erases go on slot by slot, and a failed one leaves its line BAD. -/
theorem test_erase_all :
    let t := run (.eraseAllCompletion 0 (.failed [])) (storing (some (.eraseAll 7)) 1 1 0)
    t.store.lineOf 7 = .bad ∧ t.store.requests = [.eraseAll 8] := by decide +kernel

/-- R172: an image of two bytes being written to slot 0. -/
def writing (op : FlashOp) : State :=
  let s := storing none 0 0 0
  { s with
    recorder := { s.recorder with pendingQueue := [] }
    service := { s.service with inProgress := some .writeConfig }
    store := { s.store with phase := .writingConfig, inFlight := some op, config := some { image := [1, 2], position := 0 } } }
theorem test_config_program_ends :
    let t := run (.configProgramCompletion 0 .ok) (writing (.programConfig 0 [1, 2]))
    t.service.responses.map Response.code = [.ok] ∧ t.flash = [(0, 1), (1, 2)] := by decide +kernel

/-! ### The Service Port (section 12.4) -/

/-- At standstill, RELEASED, the scan over and the engine idle. -/
def resting : State :=
  { later with
    demand := { later.demand with mode := .released }
    slide := { later.slide with standstill := true }
    recorder := { later.recorder with state := .idle }
    store := { resetStore with requests := [], scan := none, lines := List.replicate 63 .empty } }

/-- The responses that a command adds. -/
def answered (c : Instr) (s : State) : List (Code × List Byte) :=
  (run c s).service.responses.map fun r => (r.code, r.values)

/-- R172, R185: a failed erase of slot 0 is answered BAD_IMAGE with READ_FAILED, code 2 (R188). -/
theorem test_config_erase_fails :
    answered (.configEraseCompletion 0 (.failed [])) (writing .eraseConfig) = [(.badImage, [2])] ∧
    (run (.configEraseCompletion 0 (.failed [])) (writing .eraseConfig)).store.phase = .idle := by decide +kernel

/-- R176: a request of command 1 whose CRC differs, one whose CRC is right, and a framing error in a request. -/
def requestBytes (body : List Byte) (crc : BitVec 16) : List LinkByte :=
  ([0x7E#8] ++ body ++ be16 crc.toNat).map (byteOf 100)
theorem test_frame_error :
    (run (.serviceFrameError 500 (requestBytes [1, 0] (crc16 [1, 0] + 1))) later).counters.serviceErrors = 1 ∧
    (run (.serviceFrameError 500 (requestBytes [1, 0] (crc16 [1, 0]))) later).counters.serviceErrors = 0 ∧
    (run (.serviceFrameError 200 [byteOf 100 0x7E, { wait := 100, value := 1, framing := true }]) later).counters.serviceErrors
      = 1 := by decide +kernel

/-- R176, R177: a request with a good CRC is an arrival, also where a byte with a framing error comes after it. -/
theorem test_frame_error_after_request :
    answered (.serviceFrameError 500 (requestBytes [2, 0] (crc16 [2, 0]))) resting = [(.ok, [])] ∧
    answered (.serviceFrameError 700 (requestBytes [2, 0] (crc16 [2, 0]) ++
      [byteOf 100 0x7E, { wait := 100, value := 1, framing := true }])) resting = [(.ok, [])] ∧
    answered (.serviceFrameError 600 (requestBytes [3, 1, 31] (crc16 [3, 1, 31]))) resting = [(.badRequest, [])] := by
  decide +kernel

/-- R176: 50 ms after the start byte, and not before. -/
theorem test_request_timeout :
    (run (.requestTimeout ⟨50100, [byteOf 100 0x7E, byteOf 100 1]⟩) later).counters.serviceErrors = 1 ∧
    (run (.requestTimeout ⟨50099, [byteOf 100 0x7E, byteOf 100 1]⟩) later).counters.serviceErrors = 0 ∧
    (run (.requestTimeout ⟨0, []⟩) later).counters.serviceErrors = 0 := by decide +kernel

theorem test_unknown : answered (.unknownCommand 0 0x55 []) resting = [(.badRequest, [])] := by decide +kernel

/-- R178: address, group, mode RELEASED, line LISTENING come first. -/
theorem test_read_status : (answered (.readStatus 0 []) resting).map (fun r => r.2.take 4) = [[1, 0, 0, 1]] := by
  decide +kernel

/-- R178, section 2.1: SD, Fcmd and U are those of the most recent control cycle, whatever R27 or R31 has set since. -/
theorem test_read_status_cycle :
    let s (cycle : CycleValues) : State := { resting with
      sharing := { resting.sharing with sd := 3, u := 5 }, outputs := { resting.outputs with fcmd := 7, cycle := cycle } }
    answered (.readStatus 0 []) (s { sd := 0, eact := 0, fcmd := 0, u := 0 }) =
      answered (.readStatus 0 []) { s { sd := 0, eact := 0, fcmd := 0, u := 0 } with sharing := resting.sharing } ∧
    answered (.readStatus 0 []) (s { sd := 300, eact := 0, fcmd := 0, u := 0 }) ≠
      answered (.readStatus 0 []) (s { sd := 0, eact := 0, fcmd := 0, u := 0 }) := by decide +kernel

/-- R179: the entry of station 9, dynamic and LIVE in group 0; none for station 10. -/
theorem test_read_peers : answered (.readPeers 0 []) (knowing (live9 3 5000) 6000) = [(.ok, [9, 0, 0, 2, 0])] := by
  decide +kernel
theorem test_read_peer :
    answered (.readPeer 0 [10]) (knowing (live9 3 5000) 6000) = [(.notFound, [])] ∧
    answered (.readPeer 0 [31]) (knowing (live9 3 5000) 6000) = [(.badRequest, [])] := by decide +kernel

/-- R180: an empty directory lists nothing, next slot 0, and no retained incident. -/
theorem test_list_incidents : answered (.listIncidents 0 [1]) resting = [(.ok, [0, 0])] := by decide +kernel

/-- R181: the bytes named are read from the slot of the number, shortened at the record's end (24 + 400 bytes). -/
theorem test_read_incident :
    (run (.readIncident 0 [0, 0, 0, 23, 0, 0, 1, 0x90, 240]) (storing none 0 0 0)).store.requests =
      [.readIncident 1 400 24] ∧
    answered (.readIncident 0 [0, 0, 0, 24, 0, 0, 0, 0, 1]) (storing none 0 0 0) = [(.notFound, [])] := by decide +kernel
theorem test_read_completes : answered (.incidentReadCompletion 0 true) (writing (.readIncident 1 400 2)) =
    [(.ok, [0xFF, 0xFF])] ∧
    answered (.incidentReadCompletion 0 false) (writing (.readIncident 1 400 2)) = [(.busy, [])] := by decide +kernel

/-- R182: 24 counters and eight lost-record counts of two bytes each. -/
theorem test_read_counters : (answered (.readCounters 0 []) resting).map (fun r => r.2.length) = [64] := by decide +kernel
theorem test_clear_counters :
    (run (.clearCounters 0 []) { resting with counters := { zeroCounters with misses := 65535 } }).counters =
      zeroCounters := by decide +kernel

/-- R183, R150. -/
theorem test_trigger : (run (.trigger 0 []) resting).recorder.state = .capturing ∧
    (run (.trigger 0 []) resting).recorder.capture.map Incident.number = some 1 ∧
    (run (.trigger 0 []) later).counters.ignoredInScanning = 1 := by decide +kernel

/-- R143: channel 5 is OFF, channel 8 does not exist. -/
theorem test_clear_channel : answered (.clearChannel 0 [5]) resting = [(.badRequest, [])] ∧
    answered (.clearChannel 0 [8]) resting = [(.badRequest, [])] ∧ answered (.clearChannel 0 [4]) resting = [(.ok, [])] ∧
    answered (.clearChannel 0 [4]) { resting with slide := { resting.slide with standstill := false } } =
      [(.notStandstill, [])] := by decide +kernel

/-- R184. -/
theorem test_erase_incidents : answered (.eraseIncidents 0 []) resting = [(.ok, [])] ∧
    (run (.eraseIncidents 0 []) resting).store.phase = .erasingAll ∧
    answered (.eraseIncidents 0 []) { resting with powerFail := true } = [(.busy, [])] := by decide +kernel

/-- `resting` with slot 62 BAD after a failed erase of a first ERASE_INCIDENTS, its retained record perhaps still there. -/
def erasedBadly : State :=
  { resting with store := { resting.store with
      lines := resting.store.lines.set 61 .bad, mayHold := [62], retained := 1 } }

/-- R163: the second ERASE_INCIDENTS starts the count at 0 and counts slot 62 again only if its erase fails again. -/
theorem test_erase_again :
    let taken := run (.eraseIncidents 0 []) erasedBadly
    let ends (r : FlashResult) : Store :=
      (run (.eraseAllCompletion 0 r) { taken with store := { taken.store with inFlight := some (.eraseAll 62) } }).store
    taken.store.retained = 0 ∧ (ends (.failed [])).retained = 1 ∧ (ends (.failed [])).lineOf 62 = .bad ∧
      (ends .ok).retained = 0 := by decide +kernel

/-- R185: a first chunk is kept, one at offset 3 without an assembly is discarded. -/
theorem test_write_config : (run (.writeConfig 0 [0, 0, 0, 1, 0xF0]) resting).service.assembly = some [1, 0xF0] ∧
    answered (.writeConfig 0 [0, 3, 0, 1]) resting = [(.badRequest, [])] := by decide +kernel

/-- R186. -/
theorem test_restart : answered (.restart 0 []) resting = [(.ok, [])] ∧
    (run (.restart 0 []) resting).service.inProgress = some .restart ∧
    answered (.restart 0 []) later = [(.notStandstill, [])] := by decide +kernel
theorem test_restart_sent :
    (run (.restartResponseSent 0 ⟨7, true⟩ []) (run (.restart 0 []) resting)).address = 7 ∧
    (run (.restartResponseSent 0 ⟨7, true⟩ []) resting).address = 1 := by decide +kernel

/-- Section 12.4: start byte, command with bit 7 set, length, the command, its result OK and the CRC of R188. -/
theorem test_response_sent :
    (run (.serviceResponseSent 0) (run (.readPeers 0 []) resting)).service.responses = [] ∧
    (run (.serviceResponseSent 0) (run (.readPeers 0 []) resting)).serviceOut =
      [0x7E, 0x80, 2, 2, 0] ++ be16 (crc16 [0x80, 2, 2, 0]).toNat := by decide +kernel

/-! ### Witnesses: values that meet the hypotheses of each statement, each clause at a boundary of its range

The machine and its reset. -/

theorem witness_StepRunsFrontCommand :
    ({ later with pending := [.requestTimeout ⟨5, []⟩, .controlCycle 1] }).pending = .requestTimeout ⟨5, []⟩ :: [.controlCycle 1] ∧
    later.pending = [] := by decide +kernel

theorem witness_CommandsKeepQueueAndSetup :
    resetCommand (.controlCycle 0) = false ∧ (loading image).runPhase = .loading ∧
    actsWhileLoading (.controlCycle 0) = false := by decide +kernel

theorem witness_ImageReadPutsConfigurationInForce :
    (loading image).runPhase = .loading ∧ (loading image).store.inFlight = some .readImage := by decide +kernel

/-! Acquisition Unit. -/

theorem witness_ConversionStandsAndGivesSample : later.runPhase = .running ∧
    (later.acq.chans.get .bc).state ≠ .absent ∧ (later.acq.chans.get .bc).sample = .none ∧
    ((bcAt .absent none 0 0 1008).acq.chans.get .bc).state = .absent ∧
    (199#12).toNat ≤ 199 ∧ 200 ≤ (200#12).toNat ∧ (399#12).toNat ≤ 399 ∧ 400 ≤ (400#12).toNat ∧
    (3600#12).toNat ≤ 3600 ∧ 3601 ≤ (3601#12).toNat ∧ (3800#12).toNat ≤ 3800 ∧ 3801 ≤ (3801#12).toNat := by decide +kernel

/-- The BC channel's premise in the clauses of the scan statement. -/
def scanned (state : PressState) (invalid valid : Nat) (code : BitVec 12) : PressState × Nat × Nat × Option Nat :=
  let ch := (bcAt state (some 190) invalid valid code).acq.chans.get .bc
  (ch.state, ch.invalidRun, ch.validRun, ch.sample.value)

theorem witness_ScanStepsChannelsAndHistory :
    (bcAt .valid none 0 0 1008).runPhase = .running ∧ (bcAt .valid none 0 0 1008).acq.scanDue ≤ later.clock + 0 ∧
    [scanned .absent 0 0 1008, scanned .valid 0 0 1008, scanned .valid 0 0 199, scanned .held 1 0 1024,
      scanned .held 2 0 150, scanned .held 3 0 150, scanned .failed 0 3 1040, scanned .failed 0 4 1040,
      scanned .failed 0 2 4090] =
      [(.absent, 0, 0, some 190), (.valid, 0, 0, some 190), (.valid, 0, 0, none), (.held, 1, 0, some 195),
        (.held, 2, 0, none), (.held, 3, 0, none), (.failed, 0, 3, some 200), (.failed, 0, 4, some 200),
        (.failed, 0, 2, none)] := by
  decide +kernel

/-- BP before a scan: a state, a code, a history. -/
def bpAt (state : PressState) (code : BitVec 12) (history : List Nat) : State :=
  { later with acq := { later.acq with
      history := history
      chans := { later.acq.chans with
        bp := { state := state, last := if state = .held then some 600 else none, invalidRun := 3, validRun := 0,
                sample := .code code } } } }

theorem witness_ScanHistory :
    (run (.scanCompletion 0) (bpAt .held 150 [600])).acq.chans.bp.state = .failed ∧
    (run (.scanCompletion 0) (bpAt .held 2400 (List.replicate 11 620))).acq.chans.bp.last = some 625 ∧
    (run (.scanCompletion 0) (bpAt .valid 150 [])).acq.chans.bp =
      { state := .held, last := none, invalidRun := 1, validRun := 0, sample := .none } ∧
    (run (.scanCompletion 0) (bpAt .valid 2400 [])).acq.history = [625] ∧
    (run (.scanCompletion 0) (bpAt .valid 2400 [620])).acq.history = [620, 625] := by decide +kernel

/-- An axle window with `n` pulses and the last one `age` µs ago, at the clock of `later`. -/
def windowOf (n age : Nat) : AxleSpeed :=
  { n := n, first := if n = 0 then none else some 1, last := if n = 0 then none else some 1,
    recent := some (BitVec.ofNat 32 (100000 + 2 ^ 32 - age)), prevV := 900, prevValid := true, v := 900, valid := true,
    faulted := false, dv := 0 }

theorem witness_ToothPulsesGiveAxleSpeeds :
    measured.runPhase = .running ∧ (singlePulse none).acq.speedTime = none ∧ (singlePulse (some 80)).acq.speedTime ≠ none ∧
    ((singlePulse (some 80)).acq.axles.get .one).n < 2 ∧ ((singlePulse (some 80)).acq.axles.get .one).recent = some 80000 ∧ measured.acq.windowDue ≤ measured.clock + 0 ∧
    (Tri.mk true false false).get .one = true ∧ (Tri.mk true false false).get .two = false ∧
    2 ≤ (measured.acq.axles.get .two).n ∧ (measured.acq.axles.get .two).first = some 1240 ∧
    (measured.acq.axles.get .two).last = some 19850 ∧ (measured.acq.axles.get .one).n < 2 ∧
    (measured.acq.axles.get .one).recent = none ∧
    1000000 < (later.stamp - (windowOf 1 1000001).recent.getD 0).toNat ∧
    (later.stamp - (windowOf 1 1000000).recent.getD 0).toNat ≤ 1000000 := by decide +kernel

/-- The duty of R16 for a total of high time. -/
def dutyOf (high : Nat) : Nat :=
  ({ later.acq.handle with highTime := high }.highTime + (if later.handleLevel then later.clock + 0 else 0)) / 20

theorem witness_HandleInputGivesDemand : later.runPhase = .running ∧ later.acq.windowDue ≤ later.clock + 0 ∧
    dutyOf 980 = 49 ∧ dutyOf 1000 = 50 ∧ dutyOf 1980 = 99 ∧ dutyOf 2000 = 100 ∧ dutyOf 18000 = 900 ∧
    dutyOf 18020 = 901 ∧ dutyOf 19000 = 950 ∧ dutyOf 19020 = 951 := by decide +kernel

/-! Slide protection. -/

/-- All three axles out of the candidates, and a peer of the own group that states a speed (section 3.9). -/
def assisted (peers : List PeerEntry) : State :=
  let m : AxleMachine := { resetMachine with state := .slide, untrusted := some 0, holdValve := true, ventValve := true }
  { onLine .active 6000 with
    demand := { later.demand with mode := .service }
    slide := { later.slide with vref := 12370, firstPending := false, machines := ⟨m, m, m⟩ }
    acq := { later.acq with pitch := 10, axles := ⟨rolling 11000 11000, rolling 11000 11000, rolling 11000 11000⟩ }
    peers := { entries := peers, ageingDue := 6000000 } }

/-- A speed window expiry without a fault. -/
def arrive (s : State) : State := run (.speedWindowExpiry 0 false false false) s

theorem witness_SpeedSetUpdatesReferenceSpeed :
    later.runPhase = .running ∧ later.acq.windowDue ≤ later.clock + 0 ∧ later.slide.vref ≤ 65535 ∧
    later.slide.firstPending = true ∧ slipping.slide.firstPending = false ∧
    slipping.slide.needsAssistance (arrive slipping).acq.axles slipping.now = false ∧
    (assisted [live9 3 5000]).slide.needsAssistance (arrive (assisted [live9 3 5000])).acq.axles
      (assisted [live9 3 5000]).now = true ∧
    lowerMedian (eligibleVrefs (assisted [live9 3 5000]).peers.entries 0) = some 0 ∧
    eligibleVrefs (assisted []).peers.entries 0 = [] := by decide +kernel

/-- A station whose reference speed is `v` mm/s, its axles turning at it, with a low-speed run since a time. -/
def slowing (v : Nat) (low : Option Time) (still : Bool) : State :=
  { onLine .active 6000 with
    acq := { later.acq with pitch := 10, axles := ⟨rolling v v, rolling v v, rolling v v⟩ }
    slide := { later.slide with vref := v, firstPending := false, lowStart := low, standstill := still } }

theorem witness_SpeedSetUpdatesStandstill :
    (slowing 101 none true).runPhase = .running ∧ (slowing 101 none true).acq.windowDue ≤ 6000000 + 0 ∧
    (arrive (slowing 101 none true)).slide.vref = 101 ∧ (arrive (slowing 101 none true)).slide.standstill = false ∧
    (arrive (slowing 100 none false)).slide.vref = 100 ∧ (slowing 100 none false).slide.lowStart = none ∧
    since (slowing 100 (some 3001) false).now 3001 = 2999 ∧ since (slowing 100 (some 3000) false).now 3000 = 3000 ∧
    (arrive (slowing 100 (some 3000) false)).slide.standstill = true ∧
    (slowing 100 (some 3000) false).slide.standstill = false := by decide +kernel

/-- Axle 2 in a state of its machine, at a slip q and a deceleration dv, at Vref 10,000 mm/s. -/
def sliding (state : AxleState) (high calm recover vent : Nat) (v prev : Nat) : State :=
  { later with
    demand := { later.demand with mode := .service }
    acq := { later.acq with pitch := 10, axles := ⟨rolling 10000 10000, rolling v prev, rolling 10000 10000⟩ }
    slide := { later.slide with
      vref := 10000, firstPending := false
      machines := { later.slide.machines with two := { resetMachine with
        state := state, high := high, calm := calm, recover := recover, vent := vent, holdValve := state.holdValve,
        ventValve := state.ventValve, untrusted := some 0 } } } }

/-- Vref, q and dv of the axle, as the statement has them. -/
def slip (s : State) : Nat × Nat × Int :=
  let t := arrive s
  (t.slide.vref, (t.slide.vref - (t.acq.axles.get .two).v) * 1000 / t.slide.vref, (t.acq.axles.get .two).dv)

/-- The boundaries of Q1 = 30‰, Q2 = 80‰, DV1 = 60 mm/s, the counts 4 and 1, T_vent = 3000 ms and T_rec = 200 ms. -/
theorem witness_AxleMachinesStepByTables :
    slipping.runPhase = .running ∧ slipping.acq.windowDue ≤ slipping.clock + 0 ∧
    (Tri.mk false false false).get .two = false ∧ slipping.demand.mode ≠ .released ∧
    slip (sliding .normal 0 0 0 0 9700 9700) = (10000, 30, 0) ∧ slip (sliding .normal 0 0 0 0 9990 10050) = (10000, 1, 60) ∧
    slip (sliding .normal 0 0 0 0 9701 9760) = (10000, 29, 59) ∧ slip (sliding .suspect 0 0 0 0 9200 9200) = (10000, 80, 0) ∧
    slip (sliding .suspect 4 0 0 0 9201 9201) = (10000, 79, 0) ∧ slip (sliding .suspect 3 0 0 0 9700 9700) = (10000, 30, 0) ∧
    slip (sliding .suspect 0 0 0 0 9701 9761) = (10000, 29, 60) ∧ slip (sliding .suspect 0 0 0 0 9701 9760) = (10000, 29, 59) ∧
    slip (sliding .suspect 0 1 0 0 9701 9760) = (10000, 29, 59) ∧ slip (sliding .slide 0 0 0 2980 9000 9000) = (10000, 100, 0) ∧
    slip (sliding .slide 0 0 0 2960 9701 9701) = (10000, 29, 0) ∧ slip (sliding .slide 0 0 0 2960 9700 9700) = (10000, 30, 0) ∧
    slip (sliding .recover 0 0 0 40 9200 9200) = (10000, 80, 0) ∧ slip (sliding .recover 0 0 5 40 9700 9700) = (10000, 30, 0) ∧
    slip (sliding .recover 0 0 8 40 9701 9701) = (10000, 29, 0) ∧ (8 + 1) * 20 < later.config.tRec ∧
    later.config.tRec ≤ (9 + 1) * 20 ∧ later.config.tVent ≤ 2980 + 20 ∧ 2960 + 20 < later.config.tVent := by
  decide +kernel

/-- Axle 2 in FAULT since an arrival without a fault, `ago` ms before. -/
def faulted (since : Option Nat) : State :=
  let s := sliding .fault 0 0 0 0 10000 10000
  { s with
    clock := 6000000
    slide := { s.slide with machines := { s.slide.machines with two := { s.slide.machines.two with
      faultReturn := since.map fun ago => BitVec.ofNat 32 (6000 - ago) } } } }

/-- `s` in a mode, at a low speed and perhaps at standstill: protection is inactive below 800 mm/s and in RELEASED. -/
def inactive (s : State) (mode : Mode) (still : Bool) : State :=
  { s with
    demand := { s.demand with mode := mode }
    acq := { s.acq with axles := ⟨rolling 0 0, rolling 0 0, rolling 0 0⟩ }
    slide := { s.slide with vref := 829, standstill := still } }

/-- FAULT, its 1000 ms, inactive protection and TIMEOUT (R43, R44). -/
theorem witness_AxleMachinesOutsideActive :
    (Tri.mk false true false).get .two = true ∧ (faulted none).slide.machines.two.state = .fault ∧
    (faulted none).slide.machines.two.faultReturn = none ∧ since (faulted (some 999)).now 5001 = 999 ∧
    (faulted (some 999)).slide.machines.two.faultReturn = some 5001 ∧ since (faulted (some 1000)).now 5000 = 1000 ∧
    (arrive (inactive (sliding .slide 0 0 0 40 0 0) .service false)).slide.vref = 799 ∧
    (arrive (inactive (sliding .slide 0 0 0 40 0 0) .service false)).slide.machines.two.state = .normal ∧
    (inactive (sliding .timeout 0 0 0 3000 0 0) .released false).demand.mode = .released ∧
    (arrive (inactive (sliding .timeout 0 0 0 3000 0 0) .service false)).slide.standstill = false ∧
    (arrive (inactive (sliding .timeout 0 0 0 3000 0 0) .service false)).slide.machines.two.state = .timeout ∧
    (sliding .timeout 0 0 0 3000 10000 10000).slide.machines.two.state = .timeout ∧
    ((sliding .slide 0 0 0 40 0 0).slide.machines.get .one).state = .normal := by decide +kernel

/-- All axles quiet, the last SLIDE entry `ago` ms before 6 s. -/
def recovering (ago : Nat) : State :=
  let s := sliding .normal 0 0 0 0 10000 10000
  { s with clock := 6000000, slide := { s.slide with lastSlide := some (BitVec.ofNat 32 (6000 - ago)) } }

theorem witness_SlideEntryReducesAdhesion :
    slipping.runPhase = .running ∧ slipping.acq.windowDue ≤ slipping.clock + 0 ∧
    (slipping.slide.machines.get .two).state ≠ .slide ∧ ((arrive slipping).slide.machines.get .two).state = .slide ∧
    ((arrive measured).slide.machines.get .two).state ≠ .slide ∧
    (arrive (recovering 2000)).slide.machines.map AxleMachine.state = ⟨.normal, .normal, .normal⟩ ∧
    since (recovering 2000).now 4000 = 2000 ∧ (recovering 2000).slide.lastSlide = some 4000 ∧
    since (recovering 1999).now 4001 = 1999 ∧ (recovering 1999).slide.lastSlide = some 4001 := by decide +kernel

/-- The kind and the source of a good frame. -/
def heard (frame : List Byte) : Option (FrameKind × Nat) :=
  match classify frame 0 with
  | .good f => some (f.kind, f.source)
  | _ => none

/-- `slipping` with a line of its own, and with another axle in RECOVER or not. -/
def noticing (line : LineState) (recover : Bool) : State :=
  { slipping with
    line := { slipping.line with state := line }
    recorder := { slipping.recorder with capture := capturing.recorder.capture }
    slide := { slipping.slide with machines := { slipping.slide.machines with
      one := if recover then { resetMachine with state := .recover, holdValve := true } else resetMachine } } }

/-- A slide notice of station 9. -/
def slide9 (seq : BitVec 8) : List Byte :=
  withCrc16 (frameBody .slideNotice 9 3 seq [0x05, 0xDC, 0x02, 0x71, 2, 0x30, 0x00])

theorem witness_SlideNoticeIsSentAndTaken :
    (noticing .active false).runPhase = .running ∧ (noticing .active false).acq.windowDue ≤ 100000 + 0 ∧
    (noticing .active false).line.state = .active ∧ (noticing .active false).line.queue.length < 4 ∧
    (noticing .active false).recorder.capture ≠ none ∧
    ((arrive (noticing .active false)).slide.machines.get .two).state = .slide ∧
    ((noticing .active false).slide.machines.get .one).state = .normal ∧
    ((noticing .active true).slide.machines.get .one).state = .recover ∧
    (noticing .listening false).line.state ≠ .active ∧
    heard (slide9 3) = some (.slideNotice, 9) ∧ (knowing (live9 2 5000) 6000).line.tx = .idle ∧
    (knowing (live9 2 5000) 6000).line.state ≠ .off ∧ (knowing (live9 2 5000) 6000).address ≠ 9 ∧
    findPeer [] 9 = none ∧ findPeer [staticEntry 9] 9 = some (staticEntry 9) ∧ (staticEntry 9).state = .absent ∧
    findPeer [live9 3 5000] 9 = some (live9 3 5000) ∧ (live9 3 5000).lastSeq = some 3 ∧ (live9 3 5000).state = .live ∧
    128 ≤ (3#8 - 131#8).toNat ∧ (3#8 - 132#8).toNat < 128 := by decide +kernel

/-- A state with a control cycle at the front of its queue. -/
def queued (s : State) : State := { s with pending := [.controlCycle 0] }

theorem witness_AdhesionAndVentTimeStayInRange :
    (queued slipping).AdhesionSound ∧ (queued slipping).ConfigSound ∧ (queued slipping).VentsSound ∧
    ∃ t, step (queued slipping) = .next t := by
  refine ⟨?_, ?_, ?_, ⟨_, rfl⟩⟩
  · unfold State.AdhesionSound; decide +kernel
  · unfold State.ConfigSound; decide +kernel
  · unfold State.VentsSound AxleMachine.VentSound; decide +kernel

/-! Demand and modes. -/

/-- A control cycle that is due. -/
def cycleReady (s : State) : Bool := s.runPhase == .running && decide (s.demand.cycleDue ≤ s.clock + 0)
def cycled (s : State) : State := run (.controlCycle 0) s

/-- A station with a failed BP, with or without a peer that states a demand of its own. -/
def blind (mode : Mode) (peers : List PeerEntry) : State :=
  let s := { onLine .active 6000 with peers := { entries := peers, ageingDue := 6000000 } }
  { s with
    demand := { s.demand with mode := mode }
    acq := { s.acq with latest := some { setOf 0 0 0 with
      chans := ⟨⟨.failed, none⟩, ⟨.valid, some 0⟩, ⟨.valid, some 0⟩, ⟨.failed, none⟩⟩ } } }

theorem witness_ControlCycleComputesDemandAndMode :
    cycleReady (braking .service 580 0 0) = true ∧ (braking .service 580 0 0).acq.latestChans.bp.value = some 580 ∧
    (blind .service []).acq.latestChans.bp.value = none ∧
    lowerMedian (eligibleDemands (blind .service [live9 3 5000]).peers.entries 0) = some 0 ∧
    eligibleDemands (blind .service []).peers.entries 0 = [] ∧ (braking .emergency 580 0 0).demand.mode = .emergency ∧
    (cycled (braking .released 578 0 0)).demand.d = 30 ∧ (cycled (braking .service 620 0 0)).demand.d = 0 ∧
    (cycled (braking .service 620 0 0)).sharing.sd = 0 ∧ (cycled (braking .service 620 0 0)).outputs.ecmd = 0 ∧
    (cycled (braking .service 620 0 0)).outputs.fcmd = 0 := by decide +kernel

/-- The check pending in EMERGENCY while a scan of BP ends: a state of the channel, a code, the history. -/
def checking (state : PressState) (code : BitVec 12) : State :=
  let s := bpAt state code [600]
  let bp := { s.acq.chans.bp with last := if state = .valid then some 600 else none, invalidRun := 0 }
  { s with
    acq := { s.acq with chans := { s.acq.chans with bp := bp } }
    demand := { s.demand with mode := .emergency, exitTimer := .expired }
    slide := { s.slide with standstill := true } }

/-- The BP that a scan leaves, and the history fall. -/
def scannedBp (s : State) : PressState × Option Nat × Int :=
  let t := run (.scanCompletion 0) s
  (t.acq.latestChans.bp.state, t.acq.latestChans.bp.value, t.acq.fall)

theorem witness_ExitCheckAtExpiryAndWhilePending :
    (exiting 600).runPhase = .running ∧ (exiting 600).demand.exitTimer = .running 100000 ∧
    100000 ≤ (exiting 600).clock + 0 ∧ (exiting 600).acq.latestChans.bp = { state := .valid, value := some 600 } ∧
    (exiting 600).config.bpRef ≤ 600 + 20 ∧ (exiting 599).acq.latestChans.bp.value = some 599 ∧
    599 + 20 < (exiting 599).config.bpRef ∧ (checking .valid 2320).runPhase = .running ∧
    (checking .valid 2320).acq.scanDue ≤ (checking .valid 2320).clock + 0 ∧
    (checking .valid 2320).demand.mode = .emergency ∧ (checking .valid 2320).demand.exitTimer = .expired ∧
    (checking .valid 2320).config.bpRef = 620 ∧ scannedBp (checking .valid 2320) = (.valid, some 600, 0) ∧
    scannedBp (checking .valid 2317) = (.valid, some 599, 1) ∧ scannedBp (checking .valid 150) = (.held, some 600, 0) ∧
    scannedBp (checking .failed 150) = (.failed, none, 0) := by decide +kernel

/-- A pressure scan that takes BP down to a code, with a history. -/
def venting (code : BitVec 12) (history : List Nat) : State :=
  let s := bpAt .valid code history
  { s with demand := { s.demand with mode := .service } }

/-- Codes 1295, 1296 and 2240 give 279, 280 and 575 kPa. -/
theorem witness_LocalDetectionEntersEmergency :
    (venting 1295 []).runPhase = .running ∧ (venting 1295 []).acq.scanDue ≤ (venting 1295 []).clock + 0 ∧
    (venting 1295 []).demand.mode ≠ .emergency ∧ (venting 1295 []).demand.exitTimer ≠ .expired ∧
    (run (.scanCompletion 0) (venting 1295 [])).acq.latestChans.bp.value = some 279 ∧
    (run (.scanCompletion 0) (venting 2240 [625])).acq.fall = 50 ∧
    (run (.scanCompletion 0) (venting 1296 [])).acq.latestChans.bp.value = some 280 ∧
    (run (.scanCompletion 0) (venting 1296 [329])).acq.fall = 49 ∧
    (run (.scanCompletion 0) (venting 150 [])).acq.latestChans.bp.value = none ∧
    (venting 1295 []).line.state ≠ .active ∧ (noticing .active false).line.state = .active ∧
    ({ later.config with sendMarks := false }).sendMarks = false ∧ (noticing .active false).recorder.capture ≠ none ∧
    ({ venting 1295 [] with demand := { later.demand with mode := .emergency } }).demand.mode = .emergency ∧
    scannedBp { venting 1295 [] with demand := { later.demand with mode := .emergency } } = (.valid, some 279, 0) ∧
    repeating.runPhase = .running ∧ repeating.demand.repeatDue = some 100000 ∧ 100000 ≤ repeating.clock + 0 ∧
    repeating.demand.notice = some { cause := .rate, bp := 541 } ∧ repeating.demand.noticeLeft = 2 ∧
    (run (.noticeRepeatExpiry 0) repeating).demand.noticeLeft = 1 := by decide +kernel

/-- An emergency notice of station 9, cause RATE, copy 1, BP 541 kPa. -/
def notice9 : List Byte := withCrc16 (frameBody .emergencyNotice 9 3 0 [0x21, 0x02, 0x1D])

theorem witness_ReceivedNoticeEntersEmergency :
    (braking .service 620 0 0).runPhase = .running ∧ (braking .service 620 0 0).line.tx = .idle ∧
    (braking .service 620 0 0).line.state ≠ .off ∧ heard notice9 = some (.emergencyNotice, 9) ∧
    (braking .service 620 0 0).demand.mode ≠ .emergency ∧ (exiting 600).demand.mode = .emergency := by decide +kernel

/-- In EMERGENCY with the setpoint at Pemg. -/
def stopping : State :=
  let s := braking .emergency 250 0 0
  { s with outputs := { s.outputs with bcOut := 480 } }

/-! Sharing and outputs. -/

/-- The sums SD, SE and SH of members, for the four clauses: SD = SE, SD = SE + 1, SD − SE = SH, SD − SE = SH + 1. -/
def sums (ms : List Member) : Nat × Nat × Nat :=
  (sumOf (ms.map Member.d), sumOf (ms.map Member.ce), sumOf (ms.map fun m => min m.fx (m.al - m.ce)))

theorem witness_SharesCoverTheGroupsDemand :
    sums [⟨100, 100, 50, 150⟩] = (100, 100, 50) ∧ sums [⟨101, 100, 50, 150⟩] = (101, 100, 50) ∧
    sums [⟨150, 100, 50, 150⟩] = (150, 100, 50) ∧ sums [⟨151, 100, 50, 150⟩] = (151, 100, 50) := by decide

/-- The last entry into ACTIVE `ago` ms before. -/
def joining (ago : Nat) : State :=
  let s := blind .service [live9 3 5000]
  { s with line := { s.line with activeSince := some (BitVec.ofNat 32 (6000 - ago)) } }

theorem witness_ControlCycleFormsMembershipAndShares :
    cycleReady (joining 300) = true ∧ (joining 300).demand.mode ≠ .emergency ∧
    (onLine .listening 6000).line.state ≠ .active ∧ (joining 300).line.state = .active ∧
    (joining 300).line.activeSince = some 5700 ∧ 300 ≤ since (joining 300).now 5700 ∧
    (joining 299).line.activeSince = some 5701 ∧ ¬300 ≤ since (joining 299).now 5701 := by decide +kernel

/-- Alone, with a demand, a converter that offers `eav`, and a friction fault or none. -/
def alone (h eav : Nat) (fault : Bool) : State :=
  let s := braking .service 620 0 h
  { s with
    config := { s.config with emax := 1500 }
    outputs := { s.outputs with
      linkUp := true, frictionFault := fault
      status := { eav := eav, eact := 0, ready := true, fault := false, asked := 0 } } }

/-- SD, SE and SH of the cycle. -/
def cycleSums (s : State) : Nat × Nat × Nat := ((cycled s).sharing.sd, (cycled s).sharing.se, (cycled s).sharing.sh)

theorem witness_ControlCycleSharesCases :
    cycleReady (alone 0 0 false) = true ∧ (alone 0 0 false).demand.mode ≠ .emergency ∧
    (braking .emergency 620 0 0).demand.mode = .emergency ∧ (cycled (braking .service 620 0 0)).outputs.linkUp = false ∧
    cycleSums (alone 0 500 false) = (0, 500, 0) ∧ cycleSums (alone 500 1000 false) = (1000, 1000, 0) ∧
    cycleSums (alone 500 999 true) = (1000, 999, 0) ∧ cycleSums (alone 840 0 false) = (1680, 0, 1680) ∧
    cycleSums (alone 841 0 false) = (1682, 0, 1680) := by decide +kernel

theorem witness_BrakingStateStaysSound :
    (queued (exiting 600)).ExitTimerSound ∧ (queued (exiting 600)).demand.exitTimer ≠ .stopped ∧
    (∃ t, step (queued (exiting 600)) = .next t) ∧
    (queued stopping).EmergencyHeld ∧ (queued stopping).demand.mode = .emergency ∧
    (∃ t, step (queued stopping) = .next t) ∧
    (queued losing).TargetsSafe ∧ (queued losing).RequestSafe ∧ ∃ t, step (queued losing) = .next t := by
  refine ⟨?_, by decide +kernel, ⟨_, rfl⟩, ?_, by decide +kernel, ⟨_, rfl⟩, ?_, ?_, ⟨_, rfl⟩⟩
  · unfold State.ExitTimerSound; decide +kernel
  · unfold State.EmergencyHeld; decide +kernel
  · unfold State.TargetsSafe; decide +kernel
  · intro r h
    cases h
    decide +kernel

/-- RELEASED, with an independent brake of `ind` kPa and the settle reference at 0. -/
def settled (ind : Nat) : State :=
  let s := braking .service 620 ind 0
  { s with outputs := { s.outputs with bcOut := 0, settleRef := 0 } }

theorem witness_ControlCycleMovesCommandsAndSetsCylinder :
    cycleReady losing = true ∧ cycleReady stopping = true ∧ (blind .service []).acq.latestChans.mr.value = none ∧
    losing.acq.latestChans.mr.value = some 850 ∧ losing.demand.mode ≠ .emergency ∧
    (cycled (braking .service 620 0 0)).outputs.fcmd = 0 ∧ (cycled losing).outputs.fcmd = 60 ∧ 0 < losing.config.kf ∧
    stopping.demand.mode = .emergency ∧ (cycled (settled 11)).outputs.bcOut = 11 ∧
    (settled 11).outputs.settleRef + 10 < 11 ∧ (cycled (settled 10)).outputs.bcOut = 10 ∧
    (settled 10).outputs.settleRef = 0 := by decide +kernel

/-- The station's latest request answered or not, and four valid replies behind it. -/
def asked (answered : Bool) : State :=
  { losing with outputs := { losing.outputs with answered := answered, linkUp := false, validRun := 4 } }

def reply (echo : Byte) : List Byte := withCrc16 [2, echo, 0x05, 0xDC, 0x04, 0xAF, 1]

theorem witness_StatusReplyIsCheckedAndClamped :
    losing.runPhase = .running ∧ parseStatus [] = none ∧ (parseStatus (reply 8)).map StatusFrame.echo = some 8 ∧
    later.outputs.latest = none ∧ (asked true).outputs.answered = true ∧
    (parseStatus (reply 7)).map StatusFrame.echo = some 7 ∧ (asked false).outputs.latest.map Request.seq = some 8 ∧
    (asked false).outputs.answered = false ∧ (asked false).outputs.linkUp = false ∧
    4 ≤ (asked false).outputs.validRun := by decide +kernel

/-- An answered request, the link UP, a last status that asked for 500 EU and got `eact`, and the fade runs. -/
def fading (eact : Nat) (fade : Bool) (shortRun goodRun : Nat) : State :=
  let s := losing
  { s with outputs := { s.outputs with
      answered := true, fade := fade, shortRun := shortRun, goodRun := goodRun
      status := { s.outputs.status with asked := 500, eact := eact } } }

theorem witness_LinkCheckMissesAndFade :
    cycleReady losing = true ∧ losing.outputs.latest ≠ none ∧
    losing.outputs.answered = false ∧ losing.outputs.linkUp = true ∧ 2 ≤ losing.outputs.missRun ∧
    ({ losing with outputs := { losing.outputs with missRun := 1 } }).outputs.missRun < 2 ∧
    (asked false).outputs.linkUp = false ∧ cycleReady (fading 399 false 2 0) = true ∧
    (fading 399 false 2 0).outputs.answered = true ∧ (fading 399 false 2 0).config.etol = 100 ∧ 399 < 500 - 100 ∧
    (cycled (fading 399 false 2 0)).outputs.ecmd ≠ 0 ∧ (cycled (fading 400 true 0 48)).outputs.ecmd ≠ 0 ∧
    (fading 400 true 0 48).outputs.goodRun + 1 < 50 ∧ 50 ≤ (fading 400 true 0 49).outputs.goodRun + 1 ∧
    (fading 400 false 1 0).outputs.fade = false ∧ (asked true).outputs.linkUp = false ∧
    (cycled (asked true)).outputs.ecmd ≠ 0 ∧ (cycled (braking .service 620 0 0)).outputs.ecmd = 0 := by decide +kernel

/-- At 6 s, the BC channel at 81 or 80 kPa of a code against a BCout of 20 kPa, with the latch and the runs. -/
def dragging (code : BitVec 12) (mode : Mode) (fault : Bool) (dev : Option Time) (settle : Time) : State :=
  { onLine .active 6000 with
    demand := { later.demand with mode := mode }
    acq := (bcAt .valid none 0 0 code).acq
    outputs := { later.outputs with bcOut := 20, frictionFault := fault, devStart := dev, settleTime := settle } }

/-- What the check reads: BC, BCout, the settle time's age and the deviation run's age. -/
def friction (s : State) (dev : Time) : Option Nat × Nat × Nat × Nat :=
  let t := run (.scanCompletion 0) s
  (t.acq.latestChans.bc.value, t.outputs.bcOut, since s.now t.outputs.settleTime, since s.now dev)

/-- A station alone whose demand leaves U = 1000 EU unserved by a converter and a friction brake that give nothing. -/
def unserved (limit : Nat) (start : Option Time) : State :=
  let s := alone 500 0 true
  { s with
    clock := 6000000, config := { s.config with uthr := limit }
    outputs := { s.outputs with unservedStart := start } }

/-- Codes 660 and 656 give 81 and 80 kPa; codes 464 and 468 give 20 and 21 kPa. -/
theorem witness_FrictionFaultAndUnservedRuns :
    (dragging 660 .service false none 5000).runPhase = .running ∧
    (dragging 660 .service false none 5000).acq.scanDue ≤ 6000000 + 0 ∧
    friction (dragging 660 .service false none 5000) 0 = (some 81, 20, 1000, 6000) ∧
    friction (dragging 656 .service false none 5000) 0 = (some 80, 20, 1000, 6000) ∧
    friction (dragging 660 .service false none 5001) 0 = (some 81, 20, 999, 6000) ∧
    friction (dragging 660 .service false (some 3001) 5000) 3001 = (some 81, 20, 1000, 2999) ∧
    friction (dragging 660 .service false (some 3000) 5000) 3000 = (some 81, 20, 1000, 3000) ∧
    (dragging 660 .service true none 5000).outputs.frictionFault = true ∧
    (friction (dragging 464 .released true none 5000) 0).1 = some 20 ∧
    (friction (dragging 468 .released true none 5000) 0).1 = some 21 ∧
    cycleReady (unserved 999 none) = true ∧ (cycled (unserved 999 none)).sharing.u = 1000 ∧
    (unserved 1000 none).config.uthr = 1000 ∧ since (unserved 999 none).now 5001 = 999 ∧
    since (unserved 999 none).now 5000 = 1000 ∧ (unserved 999 (some 5000)).outputs.unservedRaised = false := by
  decide +kernel

/-! The consist brake line and the peer table. -/

/-- A frame of 11 bytes whose check word is good or not, and which has no kind. -/
def kindless (good : Bool) : List Byte :=
  if good then withCrc16 (List.replicate 9 0) else List.replicate 11 0

theorem witness_ReceptionIsCheckedInOrder :
    later.runPhase = .running ∧ sending.line.tx ≠ .idle ∧ (onLine .off 1).line.state = .off ∧ later.line.tx = .idle ∧
    later.line.state ≠ .off ∧ (List.replicate 10 (0 : Byte)).length < 11 ∧ (kindless false).length = 11 ∧
    (kindless false).drop 9 ≠ be16 (crc16 ((kindless false).take 9)).toNat ∧
    (kindless true).drop 9 = be16 (crc16 ((kindless true).take 9)).toNat ∧
    frameOfCode (byteAt (kindless true) 0) = none := by decide +kernel

/-- A station of address 9 that hears its own address, once or twice. -/
def clashing (n : Nat) (state : LineState) : State :=
  { onLine state 6000 with address := 9, line := { (onLine state 6000).line with clashes := n } }

theorem witness_SecondClashTakesLineToClashed :
    (clashing 0 .active).runPhase = .running ∧ (clashing 0 .active).line.tx = .idle ∧
    (clashing 0 .active).line.state ≠ .off ∧ (heard (from9 3)).map Prod.snd = some (clashing 0 .active).address ∧
    (clashing 0 .active).line.clashes = 0 ∧ (clashing 2 .clashed).line.state = .clashed ∧
    1 ≤ (clashing 1 .active).line.clashes ∧ (clashing 1 .active).line.state ≠ .clashed := by decide +kernel

theorem witness_StatementsTimersDue :
    (onLine .listening 300).runPhase = .running ∧ 300000 ≤ (onLine .listening 300).clock + 0 ∧
    (onLine .listening 300).line.state = .listening ∧ (onLine .listening 300).line.listenDue = some 300000 ∧
    (onLine .listening 300).line.slot = none ∧ (onLine .isolated 9000).line.state = .isolated ∧
    ({ (onLine .isolated 9000).line with holdDue := some 9000000 }).holdDue = some 9000000 := by decide +kernel

/-- A station whose statement timer has expired, with the routine slot empty, full, or in transmission. -/
def slotted (slot : Option TxFrame) (tx : Transmitter) : State :=
  let s := held 5221
  { s with line := { s.line with statementDue := some 5221000, slot := slot, tx := tx } }

theorem witness_StatementsAreBuiltQueuedAndPlaced :
    (slotted none .idle).runPhase = .running ∧ (slotted none .idle).line.state = .active ∧
    (slotted none .idle).line.statementDue = some 5221000 ∧ 5221000 ≤ (slotted none .idle).clock + 0 ∧
    since (stating 5210 5200).now (reading 5200000) < 20 ∧ (slotted none .idle).line.due = true ∧
    since (slotted none .idle).now (reading 5200000) = 21 ∧ since (slotted none .idle).now 5201 = 20 ∧
    (slotted none .idle).line.slot = none ∧ (slotted (some statementFrame) .idle).line.slot = some statementFrame ∧
    Transmitter.idle.carries .routine = false ∧ (Transmitter.sending .routine 5).carries .routine = true := by
  decide +kernel

/-- In ACTIVE at 6 s, a statement queued there whose AL was `al`; the AL of now is 2400 EU. -/
def restating (al : Nat) (queuedMs : Nat) : State :=
  let s := onLine .active 6000
  { s with line := { s.line with
      queuedInActive := true, lastQueuedAt := some (queuedMs * 1000), lastSentEnd := some 5980
      lastQueued := some { s.buildStatement with al := al } } }

/-- 2400 − 2181 is 219, a tenth of 2181 and more; 2400 − 2182 is 218, less than a tenth of 2182. -/
theorem witness_EarlyTestMakesStatementDue :
    cycleReady (restating 2181 5980) = true ∧ (restating 2181 5980).line.state = .active ∧
    (restating 2181 5980).line.queuedInActive = true ∧ (restating 2181 5980).buildStatement.al = 2400 ∧
    2181 ≤ 10 * (2400 - 2181) ∧ ¬2182 ≤ 10 * (2400 - 2182) ∧
    since (restating 2181 5980).now (reading 5980000) = 20 ∧ since (restating 2181 5980).now 5980 = 20 ∧
    since (restating 2181 5981).now (reading 5981000) = 19 ∧
    (onLine .active 6000).line.queuedInActive = false ∧ (onLine .listening 6000).line.state ≠ .active := by decide +kernel

/-- A full urgent queue of these kinds, its head in transmission or not. -/
def crowded (kinds : List FrameKind) (tx : Transmitter) : State :=
  let s := onLine .active 6000
  { s with line := { s.line with tx := tx, queue := kinds.map fun k => { slideFrame with kind := k } } }

theorem witness_UrgentEntryJoinsReplacesOrIsLost :
    (onLine .isolated 6000).line.state ≠ .active ∧
    (crowded [.slideNotice, .slideNotice, .slideNotice] .idle).line.queue.length < 4 ∧
    4 ≤ (crowded [.slideNotice, .slideNotice, .incidentMark, .emergencyNotice] .idle).line.queue.length ∧
    (Transmitter.sending .urgent 5).carries .urgent = true ∧ Transmitter.idle.carries .urgent = false ∧
    ((crowded [.slideNotice, .slideNotice, .incidentMark, .emergencyNotice] (.sending .urgent 5)).line.queue.drop 1).head?.map
      TxFrame.kind = some .slideNotice ∧
    (crowded (List.replicate 4 .emergencyNotice) .idle).line.queue.all (fun f => f.kind == .emergencyNotice) = true ∧
    FrameKind.slideNotice ≠ .statement := by decide +kernel

/-- The line's last activity ended a gap of 192 µs before 6 s. -/
def urgent (wait : Option Nat) (queue : List TxFrame) : State :=
  let s := station5 0 .idle 0 none 0x3589
  { s with line := { s.line with
      lastActivityEnd := some 5999808, queue := queue.map fun f => { f with wait := wait } } }

theorem witness_AttemptTakesUrgentHeadFirst :
    (urgent none [slideFrame]).runPhase = .running ∧ (urgent none [slideFrame]).line.tx = .idle ∧
    (urgent none [slideFrame]).line.state = .active ∧ (urgent none [slideFrame]).line.lastActivityEnd = some 5999808 ∧
    5999808 + 192 ≤ (urgent none [slideFrame]).clock + 0 ∧
    (urgent (some 7000000) [slideFrame]).line.queue.map TxFrame.wait = [some 7000000] ∧
    (urgent none [slideFrame]).line.queue = [slideFrame] ∧ slideFrame.wait = none ∧ (urgent none []).line.queue = [] ∧
    (urgent none []).line.slot = some { statementFrame with seq := none } ∧ statementFrame.wait = none := by decide +kernel

/-- An attempt that meets a collision at bit time 63, with the trouble count and the line state of a clause. -/
def colliding (k trouble : Nat) (state : LineState) : State :=
  let s := station5 255 (.sending .routine 6000000) k (some 41) 0x3589
  { s with line := { s.line with trouble := trouble, state := state } }

theorem witness_CollisionsJamAndWait :
    (colliding 8 0 .active).runPhase = .running ∧ (colliding 8 0 .active).line.tx = .sending .routine 6000000 ∧
    (colliding 8 0 .active).clock + 0 < 6000000 + 256 ∧
    ((colliding 8 0 .active).line.head .routine).map TxFrame.k = some 8 ∧ 8 + 1 < 10 ∧
    ((colliding 9 0 .active).line.head .routine).map TxFrame.k = some 9 ∧ 10 ≤ 9 + 1 ∧
    (colliding 9 1 .active).line.trouble < 2 ∧ 2 ≤ (colliding 9 2 .active).line.trouble ∧
    (colliding 9 0 .isolated).line.state = .isolated := by decide +kernel

/-- A next statement waits behind the collided one; and the jam of an abandoned frame ends. -/
def superseding : State :=
  let s := station5 188 (.jamming (some .routine) 6000188) 1 (some 41) 1
  { s with line := { s.line with nextStatement := some statementFrame } }

theorem witness_CollisionsJamEnds :
    (station5 188 (.jamming (some .routine) 6000188) 1 none 1).runPhase = .running ∧
    (station5 188 (.jamming (some .routine) 6000188) 1 none 1).line.tx = .jamming (some .routine) 6000188 ∧
    6000188 ≤ (station5 188 (.jamming (some .routine) 6000188) 1 none 1).clock + 0 ∧
    (station5 188 (.jamming (some .routine) 6000188) 1 none 1).line.head .routine = some { statementFrame with k := 1 } ∧
    (station5 188 (.jamming (some .routine) 6000188) 1 none 1).line.nextStatement = none ∧
    superseding.line.nextStatement = some statementFrame ∧
    (station5 188 (.jamming none 6000188) 1 none 1).line.tx = .jamming none 6000188 ∧
    (waiting.line.head .routine).map TxFrame.wait = some (some 6000444) ∧ 6000444 ≤ waiting.clock + 256 := by
  decide +kernel

/-- The slide notice of section 4.4.1 in a line state with a trouble count. -/
def ending (state : LineState) (trouble : Nat) : State :=
  { sending with line := { sending.line with state := state, trouble := trouble } }

theorem witness_AttemptEndsSentOrLate :
    sending.runPhase = .running ∧ sending.line.tx = .sending .urgent 6000752 ∧
    sending.line.head .urgent = some slideFrame ∧ 6000752 + (slideFrame.payload.length + 8) * 32 ≤ sending.clock + 480 ∧
    sending.line.state ≠ .isolated ∧ (ending .isolated 3).line.state = .isolated ∧
    6000752 + 256 ≤ sending.clock + 256 ∧ (ending .active 1).line.trouble < 2 ∧ 2 ≤ (ending .active 2).line.trouble := by
  decide +kernel

theorem witness_LineAndPeerTableStaySound :
    (queued sending).UrgentSound ∧ (queued (knowing (live9 3 5000) 6000)).PeersSound ∧
    (∃ t, step (queued sending) = .next t) ∧ resetCommand (.collision 0) = false ∧
    (∃ t, exec (.collision 0) sending = .next t) ∧ (clashing 2 .clashed).line.state = .clashed := by
  refine ⟨?_, ?_, ⟨_, rfl⟩, rfl, ⟨_, rfl⟩, by decide +kernel⟩
  · unfold State.UrgentSound; decide +kernel
  · unfold State.PeersSound; decide +kernel

/-- A table with all 15 places taken by static entries. -/
def fullTable : List PeerEntry := (List.range' 10 15).map staticEntry

/-- An entry in JOINING heard once, `first` ms before 6 s. -/
def joining9 (first : Nat) : PeerEntry :=
  { live9 3 (BitVec.ofNat 32 (6000 - first)) with
    state := .joining, firstTime := some (BitVec.ofNat 32 (6000 - first)) }

/-- A LIVE entry that accepted a statement 19 ms before 6 s, with an excess window begun at a time. -/
def exceeding (start count : Nat) : PeerEntry :=
  { live9 3 5981 with excess := some { start := BitVec.ofNat 32 (5000 + start), count := count, last := 5981 } }

/-- A full table whose entries of stations 10 and 11 are dynamic and SILENT, heard 900 ms and 800 ms before 6 s. -/
def fading15 : List PeerEntry :=
  (List.range' 10 15).map fun a =>
    if a ≤ 11 then
      { staticEntry a with fixed := false, state := .silent, heard := some (BitVec.ofNat 32 (5100 + 100 * (a - 10))) }
    else staticEntry a

theorem witness_StatementEvictsOldestSilent :
    findPeer fading15 9 = none ∧ 15 ≤ fading15.length ∧
    ({ knowing (live9 3 5000) 6000 with peers := { entries := fading15, ageingDue := 0 } }).PeersSound ∧
    fading15.head?.map PeerEntry.state = some .silent ∧ fading15.head?.map PeerEntry.fixed = some false ∧
    fading15.head?.bind PeerEntry.heard = some 5100 ∧
    (fading15.tail.all fun e => e.fixed || e.state != .silent || (e.heard.any fun g => since 6000 g < since 6000 5100)) = true
    := by
  refine ⟨by decide +kernel, by decide +kernel, ?_, by decide +kernel⟩
  unfold State.PeersSound; decide +kernel

theorem witness_StatementArrivalUpdatesPeerTable :
    (onLine .active 6000).runPhase = .running ∧ (onLine .active 6000).line.tx = .idle ∧
    (onLine .active 6000).line.state ≠ .off ∧ heard (from9 3) = some (.statement, 9) ∧ (onLine .active 6000).address ≠ 9 ∧
    findPeer [] 9 = none ∧ ([] : List PeerEntry).length < 15 ∧ findPeer fullTable 9 = none ∧ 15 ≤ fullTable.length ∧
    fullTable.all PeerEntry.fixed = true ∧ findPeer [live9 3 5000] 9 = some (live9 3 5000) ∧
    (live9 3 5000).lastSeq = some 3 ∧ 128 ≤ (3#8 - 131#8).toNat ∧ (130#8 - 3#8).toNat < 128 ∧
    (joining9 500).firstTime = some 5500 ∧ since (onLine .active 6000).now 5500 ≤ 500 ∧
    500 < since (onLine .active 6000).now 5499 ∧ 20 ≤ since (onLine .active 6000).now 5980 ∧
    since (onLine .active 6000).now 5981 < 20 ∧ (staticEntry 9).state = .absent ∧
    (exceeding 501 15).excess.map Excess.count = some 15 ∧ since (onLine .active 6000).now 5501 < 500 ∧
    500 ≤ since (onLine .active 6000).now 5500 := by decide +kernel

/-- A table with one entry of a state, heard and entered `ago` ms before 6 s. -/
def aging (state : PeerState) (fixed : Bool) (ago : Nat) : State :=
  let time : Time := BitVec.ofNat 32 (6000 - ago)
  knowing { live9 3 time with state := state, fixed := fixed, entered := time } 6000

theorem witness_AgeingTimerAgesEntries :
    (aging .live false 499).runPhase = .running ∧ (aging .live false 499).peers.ageingDue ≤ 6000000 + 0 ∧
    (aging .live false 499).PeersSound ∧ since (aging .live false 499).now 5501 = 499 ∧
    since (aging .joining false 500).now 5500 = 500 ∧ since (aging .silent false 2999).now 3001 = 2999 ∧
    since (aging .silent false 3000).now 3000 = 3000 ∧
    (aging .silent true 3000).peers.entries.map PeerEntry.fixed = [true] ∧
    (aging .absent true 0).peers.entries.map PeerEntry.state = [.absent] := by
  refine ⟨by decide +kernel, by decide +kernel, ?_, by decide +kernel⟩
  unfold State.PeersSound; decide +kernel

/-- An UNRULY entry heard `ago` ms before 6 s, its last excess `calm` ms before. -/
def unruly (ago calm : Nat) : State :=
  knowing { live9 3 (BitVec.ofNat 32 (6000 - ago)) with
    state := .unruly, excess := some { start := 3000, count := 16, last := BitVec.ofNat 32 (6000 - calm) } } 6000

theorem witness_AgeingTimerCalmsEntries :
    (unruly 499 1999).peers.entries.map PeerEntry.state = [.unruly] ∧ since (unruly 499 1999).now 5501 = 499 ∧
    since (unruly 499 1999).now 4001 = 1999 ∧ since (unruly 500 2000).now 5500 = 500 ∧
    since (unruly 500 2000).now 4000 = 2000 ∧
    (run (.ageingTimerExpiry 0) (unruly 499 2000)).peers.entries.map PeerEntry.state = [.live] ∧
    (run (.ageingTimerExpiry 0) (unruly 500 2000)).peers.entries.map PeerEntry.state = [.silent] := by decide +kernel

/-! The Recorder. -/

/-- `resting` with a MANUAL line, `n` pending incidents and a gate of 3. -/
def triggering (enable : Bool) (importance : Importance) (n : Nat) : State :=
  { resting with
    config := { resting.config with
      triggers := List.replicate 13 { enable := enable, importance := importance, post := 3000 } }
    recorder := { resting.recorder with pendingQueue := List.replicate n pendingIncident } }

theorem witness_ManualTriggerIsTestedAndTaken :
    resting.runPhase = .running ∧ resting.service.inProgress = none ∧ later.recorder.state = .scanning ∧
    (triggering false .low 0).recorder.state ≠ .scanning ∧ ((triggering false .low 0).triggerLine .manual).enable = false ∧
    ((triggering true .low 3).triggerLine .manual).enable = true ∧
    ((triggering true .low 3).triggerLine .manual).importance = .low ∧
    (triggering true .low 3).config.gate ≤ (triggering true .low 3).recorder.pendingQueue.length ∧
    (triggering true .low 2).recorder.pendingQueue.length < (triggering true .low 2).config.gate ∧
    ((triggering true .high 4).triggerLine .manual).importance = .high ∧
    (triggering true .high 4).recorder.capture = none ∧ (triggering true .high 4).store.exhausted = false ∧
    (triggering true .high 4).powerFail = false ∧ ({ triggering true .high 4 with powerFail := true }).powerFail = true ∧
    4 ≤ (triggering true .high 4).recorder.pendingQueue.length ∧
    (triggering true .low 2).recorder.pendingQueue.length < 4 := by decide +kernel

/-- The state of the line, the numbers and the incident in capture that the further clauses ask for. -/
theorem witness_ManualTriggerEffects :
    ({ resting.store with exhausted := true }).exhausted = true ∧
    ({ resting.store with nextNumber := 4294967294 }).nextNumber < 4294967295 ∧
    ({ resting.store with nextNumber := 4294967295 }).nextNumber = 4294967295 ∧
    (onLine .active 6000).line.state = .active ∧ (onLine .active 6000).config.sendMarks = true ∧
    (List.replicate 3 slideFrame).length < 4 ∧ (onLine .listening 6000).line.state ≠ .active ∧
    (capturing.recorder.capture.map fun i => i.causes.length) = some 1 ∧ capturing.recorder.state ≠ .scanning ∧
    (capturing.triggerLine .manual).enable = true := by decide +kernel

/-- A state with incident 37 in capture, of `n` causes, whose Recorder takes every trigger. -/
def taking (s : State) (n : Nat) : State :=
  { s with
    config := { s.config with
      gate := 3, triggers := List.replicate 13 { enable := true, importance := .low, post := 3000 } }
    recorder := { capturing.recorder with
      pendingQueue := [pendingIncident, pendingIncident]
      capture := capturing.recorder.capture.map fun inc =>
        { inc with causes := (List.replicate 8 { cause := .manual, offset := 0, detail := [], origin := none }).take n } } }

/-- What `TakesTriggers` asks for: the Recorder's state, the number of causes, and one pending incident below the gate. -/
theorem taking_takes (s : State) (n : Nat) : ∃ inc, (taking s n).TakesTriggers inc := by
  refine ⟨_, rfl, rfl, ?_, show 2 < 3 by decide, fun c => by cases c <;> rfl⟩
  exact Nat.le_trans (List.length_take_le' _ _) (Nat.le_of_eq rfl)

/-- The number of causes after a command, and the holdoff's time. -/
def causesAfter (c : Instr) (s : State) : Option Nat × Option Time :=
  let t := run c s
  (t.recorder.capture.map fun i => i.causes.length, t.recorder.holdoff)

/-- `slipping` with a holdoff that began `ago` ms before. -/
def holding (ago : Nat) (n : Nat) : State :=
  let s := taking { slipping with clock := 20000000 } n
  { s with recorder := { s.recorder with holdoff := some (BitVec.ofNat 32 (20000 - ago)) } }

theorem witness_UnitsRaiseTheirTriggers :
    (taking (bcAt .held (some 195) 3 0 150) 7).runPhase = .running ∧
    (taking (bcAt .held (some 195) 3 0 150) 7).acq.scanDue ≤ (taking (bcAt .held (some 195) 3 0 150) 7).clock + 0 ∧
    (∃ inc, (taking (bcAt .held (some 195) 3 0 150) 7).TakesTriggers inc) ∧
    (causesAfter (.scanCompletion 0) (taking (bcAt .held (some 195) 3 0 150) 7)).1 = some 8 ∧
    (causesAfter (.scanCompletion 0) (taking (dragging 660 .service false (some 3000) 5000) 1)).1 = some 2 ∧
    (holding 9999 4).runPhase = .running ∧ (holding 9999 4).acq.windowDue ≤ (holding 9999 4).clock + 0 ∧
    since (holding 9999 4).now 10001 = 9999 ∧ since (holding 10000 4).now 10000 = 10000 ∧
    causesAfter (.speedWindowExpiry 0 false false false) (holding 9999 4) = (some 4, some 10001) ∧
    causesAfter (.speedWindowExpiry 0 false false false) (holding 10000 4) = (some 5, some 20000) ∧
    (causesAfter (.speedWindowExpiry 0 true false false) (holding 9999 8)).1 = some 8 ∧
    cycleReady (taking losing 0) = true ∧ (causesAfter (.controlCycle 0) (taking losing 0)).1 = some 1 := by
  refine ⟨by decide +kernel, by decide +kernel, taking_takes _ _, by decide +kernel⟩

/-- An incident mark of station 9, for its incident 37 and cause 2. -/
def mark9 : List Byte := withCrc16 (frameBody .incidentMark 9 3 0 [0, 0, 0, 37, 2])

/-- `resting` in ACTIVE with a PEER_MARK line and no incident in capture. -/
def marked : State :=
  let s := triggering true .low 2
  { s with line := { s.line with state := .active } }

theorem witness_LineRaisesItsTriggers :
    (taking (aging .live true 500) 7).runPhase = .running ∧
    (taking (aging .live true 500) 7).peers.ageingDue ≤ (taking (aging .live true 500) 7).clock + 0 ∧
    (∃ inc, (taking (aging .live true 500) 7).TakesTriggers inc) ∧
    (causesAfter (.ageingTimerExpiry 0) (taking (aging .live true 500) 7)).1 = some 8 ∧
    (causesAfter (.ageingTimerExpiry 0) (taking (aging .live true 499) 7)).1 = some 7 ∧
    (taking (colliding 9 2 .active) 0).line.tx = .sending .routine 6000000 ∧
    (taking (colliding 9 2 .active) 0).clock + 0 < 6000000 + 256 ∧
    6000000 + 256 ≤ (taking (colliding 9 2 .active) 0).clock + 1 ∧
    (causesAfter (.collision 0) (taking (colliding 9 2 .active) 0)).1 = some 1 ∧
    (causesAfter (.lateCollision 1) (taking (colliding 9 2 .active) 0)).1 = some 1 ∧
    (taking (clashing 1 .active) 6).line.tx = .idle ∧ heard (from9 3) = some (.statement, 9) ∧
    (causesAfter (.receiveCompletion 0 (from9 3) 0) (taking (clashing 1 .active) 6)).1 = some 7 ∧
    (causesAfter (.receiveCompletion 0 notice9 0) (taking { braking .service 620 0 0 with
      address := 9, line := { (onLine .active 100).line with clashes := 1 } } 6)).1 = some 8 ∧
    (causesAfter (.receiveCompletion 0 notice9 0) (taking (braking .service 620 0 0) 0)).1 = some 1 ∧
    heard mark9 = some (.incidentMark, 9) ∧
    (causesAfter (.receiveCompletion 0 mark9 0) (taking (braking .service 620 0 0) 7)).1 = some 8 ∧
    marked.runPhase = .running ∧ marked.line.tx = .idle ∧ marked.recorder.state = .idle ∧
    marked.recorder.capture = none ∧ (marked.triggerLine .peerMark).enable = true ∧
    marked.recorder.pendingQueue.length < marked.config.gate ∧
    ((triggering true .high 4).triggerLine .peerMark).importance = .high ∧ marked.store.exhausted = false ∧
    marked.powerFail = false ∧ (causesAfter (.receiveCompletion 0 mark9 0) marked).1 = some 1 := by
  refine ⟨by decide +kernel, by decide +kernel, taking_takes _ _, by decide +kernel⟩

/-- A Recorder of one channel. -/
def withChannel (ch : Channel) : Recorder := { resetRecorder defaultConfig with chans := [ch] }

/-- A Recorder of one mirror channel, whose mirror set may have station 9 and the station's own frames. -/
def mirroring (mask : BitVec 32) : Recorder := withChannel { channel0 with kind := .peerMirror, mirror := mask }

theorem witness_RecordsAreOfferedByKind :
    later.runPhase = .running ∧ later.powerFail = false ∧ later.acq.scanDue ≤ later.clock + 0 ∧
    later.acq.windowDue ≤ later.clock + 0 ∧ later.demand.cycleDue ≤ later.clock + 0 ∧ later.line.tx = .idle ∧
    later.line.state ≠ .off ∧ heard (from9 3) = some (.statement, 9) ∧ later.address ≠ 9 ∧
    (clashing 0 .active).address = 9 ∧ sending.line.tx = .sending .urgent 6000752 ∧
    sending.line.head .urgent = some slideFrame ∧ slideFrame.payload.length = payloadLength slideFrame.kind ∧
    6000752 + (slideFrame.payload.length + 8) * 32 ≤ sending.clock + 480 ∧
    ((mirroring 0x80000200).chans[0]?).map (fun ch => ch.mirror.getLsbD 9) = some true ∧
    ((mirroring 0x80000200).chans[0]?).map (fun ch => ch.mirror.getLsbD 31) = some true ∧
    ((mirroring 0x80000200).chans[0]?).map (fun ch => ch.mirror.getLsbD 10) = some false ∧
    ((resetRecorder defaultConfig).chans.map Channel.kind).take 5 =
      [.pressureTrace, .speedTrace, .blendTrace, .eventLog, .peerMirror] ∧
    (resetRecorder defaultConfig).chans.all (fun ch => ch.lost != 65534) = true := by decide +kernel

/-- A peak present, and the value offered: beyond it, equal to it, or below it. -/
theorem witness_PeaksKeepExtremeValues :
    later.runPhase = .running ∧ later.powerFail = false ∧ later.acq.scanDue ≤ later.clock + 0 ∧
    later.acq.windowDue ≤ later.clock + 0 ∧ later.demand.cycleDue ≤ later.clock + 0 ∧
    later.recorder.peaks.bp = none ∧ scannedBp (bpAt .valid 2400 []) = (.valid, some 625, 0) ∧
    (∃ k, (run (.scanCompletion 0) (bpAt .valid 2400 [])).recorder.peaks.bp = some k ∧ k.value = 625) ∧
    (run (.scanCompletion 0) (bpAt .held 150 [])).acq.latestChans.bp.value = none ∧
    (cycled losing).sharing.u = 0 ∧ (cycled losing).recorder.peaks.u = some ⟨0, losing.now⟩ := by
  refine ⟨by decide +kernel, by decide +kernel, by decide +kernel, by decide +kernel, by decide +kernel,
    by decide +kernel, by decide +kernel, ⟨_, rfl, by decide +kernel⟩, by decide +kernel⟩

/-- `capturing` with `n` incidents pending and `spare` spare blocks. -/
def closing (n spare : Nat) : State :=
  { capturing with
    recorder := { capturing.recorder with
      spare := List.range' 80 spare, pendingQueue := List.replicate n pendingIncident } }

/-- Five channels are RUNNING. -/
theorem witness_IncidentClosesByPendingQueueAndPool :
    capturing.runPhase = .running ∧ capturing.recorder.capture.map Incident.windowEnd = some 100 ∧
    100 * 1000 ≤ capturing.clock + 0 ∧ (capturing.store.chooseTarget 0).isSome = true ∧
    4 ≤ (closing 4 16).recorder.pendingQueue.length ∧ (closing 3 4).recorder.pendingQueue.length < 4 ∧
    (closing 3 4).recorder.spare.length < (closing 3 4).recorder.runningCount ∧
    (closing 3 5).recorder.runningCount ≤ (closing 3 5).recorder.spare.length ∧ later.recorder.capture = none := by
  decide +kernel

/-- The store's job held in IDLE under a warning. -/
def heldStore : State :=
  let s := storing (some (.eraseTarget 1)) 1 2 0
  { s with powerFail := true, store := { s.store with phase := .idle, inFlight := none } }

theorem witness_WarningCeasesResumesStore :
    heldStore.runPhase = .running ∧ (storing (some (.eraseTarget 1)) 1 2 0).store.phase ≠ .idle ∧
    heldStore.store.phase = .idle ∧ heldStore.store.job.isSome = true ∧ resting.store.phase = .idle ∧
    resting.store.job = none ∧ resting.recorder.pendingQueue = [] ∧ (storing none 0 0 0).recorder.pendingQueue ≠ [] ∧
    (storing none 0 0 0).store.scan = none ∧ (storing none 0 0 0).store.job = none ∧
    (storing none 0 0 0).store.chooseTarget ((storing none 0 0 0).store.lastWritten.getD 0) = some 63 := by decide +kernel

theorem witness_ClearChannelByFirstRowThatHolds :
    resting.runPhase = .running ∧ resting.service.inProgress = none ∧ 7 < (8#8).toNat ∧ (7#8).toNat ≤ 7 ∧
    (resting.recorder.chans[7]?).map Channel.state = some .off ∧
    (resting.recorder.chans[0]?).map Channel.state = some .running ∧ resting.slide.standstill = true ∧
    later.slide.standstill = false ∧ capturing.recorder.state = .capturing ∧ resting.recorder.state ≠ .capturing := by
  decide +kernel

/-- Channel 0 with a used count, and a record. -/
def filled (used : Nat) (empty : List Nat) : Channel := { channel0 with used := used, empty := empty }

/-- A delta record of 6 bytes fits at 490 and not at 491; a key record of 13 bytes at 483 and not at 484. -/
theorem witness_RecordEntersCurrentOrNewBlock :
    (withChannel (filled 490 [])).chans[0]? = some (filled 490 []) ∧
    Memory.wf 0 (withChannel (filled 490 [])).blocks = true ∧ (keyBytes (pressures 40040 541 120 848)).length = 13 ∧
    (otherBytes channel0 (pressures 40040 541 120 848)).length = 6 ∧
    channel0.needsKey (pressures 40040 541 120 848) = false ∧ channel0.needsKey (pressures 40276 618 0 850) = true ∧
    channel0.needsKey (pressures 40040 618 128 850) = true ∧ channel0.needsKey (pressures 40040 618 127 850) = false ∧
    (filled 490 []).used + 6 ≤ 496 ∧ 496 < (filled 491 []).used + 6 ∧ (filled 483 []).used + 13 ≤ 496 ∧
    496 < (filled 484 []).used + 13 ∧ 11 ∈ (filled 491 [11, 12]).empty ∧ (filled 491 [11, 12]).empty.Pairwise (· < ·) ∧
    (∀ x ∈ (filled 491 [11, 12]).empty, 11 ≤ x) ∧ (filled 491 []).empty = [] ∧
    (filled 491 []).ring ++ (filled 491 []).current.toList = 4 :: [9] ∧ channel0.enable = true ∧
    ({ channel0 with enable := false }).enable = false ∧ (Channel.emptied channel0).holding = [] ∧
    ({ channel0 with lost := 65534 }).lost < 65535 := by decide +kernel

theorem witness_SpareArbiterServesCyclically :
    (recorderOf 10 16 20 8 13 (List.range' 80 9) 2).chans.length = 8 ∧
    (recorderOf 10 16 20 8 13 (List.range' 80 9) 2).lastServed < 8 ∧
    (recorderOf 10 16 20 8 13 (List.range' 80 9) 7).lastServed = 7 := by decide +kernel

theorem witness_BlocksStayPartitionedAndBounded :
    (queued later).recorder.Partition ∧ (queued later).recorder.HoldingsBounded ∧ (queued later).recorder.Ascending ∧
    (queued later).MemoriesCanonical ∧ ∃ t, step (queued later) = .next t := by
  refine ⟨?_, ?_, ?_, ?_, ⟨_, rfl⟩⟩
  · unfold Recorder.Partition; decide +kernel
  · unfold Recorder.HoldingsBounded; decide +kernel
  · unfold Recorder.Ascending; decide +kernel
  · unfold State.MemoriesCanonical; decide +kernel

theorem witness_IncidentStateStaysSound :
    (queued capturing).RecorderSound ∧ (∃ t, step (queued capturing) = .next t) ∧
    (queued capturing).recorder.state ≠ .scanning ∧ resetCommand (.trigger 0 []) = false ∧
    ∃ t, exec (.trigger 0 []) (queued capturing) = .next t := by
  refine ⟨?_, ⟨_, rfl⟩, by decide +kernel, rfl, ⟨_, rfl⟩⟩
  unfold State.RecorderSound; decide +kernel

theorem witness_CountersSaturateAndClear :
    ({ queued later with counters := { zeroCounters with misses := 65535 } }).CountersSound ∧
    (∃ t, step { queued later with counters := { zeroCounters with misses := 65535 } } = .next t) ∧
    65535 ≤ ({ zeroCounters with misses := 65535 }).get .misses ∧
    ({ zeroCounters with misses := 65534 }).get .misses = 65534 ∧ zeroCounters.get .misses < 65534 ∧
    resting.runPhase = .running ∧ resting.service.inProgress = none := by
  refine ⟨⟨fun i => ?_, ?_⟩, ⟨_, rfl⟩, by decide +kernel⟩
  · cases i <;> decide +kernel
  · decide +kernel

/-! The Store Engine. -/

/-- A scan read in flight over a directory. -/
def scanning (slot : Nat) (lines : List DirLine) : State :=
  { later with store := { resetStore with
      requests := [], scan := some slot, inFlight := some (.scanRead slot), lines := lines } }

/-- The numbers of the directory when the scan has ended. -/
def numbersFound (first : DirLine) : List Nat :=
  (run (.scanReadCompletion 0 false) (scanning 63 (first :: List.replicate 62 .empty))).store.lines.filterMap
    DirLine.number

theorem witness_ScanReadBuildsDirectory :
    (scanning 62 []).runPhase = .running ∧ (scanning 62 []).store.inFlight = some (.scanRead 62) ∧ 62 < 63 ∧
    (scanning 63 []).store.inFlight = some (.scanRead 63) ∧ numbersFound .empty = [] ∧
    numbersFound (.valid 4294967295 false 1 10) = [4294967295] ∧
    numbersFound (.valid 4294967294 false 1 10) = [4294967294] := by decide +kernel

/-- Operations that wait, with or without one in flight. -/
def asking (ops : List FlashOp) (inFlight : Option FlashOp) (powerFail : Bool) : State :=
  { resting with powerFail := powerFail, store := { resting.store with requests := ops, inFlight := inFlight } }

theorem witness_FlashGrantServesFirstAsked :
    (asking [.eraseTarget 1] (some (.scanRead 2)) false).store.requests = .eraseTarget 1 :: [] ∧
    (asking [.eraseTarget 1] (some (.scanRead 2)) false).store.inFlight ≠ none ∧
    (asking [.eraseTarget 1] none false).store.inFlight = none ∧ (asking [.eraseTarget 1] none false).powerFail = false ∧
    (asking [.eraseTarget 1] none true).powerFail = true ∧
    (asking [.eraseTarget 1, .readIncident 1 0 24] none false).store.requests =
      .eraseTarget 1 :: [.readIncident 1 0 24] := by decide +kernel

/-- A body of 107 bytes: one byte left after the program, and none. -/
theorem witness_StoreWritesBodyThenHeader :
    (storing (some (.programBody 1 106 [0])) 1 2 106).runPhase = .running ∧
    (storing (some (.programBody 1 106 [0])) 1 2 106).store.job.map StoreJob.position = some 106 ∧
    (storing (some (.programBody 1 106 [0])) 1 2 106).recorder.pendingQueue = pendingIncident :: [] ∧
    (recordBody pendingIncident []).length = 107 ∧ 105 + 1 < 107 ∧ 107 ≤ 106 + 1 ∧
    (storing (some (.eraseTarget 1)) 1 2 0).store.inFlight = some (.eraseTarget 1) ∧
    (storing (some (.programHeader 1 [])) 1 2 107).store.inFlight = some (.programHeader 1 []) := by decide +kernel

theorem witness_FlashFailureMakesLineBad :
    (storing (some (.eraseTarget 63)) 63 1 0).runPhase = .running ∧
    (storing (some (.eraseTarget 63)) 63 1 0).store.job.map StoreJob.attempt = some 1 ∧
    (storing (some (.eraseTarget 63)) 63 1 0).recorder.pendingQueue = [pendingIncident] ∧
    (storing (some (.eraseTarget 63)) 63 1 0).powerFail = false ∧
    Store.chooseTarget { (storing (some (.eraseTarget 63)) 63 1 0).store with
      lines := (storing (some (.eraseTarget 63)) 63 1 0).store.lines.set 62 DirLine.bad } 63 = some 1 ∧
    (storing (some (.eraseTarget 1)) 1 2 0).store.job.map StoreJob.attempt = some 2 ∧
    Store.chooseTarget { (storing (some (.eraseTarget 63)) 63 1 0).store with lines := List.replicate 63 DirLine.bad } 63 =
      none ∧
    (storing (some (.programBody 63 0 [1])) 63 1 0).store.inFlight = some (.programBody 63 0 [1]) ∧
    (storing (some (.programHeader 63 [1])) 63 1 0).store.inFlight = some (.programHeader 63 [1]) ∧
    (storing (some (.eraseCleanup 63)) 63 1 0).store.inFlight = some (.eraseCleanup 63) := by decide +kernel

/-- The erase of slot 63 in flight for ERASE_INCIDENTS, with an incident pending or none. -/
def lastErase (waits : Bool) : State :=
  { resting with
    recorder := { resting.recorder with pendingQueue := if waits then [pendingIncident] else [] }
    store := { resting.store with phase := .erasingAll, inFlight := some (.eraseAll 63), eraseNext := some 63 } }

/-- The erase of slot 63 has failed and left every line BAD. -/
def lastFails : State :=
  { lastErase true with store := { (lastErase true).store with lines := List.replicate 63 .bad } }

theorem witness_EraseIncidentsEmptiesDirectory :
    resting.runPhase = .running ∧ resting.service.inProgress = none ∧ later.slide.standstill = false ∧
    resting.slide.standstill = true ∧ resting.demand.mode = .released ∧ (asking [] none true).powerFail = true ∧
    resting.store.scan = none ∧ resting.store.phase = .idle ∧ resting.store.job = none ∧
    resting.recorder.pendingQueue = [] ∧ resting.powerFail = false ∧
    (storing (some (.eraseAll 62)) 1 1 0).store.inFlight = some (.eraseAll 62) ∧ 62 < 63 ∧
    (lastErase false).store.inFlight = some (.eraseAll 63) ∧ (lastErase false).recorder.pendingQueue = [] ∧
    (lastErase true).recorder.pendingQueue ≠ [] ∧ (lastErase true).store.scan = none ∧
    (lastErase true).store.job = none ∧ (lastErase true).powerFail = false ∧
    (lastErase true).store.chooseTarget ((lastErase true).store.lastWritten.getD 0) = some 1 ∧
    lastFails.store.chooseTarget (lastFails.store.lastWritten.getD 0) = none ∧
    lastFails.recorder.pendingQueue = [pendingIncident] ∧
    (run (.eraseAllCompletion 0 (.failed [])) lastFails).recorder.pendingQueue = [] := by decide +kernel

/-! The Service Port and the encodings. -/

theorem witness_ReadCommandsAnswerWithValues :
    resting.runPhase = .running ∧ resting.service.inProgress = none ∧ 1 ≤ (1#8).toNat ∧ (30#8).toNat ≤ 30 ∧
    (63#8).toNat ≤ 63 ∧ findPeer (knowing (live9 3 5000) 6000).peers.entries (1#8).toNat = none ∧
    findPeer (knowing (live9 3 5000) 6000).peers.entries (9#8).toNat = some (live9 3 5000) := by decide +kernel

/-- A READ_INCIDENT payload: number, offset 423, length. -/
def reading423 (number length : Byte) : List Byte := [0, 0, 0, number, 0, 0, 1, 0xA7, length]

theorem witness_ReadCommandsOfIncidents :
    (storing none 0 0 0).runPhase = .running ∧ (storing none 0 0 0).service.inProgress = none ∧
    (reading423 23 240).length = 9 ∧ 1 ≤ byteAt (reading423 23 1) 8 ∧ byteAt (reading423 23 240) 8 ≤ 240 ∧
    ((List.range' 1 63).all fun k => ((storing none 0 0 0).store.lineOf k).number != some 24) = true ∧
    1 ∈ List.range' 1 63 ∧ (storing none 0 0 0).store.lineOf 1 = .valid 23 false 1 400 ∧
    ((List.range' 2 62).all fun k => ((storing none 0 0 0).store.lineOf k).number != some 23) = true ∧
    be32At (reading423 23 1) 4 < 24 + 400 ∧ 24 + 400 ≤ be32At [0, 0, 0, 23, 0, 0, 1, 0xA8, 1] 4 ∧
    (writing (.readIncident 1 400 2)).store.inFlight = some (.readIncident 1 400 2) := by decide +kernel

/-- `resting` with the first 240 bytes of an image assembled. -/
def assembling : State := { resting with service := { resting.service with assembly := some (image.take 240) } }

theorem witness_WriteConfigAssemblesAndProgramsImage :
    assembling.runPhase = .running ∧ assembling.service.inProgress = none ∧ ([0, 240, 1] : List Byte).length = 3 ∧
    byteAt [0, 240, 1] 2 ≤ 1 ∧ (image.drop 240).length = 16 ∧ later.slide.standstill = false ∧
    assembling.slide.standstill = true ∧ assembling.demand.mode = .released ∧ be16At [0, 240, 1] 0 = 240 ∧
    assembling.service.assembly.map List.length = some 240 ∧ 240 + 16 ≤ 256 ∧ be16At [0, 239, 1] 0 ≠ 240 ∧
    byteAt [0, 240, 0] 2 = 0 ∧ 256 ≤ image.length ∧ (writing .eraseConfig).store.inFlight = some .eraseConfig ∧
    (writing .eraseConfig).store.config.map (fun j => j.image.length) = some 2 ∧
    (writing (.programConfig 0 [1])).store.inFlight = some (.programConfig 0 [1]) ∧ 0 + 1 < 2 ∧ 2 ≤ 0 + 2 ∧
    (writing .eraseConfig).recorder.pendingQueue = [] ∧ (image.take 240).length < 256 := by decide +kernel

/-- The image passes the checks of R175, and one of version 2 fails them. -/
theorem witness_WriteConfigChecks :
    checkImage image = .loaded ∧ checkImage (be8 2 ++ image.drop 1) ≠ .loaded := by
  have hlen : imageFields.length = 254 := by decide +kernel
  have hcrc : imageCrcGood image = true := by
    unfold imageCrcGood image withCrc16
    rw [List.drop_left' hlen, List.take_left' hlen]
    exact beq_self_eq_true _
  constructor
  · unfold checkImage
    rw [if_neg (by rw [hcrc]; decide), if_neg (by decide +kernel), if_neg (by decide +kernel), if_neg (by decide +kernel)]
  · unfold checkImage
    rw [if_pos (show byteAt (be8 2 ++ image.drop 1) 0 ≠ 1 by decide +kernel)]
    split <;> decide

theorem witness_RequestsRefusedResponsesSentAndRestart :
    resting.runPhase = .running ∧ later.demand.mode ≠ .released ∧ resting.slide.standstill = true ∧
    resting.demand.mode = .released ∧ requestOf (.readPeer 0 [31]) = some (0, 3, [31]) ∧
    requestOf (.unknownCommand 0 13 []) = some (0, 13, []) ∧ (writing .eraseConfig).service.inProgress ≠ none ∧
    resting.service.inProgress = none ∧ badRequest 3 [31] = true ∧ badRequest 13 [] = true ∧ badRequest 3 [30] = false ∧
    resting.service.responses = [] ∧ (run (.readPeers 0 []) resting).service.responses =
      { command := 2, code := .ok, values := [] } :: [] ∧ resting.service.inProgress ≠ some .restart ∧
    (run (.restart 0 []) resting).service.inProgress = some .restart ∧
    (run (.restart 0 []) resting).service.responses = { command := 12, code := .ok, values := [] } :: [] := by
  decide +kernel

/-- The receiver with bytes assembled since a start byte at 60 ms, its 50 ms ending at 110 ms; the clock is at 100 ms. -/
def receiving (got : List Byte) : State :=
  { later with service := { later.service with receiver := .assembling got 60000 } }

theorem witness_ReceiverAssemblesAndDiscards :
    later.runPhase = .running ∧ later.service.receiver = .hunting ∧
    (receiving [1]).service.receiver = .assembling [1] 60000 ∧ later.clock + 10000 ≤ 60000 + 50000 ∧
    60000 + 50000 < later.clock + 10001 ∧ byteAt [1, 0, 0xAB, 0xCD] 1 + 4 = ([1, 0, 0xAB, 0xCD] : List Byte).length ∧
    crc16 [1, 0] = BitVec.ofNat 16 (be16At (be16 (crc16 [1, 0]).toNat) 0) ∧
    (requestBytes [1, 0] (crc16 [1, 0])).map LinkByte.value = [0x7E#8] ++ [1, 0] ++ be16 (crc16 [1, 0]).toNat ∧
    ([1, 0] : List Byte).length = byteAt [1, 0] 1 + 2 ∧
    ((requestBytes [1, 0] 0).tail.map LinkByte.wait).sum ≤ 50000 ∧
    ([1, 0, 5] : List Byte).length < byteAt [1, 0, 5] 1 + 4 ∧
    (([byteOf 100 0x7E] : List LinkByte).map LinkByte.wait).sum + 50000 ≤ 50100 ∧
    requestOf (.readPeers 500 []) = some (500, [2, 0].getD 0 0, ([2, 0] : List Byte).drop 2) ∧
    ((requestBytes [2, 0] (crc16 [2, 0])).map LinkByte.wait).sum = 500 ∧
    requestOf (.readPeers 100 []) = some (100, [2, 0, 5].getD 0 0, ([2, 0, 5] : List Byte).drop 2 |>.take 0) ∧
    60000 + 50000 ≤ (receiving [1]).clock + 10000 ∧ (receiving [1]).clock + 9999 < 60000 + 50000 := by decide +kernel

theorem witness_FramesAndRecordsReadBack : 1 ≤ 1 ∧ 30 ≤ 30 ∧ 7 ≤ 7 ∧
    (∀ n ∈ [65535, 0, 0, 0, 0, 0, 0, 0], n < 65536) ∧
    Memory.wf 0xFF [] = true ∧ 24 + (List.replicate 65512 (0 : Byte)).length ≤ 65536 ∧
    pendingIncident.incident.number < 4294967296 := by
  refine ⟨by decide, by decide, by decide, by decide, rfl, ?_, by decide⟩
  rw [List.length_replicate]

end Sys2Proof.Tests
end

section
/-! SUPPORT. Every command answers a next state and keeps the queue of commands, and while slot 0 is read at reset most
commands only let time pass (R1, R147, R174). -/

namespace Sys2Proof.Machine

/-- Every command answers a next state. -/
theorem exec_answers (c : Instr) (s : State) : ∃ t, exec c s = .next t := by
  cases c <;> exact ⟨_, rfl⟩

/-- The reset sequence keeps the queue of commands. -/
theorem State.beginReset_pending (s : State) (straps : Straps) (left : List Byte) :
    (s.beginReset straps left).pending = s.pending := by
  unfold State.beginReset
  dsimp only
  split <;> rfl

/-- Every command leaves the queue of commands as it was. -/
theorem exec_pending {c : Instr} {s t : State} (h : exec c s = .next t) : t.pending = s.pending := by
  rcases exec_cases c s t h with ⟨dt, hs⟩ | ⟨out, straps, left, rfl⟩ | ⟨ok, rfl⟩
  · exact hs.pending
  · exact State.beginReset_pending _ _ _
  · rfl

/-- During steps 1 to 3 of the reset sequence an event lets time pass and does no work. -/
theorem State.event_loading {s : State} {dt : Nat} {work : State → State} (hr : s.runPhase = .loading) :
    s.event dt work = s.advance dt := by
  unfold State.event
  dsimp only
  rw [if_neg (by simp [hr])]

/-- Time that passes in two stretches. -/
theorem State.advance_advance (s : State) (a b : Nat) : (s.advance a).advance b = s.advance (a + b) := by
  simp only [State.advance, Nat.add_assoc]

/-- Bytes heard in that phase let their time pass. -/
theorem State.hearBytes_loading (bs : List LinkByte) {s : State} (hr : s.runPhase = .loading) :
    s.hearBytes bs = s.advance (heardTime bs) := by
  induction bs generalizing s with
  | nil => rfl
  | cons b bs ih =>
    rw [State.hearBytes_cons, State.event_loading hr, ih (s := s.advance b.wait) hr, State.advance_advance,
      heardTime_cons]

/-- A command that does not act in that phase lets time pass and does nothing else (log entry 9). -/
theorem exec_loading {c : Instr} {s : State} (hr : s.runPhase = .loading) (hc : actsWhileLoading c = false) :
    ∃ dt, exec c s = .next (s.advance dt) := by
  cases c
  case reset | configImageReadCompletion | restartResponseSent | flashInterfaceGrant | powerFailWarningStanding |
      powerFailWarningCeases | handleInputEdge => cases hc
  case serviceFrameError dt bytes =>
    refine ⟨heardTime bytes + (dt - heardTime bytes), congrArg Host.Outcome.next ?_⟩
    rw [State.hearBytes_loading bytes hr, State.advance_advance]
  case requestTimeout span =>
    refine ⟨heardTime span.bytes + (span.dt - heardTime span.bytes), congrArg Host.Outcome.next ?_⟩
    rw [State.hearBytes_loading span.bytes hr, State.event_loading (s := s.advance _) hr, State.advance_advance]
  all_goals exact ⟨_, congrArg _ (State.event_loading hr)⟩

/-- Settles O2: every command answers (`exec_answers`), keeps the queue (`exec_pending`) and, outside the reset
sequence, does work that is steady (`exec_steady`); while slot 0 is read only time passes (`exec_loading`). -/
theorem commandsKeepQueueAndSetup : Obligations.CommandsKeepQueueAndSetup := by
  intro c s
  obtain ⟨t, ht⟩ := exec_answers c s
  refine ⟨t, ht, exec_pending ht, fun hc => ?_, fun hr hc => ?_⟩
  · obtain ⟨dt, hs⟩ := exec_steady c s t hc ht
    exact ⟨hs.config, hs.source, hs.address, hs.cfgdef, hs.runPhase⟩
  · obtain ⟨dt, hd⟩ := exec_loading hr hc
    cases ht.symm.trans hd
    rfl

end Sys2Proof.Machine
end

section
/-! SUPPORT. The Acquisition Unit: a conversion, a code's sample, the handle, and what a speed window's expiry
leaves. -/

namespace Sys2Proof.Machine

/-! ### Conversions and samples (R1, R2) -/

/-- A conversion of a channel left out of the scan changes nothing (R1). -/
theorem State.convert_absent {s : State} {i : PressId} (h : (s.acq.chans.get i).state = .absent) (r : Conversion) :
    s.convert i r = s := by
  unfold State.convert
  rw [if_pos h]

/-- A conversion of a scanned channel is delivered to its sample (R1). -/
theorem State.convert_scanned {s : State} {i : PressId} (h : (s.acq.chans.get i).state ≠ .absent) (r : Conversion) :
    s.convert i r = { s with acq := { s.acq with chans := s.acq.chans.set i { s.acq.chans.get i with
      sample := (s.acq.chans.get i).sample.deliver r } } } := by
  unfold State.convert
  rw [if_neg h]

/-- A conversion leaves the Recorder. -/
theorem State.convert_recorder (s : State) (i : PressId) (r : Conversion) :
    (s.convert i r).recorder = s.recorder := by
  unfold State.convert
  dsimp only
  split <;> rfl

/-- PRESSURE_CONVERSION_COMPLETION in the running part. -/
theorem exec_pressureConversionCompletion_running {s : State} (hr : s.runPhase = .running) (dt : Nat) (i : PressId)
    (r : Conversion) : exec (.pressureConversionCompletion dt i r) s = .next ((s.advance dt).convert i r) :=
  congrArg _ (State.event_same hr (congrArg Recorder.states (State.convert_recorder (s.advance dt) i r)))

/-- The table of R2. -/
theorem sampleOfCode_table (n : Nat) :
    (n ≤ 199 → sampleOfCode n = none) ∧ (200 ≤ n → n ≤ 399 → sampleOfCode n = some 0) ∧
    (400 ≤ n → n ≤ 3600 → sampleOfCode n = some ((n - 400) * 1000 / 3200)) ∧
    (3601 ≤ n → n ≤ 3800 → sampleOfCode n = some 1000) ∧ (3801 ≤ n → sampleOfCode n = none) := by
  unfold sampleOfCode
  refine ⟨fun h => ?_, fun h h' => ?_, fun h h' => ?_, fun h h' => ?_, fun h => ?_⟩
  · rw [if_pos (by omega)]
  · rw [if_neg (by omega), if_pos (by omega)]
  · rw [if_neg (by omega), if_neg (by omega), if_pos h']
  · rw [if_neg (by omega), if_neg (by omega), if_neg (by omega), if_pos h']
  · rw [if_neg (by omega), if_neg (by omega), if_neg (by omega), if_neg (by omega)]

/-- Settles O6: the two cases of a conversion, and the table of R2. -/
theorem conversionStandsAndGivesSample : Obligations.ConversionStandsAndGivesSample := by
  refine ⟨fun dt i r s hr => ⟨fun ha => ?_, fun ha hn => ?_⟩, fun c => sampleOfCode_table c.toNat, rfl, rfl⟩
  · rw [exec_pressureConversionCompletion_running hr, State.convert_absent (s := s.advance dt) ha]
  · rw [exec_pressureConversionCompletion_running hr, State.convert_scanned (s := s.advance dt) ha, State.advance_acq,
      hn]
    cases r <;> rfl

/-! ### The handle (R16, R17) -/

/-- The high time up to a time, as a sum. -/
theorem Handle.total_eq (h : Handle) (level : Bool) (clock : Nat) :
    h.total level clock = h.highTime + (if level then clock - h.highSince else 0) := by
  cases level <;> rfl

/-- The table of R17, a duty above 1000 ‰ in its last line (log entry 38). -/
theorem handleOf_table (duty : Nat) :
    (duty ≤ 49 → handleOf duty = (0, true)) ∧ (50 ≤ duty → duty ≤ 99 → handleOf duty = (0, false)) ∧
    (100 ≤ duty → duty ≤ 900 → handleOf duty = ((duty - 100) * 1000 / 800, false)) ∧
    (901 ≤ duty → duty ≤ 950 → handleOf duty = (1000, false)) ∧ (951 ≤ duty → handleOf duty = (0, true)) := by
  unfold handleOf
  refine ⟨fun h => ?_, fun h h' => ?_, fun h h' => ?_, fun h h' => ?_, fun h => ?_⟩
  · rw [if_pos (by omega)]
  · rw [if_neg (by omega), if_pos (by omega)]
  · rw [if_neg (by omega), if_neg (by omega), if_pos h']
  · rw [if_neg (by omega), if_neg (by omega), if_neg (by omega), if_pos h']
  · rw [if_neg (by omega), if_neg (by omega), if_neg (by omega), if_neg (by omega)]

/-! ### The speed window (R10 to R17) -/

/-- A change of the slide unit and of the demand section beside deliveries. -/
theorem State.Delivers.with_slide_demand {s t : State} (h : State.Delivers s t) (u : Slide) (d : Demand) :
    State.Delivers { s with slide := u, demand := d } { t with slide := u, demand := d } := by
  refine ⟨?_, h.moves, h.urgent, h.counts, h.grows, h.scans, h.numbers, h.sound⟩
  conv => lhs; rw [h.frame]

/-- A change of standstill at the demand section sets the exit timer alone (R30). -/
theorem State.standstillChanged_frame (s : State) : s.standstillChanged =
    { s with demand := { s.demand with exitTimer := s.standstillChanged.demand.exitTimer } } := by
  unfold State.standstillChanged
  split
  · split <;> rfl
  · rfl

/-- A speed window's expiry does the unit's work and the slide unit's stages, sets at most the exit timer, and delivers
messages. -/
theorem State.windowExpires_spec (s : State) (faults : Tri Bool) : ∃ u timer, State.Delivers
    { s with
      acq := s.acq.window faults s.handleLevel s.clock s.now s.stamp
      slide := u
      demand := { s.demand with exitTimer := timer } } (s.windowExpires faults) := by
  have h := State.speedArrival_spec { s with acq := s.acq.window faults s.handleLevel s.clock s.now s.stamp }
  unfold State.windowExpires
  dsimp only
  split
  · exact ⟨_, s.demand.exitTimer, h⟩
  · generalize State.speedArrival _ = t at h ⊢
    have h' := h.with_slide_demand t.slide { t.demand with exitTimer := t.standstillChanged.demand.exitTimer }
    rw [h.demand] at h'
    rw [t.standstillChanged_frame, h.demand]
    exact ⟨_, _, h'⟩

/-- SPEED_WINDOW_EXPIRY of the running part at its time: what it leaves, and that channel-state records follow. -/
theorem exec_speedWindowExpiry_running {s : State} {dt : Nat} (hr : s.runPhase = .running)
    (hd : s.acq.windowDue ≤ s.clock + dt) (f₁ f₂ f₃ : Bool) :
    exec (.speedWindowExpiry dt f₁ f₂ f₃) s =
      .next (State.recordChannels (s.advance dt) ((s.advance dt).windowExpires ⟨f₁, f₂, f₃⟩)) :=
  congrArg _ (State.eventIf_running hr (decide_eq_true hd))

/-- The frame of SPEED_WINDOW_EXPIRY at its time. -/
theorem exec_speedWindowExpiry_spec {s : State} {dt : Nat} (hr : s.runPhase = .running)
    (hd : s.acq.windowDue ≤ s.clock + dt) (f₁ f₂ f₃ : Bool) :
    ∃ t u timer, exec (.speedWindowExpiry dt f₁ f₂ f₃) s = .next t ∧ State.Delivers
      { s.advance dt with
        acq := s.acq.window ⟨f₁, f₂, f₃⟩ s.handleLevel (s.clock + dt) (s.advance dt).now (s.advance dt).stamp
        slide := u
        demand := { s.demand with exitTimer := timer } } t := by
  obtain ⟨u, timer, h⟩ := State.windowExpires_spec (s.advance dt) ⟨f₁, f₂, f₃⟩
  exact ⟨_, u, timer, exec_speedWindowExpiry_running hr hd f₁ f₂ f₃, h.trans (State.recordChannels_delivers _ _)⟩

/-- Settles O9: an edge totals the high time, and the window's expiry reads it by the table of R17. -/
theorem handleInputGivesDemand : Obligations.HandleInputGivesDemand := by
  refine ⟨fun dt high s => ?_, fun dt f₁ f₂ f₃ s hr hd => ?_⟩
  · rw [← Handle.total_eq]
    rfl
  · obtain ⟨t, u, timer, ht, h⟩ := exec_speedWindowExpiry_spec hr hd f₁ f₂ f₃
    have hh : t.acq.handle = s.acq.handle.expiry s.handleLevel (s.clock + dt) := by rw [h.acq]; rfl
    dsimp only
    rw [← Handle.total_eq]
    generalize hduty : s.acq.handle.total s.handleLevel (s.clock + dt) / 20 = duty
    have hexp : t.acq.handle = { highTime := 0, highSince := s.clock + dt, duty := duty, h := (handleOf duty).1,
                                 fault := (handleOf duty).2 } := by rw [hh, ← hduty]; rfl
    obtain ⟨h₁, h₂, h₃, h₄, h₅⟩ := handleOf_table duty
    refine ⟨t, ht, ?_⟩
    rw [hexp]
    refine ⟨rfl, rfl, rfl, fun a => ?_, fun a b => ?_, fun a b => ?_, fun a b => ?_, fun a => ?_⟩
    · rw [h₁ a]; exact ⟨rfl, rfl⟩
    · rw [h₂ a b]; exact ⟨rfl, rfl⟩
    · rw [h₃ a b]; exact ⟨rfl, rfl⟩
    · rw [h₄ a b]; exact ⟨rfl, rfl⟩
    · rw [h₅ a]; exact ⟨rfl, rfl⟩

end Sys2Proof.Machine
end

section
/-! SUPPORT. What a scan completion and a speed window's expiry leave unchanged: beside the units named, messages
alone. -/

namespace Sys2Proof.Machine

/-- Deliveries change what messages change and nothing else. -/
theorem State.Delivers.sameButMessages {s t : State} (h : State.Delivers s t) : t.SameButMessages s := by
  unfold State.SameButMessages
  rw [h.frame]

/-- Deliveries change the urgent queue and nothing else of the line. -/
theorem State.Delivers.sameButQueue {s t : State} (h : State.Delivers s t) : t.line.SameButQueue s.line := by
  unfold Line.SameButQueue
  rw [h.line]

/-- Beside deliveries only the Blending Unit's three sections change. -/
def State.Brakes (s t : State) : Prop :=
  State.Delivers { s with demand := t.demand, sharing := t.sharing, outputs := t.outputs } t

theorem State.Delivers.brakes {s t : State} (h : State.Delivers s t) : State.Brakes s t := by
  unfold State.Brakes
  rw [h.demand, h.sharing, h.outputs]
  exact h

theorem State.Brakes.of_sections (s : State) (d : Demand) (r : Sharing) (o : Outputs) :
    State.Brakes s { s with demand := d, sharing := r, outputs := o } := .refl _

theorem State.Brakes.refl (s : State) : State.Brakes s s := State.Brakes.of_sections s _ _ _

/-- A change of the three sections beside deliveries. -/
theorem State.Delivers.with_sections {s t : State} (h : State.Delivers s t) (d : Demand) (r : Sharing) (o : Outputs) :
    State.Delivers { s with demand := d, sharing := r, outputs := o }
      { t with demand := d, sharing := r, outputs := o } := by
  refine ⟨?_, h.moves, h.urgent, h.counts, h.grows, h.scans, h.numbers, h.sound⟩
  conv => lhs; rw [h.frame]

theorem State.Brakes.trans {s t u : State} (h : State.Brakes s t) (h' : State.Brakes t u) : State.Brakes s u :=
  (State.Delivers.with_sections h u.demand u.sharing u.outputs).trans h'

theorem State.Brakes.delivers {s t : State} (h : State.Brakes s t) :
    State.Delivers { s with demand := t.demand, sharing := t.sharing, outputs := t.outputs } t := h

theorem State.Brakes.acq {s t : State} (h : State.Brakes s t) : t.acq = s.acq := h.delivers.acq

/-! ### The demand section and the output section at a pressure set arrival -/

theorem State.changeMode_brakes (s : State) (new : Mode) (cause : EventCause) (more : List Byte) :
    State.Brakes s (s.changeMode new cause more) :=
  .trans (.of_sections s _ _ _) (State.changeMode_delivers s new cause more).brakes

theorem State.driveEmergency_brakes (s : State) : State.Brakes s s.driveEmergency := .of_sections s _ _ _

theorem State.restartExit_brakes (s : State) : State.Brakes s s.restartExit := .of_sections s _ _ _

theorem State.enterEmergency_brakes (s : State) (cause : EventCause) (more : List Byte) :
    State.Brakes s (s.enterEmergency cause more) :=
  (((State.changeMode_brakes s .emergency cause more).trans (State.driveEmergency_brakes _)).trans
    (.of_sections _ _ _ _)).trans (State.restartExit_brakes _)

theorem State.beginNotices_brakes (s : State) (cause : Detection) (bp : Nat) :
    State.Brakes s (s.beginNotices cause bp) := by
  unfold State.beginNotices
  exact .trans (.of_sections s _ _ _) (State.handUrgent_delivers _ _ _).brakes

theorem State.detect_brakes (s : State) (cause : Detection) (bp : Nat) (fall : Int) :
    State.Brakes s (s.detect cause bp fall) := by
  unfold State.detect
  split
  · exact State.restartExit_brakes s
  · exact ((State.enterEmergency_brakes s _ _).trans (State.deliver_delivers _ _).brakes).trans
      (State.beginNotices_brakes _ _ _)

theorem State.leaveEmergency_brakes (s : State) : State.Brakes s s.leaveEmergency := by
  unfold State.leaveEmergency
  exact .trans (State.changeMode_brakes s _ .exit []) (.of_sections _ _ _ _)

theorem State.exitCheck_brakes (s : State) : State.Brakes s s.exitCheck := by
  unfold State.exitCheck
  split
  · exact State.leaveEmergency_brakes s
  · exact .of_sections s _ _ _

theorem State.demandArrival_brakes (s : State) : State.Brakes s s.demandArrival := by
  unfold State.demandArrival
  split
  · exact State.detect_brakes s _ _ _
  · split
    · exact State.exitCheck_brakes s
    · exact .refl s

theorem State.frictionCheck_brakes (s : State) : State.Brakes s s.frictionCheck := by
  unfold State.frictionCheck
  dsimp only
  split
  · exact .of_sections s _ _ _
  · split
    · exact .trans (.of_sections s _ _ _) (State.deliver_delivers _ _).brakes
    · exact .of_sections s _ _ _

/-- In EMERGENCY a pressure set drives the emergency setpoint before the friction check (R123). -/
def State.emergencyDriven (s : State) : State := if s.demand.mode = .emergency then s.driveEmergency else s

theorem State.emergencyDriven_brakes (s : State) : State.Brakes s s.emergencyDriven := by
  unfold State.emergencyDriven
  split
  · exact State.driveEmergency_brakes s
  · exact .refl s

/-- The latch stands or clears, and while it is clear the friction check runs (R125, R126). -/
theorem State.outputArrival_eq (s : State) : s.outputArrival =
    if s.emergencyDriven.outputs.frictionFault then
      if frictionClears s.emergencyDriven.demand.mode s.emergencyDriven.acq.latestChans.bc.value then
        { s.emergencyDriven with outputs := { s.emergencyDriven.outputs with frictionFault := false } }
      else s.emergencyDriven
    else s.emergencyDriven.frictionCheck := rfl

theorem State.outputArrival_brakes (s : State) : State.Brakes s s.outputArrival := by
  refine (State.emergencyDriven_brakes s).trans ?_
  rw [State.outputArrival_eq]
  generalize s.emergencyDriven = x
  split
  · split
    · exact .of_sections _ _ _ _
    · exact .refl _
  · exact State.frictionCheck_brakes _

/-- A scan completion does the unit's work, changes the Blending Unit's sections and delivers messages. -/
theorem State.scanCompletes_brakes (s : State) :
    State.Brakes { s with acq := (s.acq.scan s.config.pscan s.now).1 } s.scanCompletes :=
  (((State.deliverAll_delivers _ _).brakes.trans (State.demandArrival_brakes _)).trans
    (State.outputArrival_brakes _)).trans (State.recordPressures_delivers _).brakes

/-- SCAN_COMPLETION of the running part at its time: the work, and the channel-state records that follow. -/
theorem exec_scanCompletion_running {s : State} {dt : Nat} (hr : s.runPhase = .running)
    (hd : s.acq.scanDue ≤ s.clock + dt) : exec (.scanCompletion dt) s =
      .next (State.recordChannels (s.advance dt) (s.advance dt).scanCompletes) :=
  congrArg _ (State.eventIf_running hr (decide_eq_true hd))

/-- The frame of SCAN_COMPLETION at its time. -/
theorem exec_scanCompletion_spec {s : State} {dt : Nat} (hr : s.runPhase = .running)
    (hd : s.acq.scanDue ≤ s.clock + dt) : ∃ t, exec (.scanCompletion dt) s = .next t ∧
      State.Brakes { s.advance dt with acq := (s.acq.scan s.config.pscan (s.advance dt).now).1 } t :=
  ⟨_, exec_scanCompletion_running hr hd,
    (State.scanCompletes_brakes (s.advance dt)).trans (State.recordChannels_delivers _ _).brakes⟩

end Sys2Proof.Machine
end

section
/-! SUPPORT. A scan completion in the Acquisition Unit: the rows of R3, the history of R5 and the set of R6. -/

namespace Sys2Proof.Machine

theorem Quad.get_map {α β : Type} (f : α → β) (q : Quad α) (i : PressId) : (q.map f).get i = f (q.get i) := by
  cases i <;> rfl

/-! ### The rows of R3 -/

section
variable {ch : PressChan} {v : Nat}

theorem PressChan.step_absent (h : ch.state = .absent) : ch.step = { ch with sample := .none } := by
  simp only [PressChan.step, h]

theorem PressChan.step_valid_some (h : ch.state = .valid) (hv : ch.sample.value = some v) :
    ch.step = { ch with sample := .none, last := some v, invalidRun := 0 } := by
  simp only [PressChan.step, h, hv]

theorem PressChan.step_valid_none (h : ch.state = .valid) (hv : ch.sample.value = none) :
    ch.step = { ch with sample := .none, state := .held, invalidRun := 1 } := by
  simp only [PressChan.step, h, hv]

theorem PressChan.step_held_some (h : ch.state = .held) (hv : ch.sample.value = some v) :
    ch.step = { ch with sample := .none, state := .valid, last := some v, invalidRun := 0 } := by
  simp only [PressChan.step, h, hv]

theorem PressChan.step_held_none (h : ch.state = .held) (hv : ch.sample.value = none) : ch.step =
    if ch.invalidRun < 3 then { ch with sample := .none, invalidRun := ch.invalidRun + 1 }
    else { ch with sample := .none, state := .failed, invalidRun := 0, validRun := 0 } := by
  simp only [PressChan.step, h, hv]

theorem PressChan.step_failed_some (h : ch.state = .failed) (hv : ch.sample.value = some v) : ch.step =
    if ch.validRun < 4 then { ch with sample := .none, validRun := ch.validRun + 1 }
    else { ch with sample := .none, state := .valid, last := some v, validRun := 0, invalidRun := 0 } := by
  simp only [PressChan.step, h, hv]

theorem PressChan.step_failed_none (h : ch.state = .failed) (hv : ch.sample.value = none) :
    ch.step = { ch with sample := .none, validRun := 0 } := by
  simp only [PressChan.step, h, hv]

end

/-! ### The history (R5) -/

section
variable {ch : PressChan} (h : List Nat) (pscan : Nat)

/-- A failed brake pipe channel empties the history. -/
theorem historyAfter_failed (hs : ch.state = .failed) : historyAfter h ch.item pscan = [] := by
  simp only [historyAfter, PressChan.item, hs]

/-- A brake pipe channel without a last value leaves the history. -/
theorem historyAfter_none (hs : ch.state = .valid ∨ ch.state = .held) (hl : ch.last = none) :
    historyAfter h ch.item pscan = h := by
  rcases hs with hs | hs <;> simp only [historyAfter, PressChan.item, hs, hl]

/-- A value joins the history, which keeps its capacity by losing its oldest value. -/
theorem historyAfter_some {v : Nat} (hs : ch.state = .valid ∨ ch.state = .held) (hl : ch.last = some v)
    (hc : h.length ≤ historyCapacity pscan) :
    historyAfter h ch.item pscan = (h ++ [v]).drop (h.length + 1 - historyCapacity pscan) := by
  have hv : historyAfter h ch.item pscan =
      if historyCapacity pscan < (h ++ [v]).length then (h ++ [v]).tail else h ++ [v] := by
    rcases hs with hs | hs <;> simp only [historyAfter, PressChan.item, hs, hl]
  rw [hv, List.length_append, List.length_singleton]
  split
  · rw [show h.length + 1 - historyCapacity pscan = 1 by omega, List.drop_one]
  · rw [show h.length + 1 - historyCapacity pscan = 0 by omega, List.drop_zero]

end

/-- A history of fewer than two values has no fall. -/
theorem historyFall_short : ∀ {l : List Nat}, l.length < 2 → historyFall l = 0
  | [], _ => rfl
  | [_], _ => rfl
  | _ :: _ :: _, h => by simp at h

/-- The fall of a longer history is its oldest value less its newest. -/
theorem historyFall_ends {x y : Nat} : ∀ {l : List Nat}, 2 ≤ l.length → l.head? = some x → l.getLast? = some y →
    historyFall l = (x : Int) - y
  | [], h, _, _ => by simp at h
  | [_], h, _, _ => by simp at h
  | a :: b :: rest, _, hx, hy => by
    rw [List.getLast?_cons_cons, List.getLast?_eq_getLast_of_ne_nil (List.cons_ne_nil b rest)] at hy
    simp only [List.head?_cons, Option.some.injEq] at hx hy
    simp only [historyFall, hx, hy]

/-! ### The unit after a scan completion -/

/-- The channels step, the history takes BP's item, the fall is the history's, and the set becomes the latest one. -/
theorem Acquisition.scan_eq (u : Acquisition) (pscan : Nat) (now : Time) : (u.scan pscan now).1 =
    { u with
      chans := u.chans.map PressChan.step
      history := historyAfter u.history u.chans.bp.step.item pscan
      fall := historyFall (historyAfter u.history u.chans.bp.step.item pscan)
      scanDue := u.scanDue + pscan * 1000
      latest := some { chans := (u.chans.map PressChan.step).map PressChan.item
                       fall := historyFall (historyAfter u.history u.chans.bp.step.item pscan), time := now } } := rfl

/-- Settles O7: the rows of R3 for each channel, the history and its fall by R5, and the frame of a scan completion. -/
theorem scanStepsChannelsAndHistory : Obligations.ScanStepsChannelsAndHistory := by
  intro dt i s hr hd
  obtain ⟨t, ht, h⟩ := exec_scanCompletion_spec hr hd
  have hacq := h.acq.trans (Acquisition.scan_eq s.acq s.config.pscan (s.advance dt).now)
  have hch : t.acq.chans.get i = (s.acq.chans.get i).step := by rw [hacq]; exact Quad.get_map _ _ _
  have hbp : t.acq.chans.bp = s.acq.chans.bp.step := by rw [hacq]; rfl
  have hhist : t.acq.history = historyAfter s.acq.history t.acq.chans.bp.item s.config.pscan := by
    rw [hbp, hacq]
  have hfall : t.acq.fall = historyFall t.acq.history := by rw [hacq]
  refine ⟨t, ht, ?_, ?_, ?_, ?_, ?_, ?_, ?_, ?_, ?_, ?_, ?_, ?_, ?_, ?_, ?_, ?_, ?_⟩
  · exact fun hs => hch.trans (PressChan.step_absent hs)
  · exact fun v hs hv => hch.trans (PressChan.step_valid_some hs hv)
  · exact fun hs hv => hch.trans (PressChan.step_valid_none hs hv)
  · exact fun v hs hv => hch.trans (PressChan.step_held_some hs hv)
  · exact fun hs hv hn => hch.trans ((PressChan.step_held_none hs hv).trans (if_pos hn))
  · exact fun hs hv hn => hch.trans ((PressChan.step_held_none hs hv).trans (if_neg (not_lt.mpr hn)))
  · exact fun v hs hv hn => hch.trans ((PressChan.step_failed_some hs hv).trans (if_pos hn))
  · exact fun v hs hv hn => hch.trans ((PressChan.step_failed_some hs hv).trans (if_neg (not_lt.mpr hn)))
  · exact fun hs hv => hch.trans (PressChan.step_failed_none hs hv)
  · exact fun hs => hhist.trans (historyAfter_failed _ _ hs)
  · exact fun v hs hl hc => hhist.trans (historyAfter_some _ _ hs hl hc)
  · exact fun hs hl => hhist.trans (historyAfter_none _ _ hs hl)
  · exact fun hn => hfall.trans (historyFall_short hn)
  · exact fun x y hn hx hy => hfall.trans (historyFall_ends hn hx hy)
  · rw [hacq]
  · have hm := h.delivers.sameButMessages
    rw [← h.acq] at hm
    exact hm
  · exact h.delivers.sameButQueue

end Sys2Proof.Machine
end

section
/-! SUPPORT. Tooth pulses and the speeds of the axles at a speed window's expiry (R9 to R14, R18). -/

namespace Sys2Proof.Machine

/-! ### Speeds (R11, R12) -/

/-- No pulse in the last second reads 0. -/
theorem decayedSpeed_old {pitch tau : Nat} (prevValid : Bool) (prevV : Nat) (h : 1000000 < tau) :
    decayedSpeed pitch (some tau) prevValid prevV = 0 := if_pos h

/-- A pulse in the last second bounds the speed, beside the previous speed where that was valid. -/
theorem decayedSpeed_recent {pitch tau : Nat} (prevValid : Bool) (prevV : Nat) (h : tau ≤ 1000000) :
    decayedSpeed pitch (some tau) prevValid prevV =
      min (if prevValid then prevV else 65535) (if tau = 0 then 65535 else pitch * 1000 / tau) := by
  unfold decayedSpeed
  dsimp only
  rw [if_neg (not_lt.mpr h)]
  cases prevValid <;> rfl

section
variable {a : AxleSpeed} (pitch : Nat) (firstSet : Bool) (t : Stamp)

/-- With two pulses or more in the window the speed is measured (R11). -/
theorem AxleSpeed.expiry_v_measured {f l : Stamp} (hn : 2 ≤ a.n) (hf : a.first = some f) (hl : a.last = some l) :
    (a.expiry pitch firstSet false t).v = measuredSpeed a.n pitch (stampsApart l f) := by
  simp only [AxleSpeed.expiry, hf, hl, hn, if_true, Bool.false_eq_true, if_false]

/-- With fewer it is estimated (R12, R18). -/
theorem AxleSpeed.expiry_v_estimated (hn : a.n < 2) :
    (a.expiry pitch firstSet false t).v = a.estimated pitch firstSet t := by
  have hn : ¬2 ≤ a.n := by omega
  unfold AxleSpeed.expiry
  simp only [hn, Bool.false_eq_true, if_false]
  split <;> rfl

/-- The speed that a faulted axle reads (R13). -/
theorem AxleSpeed.expiry_v_faulted : (a.expiry pitch firstSet true t).v = 0 := rfl

/-- The deceleration of an axle that is not faulted (R14). -/
theorem AxleSpeed.expiry_dv : (a.expiry pitch firstSet false t).dv =
    if a.prevValid then (a.prevV : Int) - (a.expiry pitch firstSet false t).v else 0 := by
  cases h : a.prevValid <;> simp [AxleSpeed.expiry, h]

/-- A faulted axle has no deceleration (R14). -/
theorem AxleSpeed.expiry_dv_faulted : (a.expiry pitch firstSet true t).dv = 0 := by
  cases h : a.prevValid <;> simp [AxleSpeed.expiry, h]

/-- The window is cleared, and a most recent pulse older than a second is forgotten (R10). -/
theorem AxleSpeed.expiry_recent (fault : Bool) : (a.expiry pitch firstSet fault t).recent =
    a.recent.bind fun r => if 1000000 < stampsApart t r then none else some r := by
  cases h : a.recent <;> simp [AxleSpeed.expiry, h]

end

/-- Each axle's line after a speed window's expiry. -/
theorem Acquisition.window_axle (u : Acquisition) (faults : Tri Bool) (level : Bool) (clock : Nat) (now : Time)
    (t : Stamp) (i : AxleId) : (u.window faults level clock now t).axles.get i =
      (u.axles.get i).expiry u.pitch u.speedTime.isNone (faults.get i) t := by
  cases i <;> rfl

/-- TOOTH_PULSE in the running part (R9). -/
theorem exec_toothPulse_running {s : State} (hr : s.runPhase = .running) (dt : Nat) (i : AxleId) :
    exec (.toothPulse dt i) s = .next { s.advance dt with acq := { s.acq with
      axles := s.acq.axles.set i ((s.acq.axles.get i).pulse (s.advance dt).stamp) } } :=
  congrArg _ (State.event_same hr rfl)

/-- Settles O8: a pulse at its axle, and at the window's expiry each axle's line by R10 to R14 and R18, with the frame
of the event. -/
theorem toothPulsesGiveAxleSpeeds : Obligations.ToothPulsesGiveAxleSpeeds := by
  refine ⟨fun dt i s hr => exec_toothPulse_running hr dt i, fun dt f₁ f₂ f₃ i s hr hd => ?_⟩
  obtain ⟨t, u, timer, ht, h⟩ := exec_speedWindowExpiry_spec hr hd f₁ f₂ f₃
  have hb : t.acq.axles.get i = (s.acq.axles.get i).expiry s.acq.pitch s.acq.speedTime.isNone
      ((Tri.mk f₁ f₂ f₃).get i) (s.advance dt).stamp := by
    rw [h.acq]
    exact Acquisition.window_axle _ _ _ _ _ _ i
  dsimp only
  generalize (Tri.mk f₁ f₂ f₃).get i = fault at hb ⊢
  generalize s.acq.axles.get i = a at hb ⊢
  refine ⟨t, ht, ?_⟩
  rw [hb]
  refine ⟨?_, ?_, rfl, rfl, rfl, rfl, rfl, AxleSpeed.expiry_recent _ _ _ _, ?_, ?_, ?_, ?_, ?_, ?_, ?_⟩
  · rintro rfl
    exact ⟨AxleSpeed.expiry_v_faulted _ _ _, rfl, rfl, AxleSpeed.expiry_dv_faulted _ _ _⟩
  · rintro rfl
    refine ⟨rfl, rfl, AxleSpeed.expiry_dv _ _ _, ?_, ?_, ?_, ?_, ?_⟩
    · exact fun f l hn hf hl => AxleSpeed.expiry_v_measured _ _ _ hn hf hl
    · intro hn h₁
      rw [AxleSpeed.expiry_v_estimated _ _ _ hn, h₁]
      rfl
    · intro hn h₁
      rw [AxleSpeed.expiry_v_estimated _ _ _ hn, AxleSpeed.estimated, h₁]
      exact ite_self _
    · intro r hn h₁ ho
      rw [AxleSpeed.expiry_v_estimated _ _ _ hn, AxleSpeed.estimated, h₁, Option.map_some,
        decayedSpeed_old (tau := stampsApart _ r) _ _ ho]
      exact ite_self _
    · intro r hn hl h₁ ho
      rw [AxleSpeed.expiry_v_estimated _ _ _ hn, Option.isNone_eq_false_iff.mpr (Option.isSome_iff_ne_none.mpr hl),
        AxleSpeed.estimated_later, h₁, Option.map_some,
        decayedSpeed_recent (tau := stampsApart _ r) _ _ ho]
      rfl
  · rw [h.acq]; rfl
  · rw [h.acq]; rfl
  · rw [h.acq]; rfl
  · rw [h.acq]; rfl
  · rw [h.acq]; rfl
  · have hm := h.sameButMessages
    rw [h.acq, h.slide, h.demand]
    exact hm
  · exact h.sameButQueue

end Sys2Proof.Machine
end

section
/-! SUPPORT. Events that take no trigger, said once as `State.Quiet`: time, the configuration, the incident in capture
and the slide holdoff stand. -/

namespace Sys2Proof.Machine

/-- Work that takes no trigger. -/
structure State.Quiet (s t : State) : Prop where
  clock : t.clock = s.clock
  config : t.config = s.config
  state : t.recorder.state = s.recorder.state
  capture : t.recorder.capture = s.recorder.capture
  pendingQueue : t.recorder.pendingQueue = s.recorder.pendingQueue
  holdoff : t.recorder.holdoff = s.recorder.holdoff
  heldOff : t.counters.get .heldOff = s.counters.get .heldOff

theorem State.Quiet.refl (s : State) : State.Quiet s s := ⟨rfl, rfl, rfl, rfl, rfl, rfl, rfl⟩

theorem State.Quiet.trans {s t u : State} (h : State.Quiet s t) (h' : State.Quiet t u) : State.Quiet s u :=
  ⟨h'.clock.trans h.clock, h'.config.trans h.config, h'.state.trans h.state, h'.capture.trans h.capture,
    h'.pendingQueue.trans h.pendingQueue, h'.holdoff.trans h.holdoff, h'.heldOff.trans h.heldOff⟩

/-- A change of the sensing and blending units and of the line. -/
theorem State.Quiet.of_units (s : State) (a : Acquisition) (u : Slide) (d : Demand) (r : Sharing) (o : Outputs)
    (l : Line) :
    State.Quiet s { s with acq := a, slide := u, demand := d, sharing := r, outputs := o, line := l } :=
  ⟨rfl, rfl, rfl, rfl, rfl, rfl, rfl⟩

/-- A change of the channels with their blocks. -/
theorem State.Quiet.of_channels (s : State) {r : Recorder} (h : Recorder.OnlyChannels s.recorder r) :
    State.Quiet s { s with recorder := r } := by
  unfold Recorder.OnlyChannels at h
  refine ⟨rfl, rfl, ?_, ?_, ?_, ?_, rfl⟩ <;> rw [h]

/-- A change of the channels with their blocks, and new peaks. -/
theorem State.Quiet.of_peaks (s : State) {r : Recorder} (h : Recorder.OnlyChannels s.recorder r) (p : Peaks) :
    State.Quiet s { s with recorder := { r with peaks := p } } := by
  obtain ⟨-, -, hs, hc, hq, hh, -⟩ := State.Quiet.of_channels s h
  exact ⟨rfl, rfl, hs, hc, hq, hh, rfl⟩

theorem State.logEvent_quiet (s : State) (source : EventSource) (detail : List Byte) :
    State.Quiet s (s.logEvent source detail) :=
  .of_channels s (Recorder.logEvent_onlyChannels s.recorder s.now source detail)

/-- A count of another counter than that of the holdoff. -/
theorem State.bump_quiet (s : State) {i : CounterId} (hi : i ≠ .heldOff) : State.Quiet s (s.bump i) := by
  obtain ⟨c, r, h, hr⟩ := s.bump_frame i
  have hg := s.bump_get i .heldOff
  rw [if_neg hi.symm] at hg
  rw [h] at hg ⊢
  have hq := State.Quiet.of_channels s hr
  exact ⟨rfl, rfl, hq.state, hq.capture, hq.pendingQueue, hq.holdoff, hg⟩

theorem State.handUrgent_quiet (s : State) (kind : FrameKind) (payload : List Byte) :
    State.Quiet s (s.handUrgent kind payload) := by
  unfold State.handUrgent
  split
  · exact State.bump_quiet s (by decide)
  · split
    · exact .of_units s _ _ _ _ _ _
    · split
      · exact .trans (.of_units s _ _ _ _ _ _) (State.bump_quiet _ (by decide))
      · exact State.bump_quiet s (by decide)

theorem State.recordChannels_quiet (before after : State) : State.Quiet after (before.recordChannels after) := by
  obtain ⟨r, h, hr⟩ := before.recordChannels_frame after
  rw [h]
  exact .of_channels after hr

/-! ### Traces and peaks -/

theorem State.recordPressures_quiet (s : State) : State.Quiet s s.recordPressures := by
  unfold State.recordPressures
  split
  · exact .refl s
  · exact .of_peaks s (Recorder.trace_onlyChannels _ _ _) _

theorem State.recordSpeeds_quiet (s : State) : State.Quiet s s.recordSpeeds :=
  .of_peaks s (Recorder.trace_onlyChannels _ _ _) _

theorem State.recordBlend_quiet (s : State) : State.Quiet s s.recordBlend :=
  .of_peaks s (Recorder.trace_onlyChannels _ _ _) _

/-! ### The demand section -/

theorem State.changeMode_quiet (s : State) (new : Mode) (cause : EventCause) (more : List Byte) :
    State.Quiet s (s.changeMode new cause more) :=
  .trans (.of_units s _ _ _ _ _ _) (State.logEvent_quiet _ _ _)

theorem State.driveEmergency_quiet (s : State) : State.Quiet s s.driveEmergency := .of_units s _ _ _ _ _ _

theorem State.restartExit_quiet (s : State) : State.Quiet s s.restartExit := .of_units s _ _ _ _ _ _

theorem State.standstillChanged_quiet (s : State) : State.Quiet s s.standstillChanged := by
  rw [s.standstillChanged_frame]
  exact .of_units s _ _ _ _ _ _

theorem State.enterEmergency_quiet (s : State) (cause : EventCause) (more : List Byte) :
    State.Quiet s (s.enterEmergency cause more) :=
  (((State.changeMode_quiet s .emergency cause more).trans (State.driveEmergency_quiet _)).trans
    (.of_units _ _ _ _ _ _ _)).trans (State.restartExit_quiet _)

theorem State.beginNotices_quiet (s : State) (cause : Detection) (bp : Nat) :
    State.Quiet s (s.beginNotices cause bp) :=
  .trans (.of_units s _ _ _ _ _ _) (State.handUrgent_quiet _ _ _)

theorem State.leaveEmergency_quiet (s : State) : State.Quiet s s.leaveEmergency :=
  .trans (State.changeMode_quiet s _ .exit []) (.of_units _ _ _ _ _ _ _)

theorem State.exitCheck_quiet (s : State) : State.Quiet s s.exitCheck := by
  unfold State.exitCheck
  split
  · exact State.leaveEmergency_quiet s
  · exact .of_units s _ _ _ _ _ _

theorem State.evaluateMode_quiet (s : State) : State.Quiet s s.evaluateMode := by
  unfold State.evaluateMode
  dsimp only
  split
  · exact .refl s
  · split
    · exact .refl s
    · exact State.changeMode_quiet s _ _ _

/-! ### The early statement test -/

theorem State.enterRoutine_quiet (s : State) (f : TxFrame) : State.Quiet s (s.enterRoutine f) := by
  unfold State.enterRoutine
  split
  · exact .of_units s _ _ _ _ _ _
  · split
    · dsimp only
      split
      · exact .trans (.of_units s _ _ _ _ _ _) (State.bump_quiet _ (by decide))
      · exact .of_units s _ _ _ _ _ _
    · exact .trans (.of_units s _ _ _ _ _ _) (State.bump_quiet _ (by decide))

theorem State.makeDue_quiet (s : State) : State.Quiet s s.makeDue := by
  unfold State.makeDue
  split
  · split
    · exact .trans (State.enterRoutine_quiet s _) (.of_units _ _ _ _ _ _ _)
    · exact .of_units s _ _ _ _ _ _
  · exact .refl s

theorem State.earlyTest_quiet (s : State) : State.Quiet s s.earlyTest := by
  unfold State.earlyTest
  split
  · exact .refl s
  · split
    · exact State.makeDue_quiet s
    · exact .refl s

end Sys2Proof.Machine
end

section
/-! SUPPORT. Triggers that the Recorder takes into the incident in capture, said once as `State.Takes`: which causes are
appended, and how many SLIDE_ENTRY triggers the holdoff turns away (R148, R149, R154). -/

namespace Sys2Proof.Machine

/-! ### The incident in capture -/

/-- An incident as triggers taken at one time leave it: their causes appended as far as there is room (R154). -/
def Incident.Extends (after inc : Incident) (new : List Trigger) (nowMs : Nat) : Prop :=
  after = { inc with
    causes := (inc.causes ++ new.map fun x => x.entry (nowMs - inc.openMs)).take 8
    overflowed := inc.overflowed || decide (8 < inc.causes.length + new.length)
    windowEnd := after.windowEnd }

theorem Incident.Extends.refl {inc : Incident} (h : inc.causes.length ≤ 8) (nowMs : Nat) :
    inc.Extends inc [] nowMs := by
  unfold Incident.Extends
  simp [List.take_of_length_le h, Nat.not_lt.mpr h]

theorem Incident.Extends.length_le {after inc : Incident} {new : List Trigger} {nowMs : Nat}
    (h : after.Extends inc new nowMs) : after.causes.length ≤ 8 := by
  rw [h]
  exact List.length_take_le _ _

/-- A list cut to eight entries, extended and cut again. -/
theorem take_take_append {α : Type} (n : Nat) (l k : List α) : (l.take n ++ k).take n = (l ++ k).take n := by
  rw [List.take_append, List.take_append, List.take_take, Nat.min_self, List.length_take]
  congr 2
  omega

theorem Incident.Extends.trans {inc mid after : Incident} {x y : List Trigger} {nowMs : Nat}
    (h : mid.Extends inc x nowMs) (h' : after.Extends mid y nowMs) : after.Extends inc (x ++ y) nowMs := by
  unfold Incident.Extends at h h' ⊢
  have ho : mid.openMs = inc.openMs := by rw [h]
  rw [ho] at h'
  rw [h', h]
  dsimp only
  congr 1
  · rw [Bool.or_assoc, ← Bool.decide_or]
    congr 2
    simp only [List.length_take, List.length_append, List.length_map, eq_iff_iff]
    omega
  · rw [take_take_append, List.map_append, List.append_assoc]

/-! ### Taking triggers -/

/-- The Recorder takes the triggers `new` into its incident, and counts `held` SLIDE_ENTRY triggers as held off. -/
structure State.Takes (s t : State) (new : List Trigger) (held : Nat) : Prop where
  clock : t.clock = s.clock
  config : t.config = s.config
  takes : ∀ inc, s.TakesTriggers inc → ∃ after, t.TakesTriggers after ∧ after.Extends inc new s.nowMs
  holdoff : (∀ x ∈ new, x.cause ≠ .slideEntry) → t.recorder.holdoff = s.recorder.holdoff
  counted : t.counters.get .heldOff = countedOnce^[held] (s.counters.get .heldOff)

theorem State.Takes.trans {s t u : State} {x y : List Trigger} {m n : Nat} (h : State.Takes s t x m)
    (h' : State.Takes t u y n) : State.Takes s u (x ++ y) (m + n) where
  clock := h'.clock.trans h.clock
  config := h'.config.trans h.config
  takes inc hi := by
    obtain ⟨mid, hm, hx⟩ := h.takes inc hi
    obtain ⟨after, ha, hy⟩ := h'.takes mid hm
    have hn : t.nowMs = s.nowMs := by rw [State.nowMs, State.nowMs, h.clock]
    exact ⟨after, ha, hx.trans (hn ▸ hy)⟩
  holdoff hc := (h'.holdoff fun z hz => hc z (List.mem_append_right _ hz)).trans
    (h.holdoff fun z hz => hc z (List.mem_append_left _ hz))
  counted := by rw [h'.counted, h.counted, Nat.add_comm m n, Function.iterate_add_apply]

/-- Quiet work keeps the Recorder taking triggers. -/
theorem State.Quiet.takesTriggers {s t : State} (h : State.Quiet s t) {inc : Incident} (hi : s.TakesTriggers inc) :
    t.TakesTriggers inc := by
  obtain ⟨hst, hc, hl, hg, he⟩ := hi
  refine ⟨h.state.trans hst, h.capture.trans hc, hl, ?_, fun c => ?_⟩
  · rw [h.pendingQueue, h.config]; exact hg
  · rw [State.triggerLine, h.config]; exact he c

theorem State.Quiet.takes {s t : State} (h : State.Quiet s t) : State.Takes s t [] 0 :=
  ⟨h.clock, h.config, fun inc hi => ⟨inc, h.takesTriggers hi, .refl hi.2.2.1 _⟩, fun _ => h.holdoff, h.heldOff⟩

theorem State.Takes.then {s t u : State} {x : List Trigger} {n : Nat} (h : State.Takes s t x n)
    (h' : State.Quiet t u) : State.Takes s u x n := by
  have := h.trans h'.takes
  rwa [List.append_nil] at this

theorem State.Quiet.thenTakes {s t u : State} {x : List Trigger} {n : Nat} (h : State.Quiet s t)
    (h' : State.Takes t u x n) : State.Takes s u x n := by
  have := h.takes.trans h'
  rwa [Nat.zero_add, List.nil_append] at this

/-- The Recorder takes triggers into some incident. -/
def State.Taking (s : State) : Prop := ∃ inc, s.TakesTriggers inc

theorem State.Takes.taking {s t : State} {x : List Trigger} {n : Nat} (h : State.Takes s t x n) (hs : s.Taking) :
    t.Taking := by
  obtain ⟨inc, hi⟩ := hs
  obtain ⟨after, ha, -⟩ := h.takes inc hi
  exact ⟨after, ha⟩

theorem State.Quiet.taking {s t : State} (h : State.Quiet s t) (hs : s.Taking) : t.Taking := h.takes.taking hs

/-- What the statements on triggers ask. -/
theorem State.Takes.took {s t : State} {x : List Trigger} {n : Nat} (h : State.Takes s t x n) {inc : Incident}
    (hi : s.TakesTriggers inc) : t.TookTriggers inc x := by
  obtain ⟨after, ⟨hst, hc, -⟩, hx⟩ := h.takes inc hi
  have hn : t.nowMs = s.nowMs := by rw [State.nowMs, State.nowMs, h.clock]
  exact ⟨hst, after, hc, hn ▸ hx⟩

/-! ### One trigger -/

section
variable {s : State} {inc : Incident} {x : Trigger} (h : s.TakesTriggers inc)
include h

/-- A trigger that is not held off is appended to the incident in capture. -/
theorem State.raise_appends (hx : s.heldOff x = false) : s.raise x = s.appendCause x inc := by
  obtain ⟨hst, hc, -, hg, he⟩ := h
  unfold State.raise
  rw [if_neg (by simp [hst]), if_neg (by simp [he x.cause]), if_neg (by simp [hx]), if_neg (by omega), hc]

/-- One that is held off is counted. -/
theorem State.raise_held (hx : s.heldOff x = true) : s.raise x = s.bump .heldOff := by
  obtain ⟨hst, -, -, -, he⟩ := h
  unfold State.raise
  rw [if_neg (by simp [hst]), if_neg (by simp [he x.cause]), if_pos hx]

omit h in
/-- The incident that a trigger is appended to, afterwards. -/
theorem State.appendCause_capture (hl : inc.causes.length ≤ 8) :
    ∃ after, (s.appendCause x inc).recorder.capture = some after ∧ after.Extends inc [x] s.nowMs := by
  refine ⟨_, rfl, ?_⟩
  unfold Incident.Extends
  dsimp only
  congr 1
  · congr 1
    rw [← decide_not]
    exact decide_eq_decide.mpr (by simp)
  · by_cases hr : inc.causes.length < 8
    · rw [if_pos (decide_eq_true hr), List.take_of_length_le (by simp; omega)]
      rfl
    · rw [if_neg (by simpa using hr), List.take_left' (by omega)]

/-- A trigger appended to the incident in capture. -/
theorem State.appendCause_takes : State.Takes s (s.appendCause x inc) [x] 0 := by
  obtain ⟨hst, hc, hl, hg, he⟩ := h
  refine ⟨rfl, rfl, fun i hi => ?_, fun hn => ?_, rfl⟩
  · obtain rfl : inc = i := Option.some.inj (hc.symm.trans hi.2.1)
    obtain ⟨after, ha, hx⟩ := State.appendCause_capture (s := s) (x := x) hl
    exact ⟨after, ⟨hst, ha, hx.length_le, hg, he⟩, hx⟩
  · have hx : x.cause ≠ .slideEntry := hn x (List.mem_singleton_self x)
    show (if _ then holdoffAfter x s.now s.recorder.holdoff else _) = _
    rw [holdoffAfter, if_neg hx, ite_self]

omit h in
/-- With room in the cause list a SLIDE_ENTRY starts the holdoff (R149). -/
theorem State.appendCause_holdoff (hl : inc.causes.length < 8) (hx : x.cause = .slideEntry) :
    (s.appendCause x inc).recorder.holdoff = some s.now := by
  show (if _ then holdoffAfter x s.now s.recorder.holdoff else _) = _
  rw [if_pos (decide_eq_true hl), holdoffAfter, if_pos hx]

end

/-- A SLIDE_ENTRY counted as held off. -/
theorem State.bump_heldOff_takes (s : State) : State.Takes s (s.bump .heldOff) [] 1 := by
  obtain ⟨c, r, h, hr⟩ := s.bump_frame .heldOff
  have hg := s.bump_get .heldOff .heldOff
  rw [if_pos rfl] at hg
  rw [h] at hg ⊢
  have hq := State.Quiet.of_channels s hr
  exact ⟨rfl, rfl, hq.takes.takes, fun _ => hq.holdoff, hg⟩

/-! ### Messages -/

/-- The trigger that a message carries. -/
def Message.triggers : Message → List Trigger
  | .event _ _ => []
  | .trigger x => [x]
  | .urgent _ _ => []
  | .count _ => []

/-- A message that the slide holdoff has no part in: no SLIDE_ENTRY, and no count of its counter. -/
def Message.ordinary : Message → Bool
  | .event _ _ => true
  | .trigger x => decide (x.cause ≠ .slideEntry)
  | .urgent _ _ => true
  | .count i => decide (i ≠ .heldOff)

theorem State.heldOff_other {s : State} {x : Trigger} (h : x.cause ≠ .slideEntry) : s.heldOff x = false := by
  simp [State.heldOff, h]

/-- An ordinary message delivered: its trigger is taken. -/
theorem State.deliver_takes {s : State} (hs : s.Taking) {m : Message} (hm : m.ordinary = true) :
    State.Takes s (s.deliver m) m.triggers 0 := by
  cases m with
  | event source detail => exact (State.logEvent_quiet s source detail).takes
  | trigger x =>
    obtain ⟨inc, hi⟩ := hs
    have hx : x.cause ≠ .slideEntry := of_decide_eq_true hm
    show State.Takes s (s.raise x) [x] 0
    rw [State.raise_appends hi (State.heldOff_other hx)]
    exact State.appendCause_takes hi
  | urgent kind payload => exact (State.handUrgent_quiet s kind payload).takes
  | count i => exact (State.bump_quiet s (of_decide_eq_true hm)).takes

/-- Ordinary messages delivered: their triggers are taken in order. -/
theorem State.deliverAll_takes {ms : List Message} (hm : ∀ m ∈ ms, m.ordinary = true) {s : State} (hs : s.Taking) :
    State.Takes s (s.deliverAll ms) (ms.flatMap Message.triggers) 0 := by
  induction ms generalizing s with
  | nil => exact (State.Quiet.refl s).takes
  | cons m ms ih =>
    have h := State.deliver_takes hs (hm m (by simp))
    exact h.trans (ih (fun x hx => hm x (by simp [hx])) (h.taking hs))

end Sys2Proof.Machine
end

section
/-! SUPPORT. The triggers of a scan completion: SENSOR_FAULT of the channels, EMERGENCY_LOCAL and FRICTION_FAULT (R3,
R26, R125). -/

namespace Sys2Proof.Machine

/-! ### SENSOR_FAULT (R3) -/

/-- The trigger of a pressure channel that enters FAILED. -/
def pressTriggers (old new : PressChan) (i : PressId) : List Trigger :=
  if old.state ≠ .failed ∧ new.state = .failed then
    [{ cause := .sensorFault, detail := be8 (pressNumber i), origin := none }]
  else []

theorem entersFailed_iff (old new : PressChan) :
    entersFailed old new = true ↔ old.state ≠ .failed ∧ new.state = .failed := by
  simp [entersFailed]

/-- The messages of the unit's scan carry the triggers of the four channels in their order (log entry 47). -/
theorem Acquisition.scan_triggers (u : Acquisition) (pscan : Nat) (now : Time) :
    (u.scan pscan now).2.flatMap Message.triggers =
      [PressId.bp, .bc, .ind, .mr].flatMap fun i =>
        pressTriggers (u.chans.get i) ((u.scan pscan now).1.chans.get i) i := by
  show (List.filterMap (fun i => if entersFailed (u.chans.get i) ((u.scan pscan now).1.chans.get i) then
    some (pressFault i) else none) [PressId.bp, .bc, .ind, .mr]).flatMap Message.triggers = _
  rw [List.filterMap_eq_flatMap_toList, List.flatMap_assoc]
  congr 1
  funext i
  simp only [pressTriggers, ← entersFailed_iff]
  split <;> rfl

theorem Acquisition.scan_ordinary (u : Acquisition) (pscan : Nat) (now : Time) :
    ∀ m ∈ (u.scan pscan now).2, m.ordinary = true := by
  intro m hm
  obtain ⟨i, -, hi⟩ := List.mem_filterMap.mp hm
  split at hi
  · cases hi; rfl
  · cases hi

/-! ### EMERGENCY_LOCAL (R26) -/

/-- The trigger of a detection in a mode. -/
def detectionTriggers (mode : Mode) (fall : Int) : Option (Detection × Nat) → List Trigger
  | none => []
  | some (cause, bp) => if mode = .emergency then [] else (localTrigger cause bp fall).triggers

theorem State.detect_takes {s : State} (hs : s.Taking) (cause : Detection) (bp : Nat) (fall : Int) :
    State.Takes s (s.detect cause bp fall) (detectionTriggers s.demand.mode fall (some (cause, bp))) 0 := by
  unfold State.detect detectionTriggers
  dsimp only
  split
  · exact (State.restartExit_quiet s).takes
  · have hq := State.enterEmergency_quiet s (detectionEvent cause) []
    exact (hq.thenTakes (State.deliver_takes (hq.taking hs) rfl)).then (State.beginNotices_quiet _ _ _)

theorem State.demandArrival_takes {s : State} (hs : s.Taking) :
    State.Takes s s.demandArrival (detectionTriggers s.demand.mode s.acq.fall
      (localDetection s.config s.acq.latestChans.bp.value s.acq.fall)) 0 := by
  unfold State.demandArrival
  split
  · rename_i cause bp h
    rw [h]
    exact State.detect_takes hs cause bp _
  · rename_i h
    rw [h]
    refine State.Quiet.takes ?_
    split
    · exact State.exitCheck_quiet s
    · exact .refl s

/-- Level before rate, and nothing without a value (R26). -/
theorem detectionTriggers_local (mode : Mode) (c : Configuration) (p : Nat) (fall : Int) :
    detectionTriggers mode fall (localDetection c (some p) fall) =
      if mode ≠ .emergency ∧ (p < c.bpEmerg ∨ (c.remerg : Int) ≤ fall) then
        [{ cause := .emergencyLocal, origin := none
           detail := be8 (if p < c.bpEmerg then 1 else 2) ++ be16 p ++ beInt16 fall }]
      else [] := by
  unfold localDetection
  dsimp only
  by_cases hm : mode = .emergency
  · have hn : ¬(mode ≠ .emergency ∧ (p < c.bpEmerg ∨ (c.remerg : Int) ≤ fall)) := fun h => h.1 hm
    rw [if_neg hn]
    split
    · exact if_pos hm
    · split
      · exact if_pos hm
      · rfl
  · by_cases hp : p < c.bpEmerg
    · rw [if_pos hp, if_pos ⟨hm, .inl hp⟩, if_pos hp]
      exact if_neg hm
    · rw [if_neg hp, if_neg hp]
      by_cases hf : (c.remerg : Int) ≤ fall
      · rw [if_pos hf, if_pos ⟨hm, .inr hf⟩]
        exact if_neg hm
      · rw [if_neg hf, if_neg (by simp [hp, hf])]
        rfl

/-! ### FRICTION_FAULT (R125) -/

theorem State.driveEmergency_frictionFault (s : State) :
    s.driveEmergency.outputs.frictionFault = s.outputs.frictionFault := by
  simp [State.driveEmergency]

/-- The demand section leaves the friction latch. -/
theorem State.demandArrival_frictionFault (s : State) :
    s.demandArrival.outputs.frictionFault = s.outputs.frictionFault := by
  have he : ∀ cause more, (s.enterEmergency cause more).outputs.frictionFault = s.outputs.frictionFault := by
    intro cause more
    exact (State.driveEmergency_frictionFault _).trans (by rw [State.changeMode_outputs])
  unfold State.demandArrival
  split
  · unfold State.detect
    split
    · rfl
    · unfold State.beginNotices
      rw [(State.handUrgent_delivers _ _ _).outputs, (State.deliver_delivers _ _).outputs, he]
  · split
    · unfold State.exitCheck
      split
      · show ({ (State.changeMode _ _ _ _).outputs with fcmd := _ } : Outputs).frictionFault = _
        rw [State.changeMode_outputs]
      · rfl
    · rfl

/-- The trigger of a friction latch that is set between two states. -/
def frictionTriggers (old new : Bool) (bc bcOut : Nat) (mode : Mode) : List Trigger :=
  if old = false ∧ new = true then (frictionTrigger bc bcOut mode).triggers else []

theorem frictionTriggers_set (new : Bool) (bc bcOut : Nat) (mode : Mode) :
    frictionTriggers true new bc bcOut mode = [] := if_neg (by simp)

theorem frictionTriggers_clear (old : Bool) (bc bcOut : Nat) (mode : Mode) :
    frictionTriggers old false bc bcOut mode = [] := if_neg (by simp)

/-- What the friction triggers between two states are, by the later state's values. -/
def State.frictionRaised (s t : State) : List Trigger :=
  frictionTriggers s.outputs.frictionFault t.outputs.frictionFault (t.acq.latestChans.bc.value.getD 0)
    t.outputs.bcOut t.demand.mode

theorem State.frictionCheck_takes {s : State} (hs : s.Taking) (hf : s.outputs.frictionFault = false) :
    State.Takes s s.frictionCheck (s.frictionRaised s.frictionCheck) 0 := by
  have hclear : ∀ o : Outputs, o.frictionFault = false →
      State.Takes s { s with outputs := o } (s.frictionRaised { s with outputs := o }) 0 := by
    intro o ho
    unfold State.frictionRaised
    rw [ho, frictionTriggers_clear]
    exact (State.Quiet.of_units s _ _ _ _ _ _).takes
  unfold State.frictionCheck
  dsimp only
  split
  · exact hclear _ hf
  · split
    · have hq := State.Quiet.of_units s s.acq s.slide s.demand s.sharing
        { s.outputs with devStart := none, frictionFault := true } s.line
      have hd := State.deliver_takes (hq.taking hs) (m := frictionTrigger (s.acq.latestChans.bc.value.getD 0)
        s.outputs.bcOut s.demand.mode) rfl
      have hr := State.deliver_delivers { s with outputs := { s.outputs with devStart := none, frictionFault := true } }
        (frictionTrigger (s.acq.latestChans.bc.value.getD 0) s.outputs.bcOut s.demand.mode)
      unfold State.frictionRaised
      rw [hr.acq, hr.outputs, hr.demand, frictionTriggers, if_pos ⟨hf, rfl⟩]
      exact hq.thenTakes hd
    · exact hclear _ hf

theorem State.emergencyDriven_quiet (s : State) : State.Quiet s s.emergencyDriven := by
  unfold State.emergencyDriven
  split
  · exact State.driveEmergency_quiet s
  · exact .refl s

theorem State.emergencyDriven_frictionFault (s : State) :
    s.emergencyDriven.outputs.frictionFault = s.outputs.frictionFault := by
  unfold State.emergencyDriven
  split
  · exact State.driveEmergency_frictionFault s
  · rfl

theorem State.outputArrival_takes {s : State} (hs : s.Taking) :
    State.Takes s s.outputArrival (s.frictionRaised s.outputArrival) 0 := by
  have hq := s.emergencyDriven_quiet
  refine hq.thenTakes ?_
  unfold State.frictionRaised
  rw [State.outputArrival_eq, ← s.emergencyDriven_frictionFault]
  generalize s.emergencyDriven = x at hq ⊢
  cases hf : x.outputs.frictionFault with
  | true =>
    rw [frictionTriggers_set, if_pos rfl]
    refine State.Quiet.takes ?_
    split
    · exact .of_units x _ _ _ _ _ _
    · exact .refl x
  | false =>
    rw [if_neg (by simp)]
    have h := State.frictionCheck_takes (hq.taking hs) hf
    rwa [State.frictionRaised, hf] at h

/-! ### The event -/

/-- A scan completion's work: its triggers in their order. -/
theorem State.scanCompletes_takes {s : State} (hs : s.Taking) :
    let x : State := { s with acq := (s.acq.scan s.config.pscan s.now).1 }
    State.Takes s s.scanCompletes
      (([PressId.bp, .bc, .ind, .mr].flatMap fun i => pressTriggers (s.acq.chans.get i) (x.acq.chans.get i) i) ++
        detectionTriggers s.demand.mode x.acq.fall
          (localDetection s.config x.acq.latestChans.bp.value x.acq.fall) ++ s.frictionRaised s.scanCompletes) 0 := by
  intro x
  have hx : State.Quiet s x := .of_units s _ _ _ _ _ _
  have h₁ := hx.thenTakes (State.deliverAll_takes (Acquisition.scan_ordinary s.acq s.config.pscan s.now) (hx.taking hs))
  have hd₁ := State.deliverAll_delivers x (s.acq.scan s.config.pscan s.now).2
  rw [Acquisition.scan_triggers] at h₁
  unfold State.scanCompletes
  dsimp only
  change State.Takes s (State.deliverAll x _).demandArrival.outputArrival.recordPressures _ _
  generalize State.deliverAll x (s.acq.scan s.config.pscan s.now).2 = y at h₁ hd₁ ⊢
  have h₂ := State.demandArrival_takes (h₁.taking hs)
  have hf := y.demandArrival_frictionFault
  rw [hd₁.demand, hd₁.acq, hd₁.config] at h₂
  rw [hd₁.outputs] at hf
  generalize y.demandArrival = z at h₂ hf ⊢
  have h₁₂ := h₁.trans h₂
  have h₃ := State.outputArrival_takes (h₁₂.taking hs)
  generalize z.outputArrival = w at h₃ ⊢
  have hr := State.recordPressures_delivers w
  have hfr : s.frictionRaised w.recordPressures = z.frictionRaised w := by
    unfold State.frictionRaised
    rw [hr.outputs, hr.acq, hr.demand, hf]
  rw [hfr]
  exact (h₁₂.trans h₃).then (State.recordPressures_quiet w)

end Sys2Proof.Machine
end

section
/-! SUPPORT. The triggers of a control cycle: CONVERTER_LOST and UNSERVED (R114, R127). -/

namespace Sys2Proof.Machine

/-! ### CONVERTER_LOST (R114) -/

/-- The trigger of a link that goes DOWN between two states. -/
def lostTriggers (o : Outputs) (up : Bool) : List Trigger :=
  if o.linkUp = true ∧ up = false then (converterLost o).triggers else []

theorem Outputs.fadeRuns_linkUp (o : Outputs) (etol : Nat) : (o.fadeRuns etol).linkUp = o.linkUp := by
  unfold Outputs.fadeRuns
  dsimp only
  split
  · rfl
  · split
    · split <;> rfl
    · rfl

/-- A miss takes the link DOWN with its trigger, or leaves it. -/
theorem Outputs.miss_triggers (o : Outputs) : o.miss.2.flatMap Message.triggers = lostTriggers o o.miss.1.linkUp := by
  unfold Outputs.miss lostTriggers
  dsimp only
  split
  · rename_i h
    rw [if_pos ⟨h.1, rfl⟩]
    rfl
  · rename_i h
    dsimp only
    cases o.linkUp <;> rfl

/-- The link check's messages carry the trigger of a link that goes DOWN. -/
theorem Outputs.linkCheck_triggers (o : Outputs) (etol : Nat) :
    (o.linkCheck etol).2.flatMap Message.triggers = lostTriggers o (o.linkCheck etol).1.linkUp := by
  have hsame : ∀ up : Bool, up = o.linkUp → [] = lostTriggers o up := by
    rintro _ rfl
    exact (if_neg (by simp)).symm
  unfold Outputs.linkCheck
  split
  · exact o.miss_triggers
  · split
    · exact hsame _ (o.fadeRuns_linkUp etol)
    · exact hsame _ rfl

theorem Outputs.linkCheck_ordinary (o : Outputs) (etol : Nat) : ∀ m ∈ (o.linkCheck etol).2, m.ordinary = true := by
  unfold Outputs.linkCheck
  split
  · unfold Outputs.miss
    dsimp only
    split <;> simp [Message.ordinary, converterLost, causeOf, linkEvent]
  · split <;> simp

/-- The link check leaves the unserved run. -/
theorem Outputs.linkCheck_unservedRaised (o : Outputs) (etol : Nat) :
    (o.linkCheck etol).1.unservedRaised = o.unservedRaised := by
  unfold Outputs.linkCheck
  split
  · unfold Outputs.miss
    dsimp only
    split <;> rfl
  · split
    · unfold Outputs.fadeRuns
      dsimp only
      split
      · rfl
      · split
        · split <;> rfl
        · rfl
    · rfl

theorem State.linkCheck_outputs (s : State) : s.linkCheck.outputs = (s.outputs.linkCheck s.config.etol).1 := by
  unfold State.linkCheck
  exact (State.deliverAll_delivers _ _).outputs

theorem State.linkCheck_takes {s : State} (hs : s.Taking) :
    State.Takes s s.linkCheck (lostTriggers s.outputs s.linkCheck.outputs.linkUp) 0 := by
  rw [State.linkCheck_outputs, ← Outputs.linkCheck_triggers]
  have hq := State.Quiet.of_units s s.acq s.slide s.demand s.sharing (s.outputs.linkCheck s.config.etol).1 s.line
  exact hq.thenTakes (State.deliverAll_takes (Outputs.linkCheck_ordinary _ _) (hq.taking hs))

/-! ### UNSERVED (R127) -/

/-- UNSERVED is raised exactly when its flag is set. -/
theorem Outputs.unserved_raises (o : Outputs) (uthr u : Nat) (now : Time) : (o.unserved uthr u now).2 = true ↔
    o.unservedRaised = false ∧ (o.unserved uthr u now).1.unservedRaised = true := by
  unfold Outputs.unserved
  split
  · simp
  · split
    · simp
    · split
      · rename_i h
        simp [h.1]
      · simp

theorem Outputs.command_linkUp (o : Outputs) (c : Configuration) (cut : Bool) (et ft al : Nat) :
    (o.command c cut et ft al).linkUp = o.linkUp := by
  unfold Outputs.command
  dsimp only
  split <;> rfl

theorem Outputs.command_unservedRaised (o : Outputs) (c : Configuration) (cut : Bool) (et ft al : Nat) :
    (o.command c cut et ft al).unservedRaised = o.unservedRaised := by
  unfold Outputs.command
  dsimp only
  split <;> rfl

/-- The outputs stage leaves the link's state and the unserved run's flag. -/
theorem Outputs.stage_keeps (o : Outputs) (c : Configuration) (mode : Mode) (cut : Bool) (r : Sharing)
    (chans : Quad PressItem) (now : Time) : (o.stage c mode cut r chans now).linkUp = o.linkUp ∧
      (o.stage c mode cut r chans now).unservedRaised = o.unservedRaised := by
  have h : ∀ p : Outputs, (p.setpoint c mode chans now).linkUp = p.linkUp ∧
      (p.setpoint c mode chans now).unservedRaised = p.unservedRaised := by
    intro p
    unfold Outputs.setpoint
    dsimp only
    split <;> simp
  obtain ⟨hl, hu⟩ := h (o.command c cut (targetIn mode r.et) (targetIn mode r.ft) r.al)
  exact ⟨hl.trans (Outputs.command_linkUp _ _ _ _ _ _), hu.trans (Outputs.command_unservedRaised _ _ _ _ _ _)⟩

/-- The trigger of an unserved run whose flag is set between two states. -/
def unservedTriggers (old new : Bool) (r : Sharing) : List Trigger :=
  if old = false ∧ new = true then (unservedTrigger r).triggers else []

/-- The output section after the outputs stage. -/
def State.stagedOutputs (s : State) : Outputs :=
  ((s.outputs.stage s.config s.demand.mode s.slide.slideCut s.sharing s.acq.latestChans s.now).unserved s.config.uthr
    s.sharing.u s.now).1

/-- The outputs stage leaves its section so, clears the slide-cut flag, and delivers messages. -/
theorem State.outputStage_delivers (s : State) : State.Delivers
    { s with outputs := s.stagedOutputs, slide := { s.slide with slideCut := false } } s.outputStage := by
  unfold State.outputStage
  dsimp only
  split
  · exact State.deliver_delivers _ _
  · exact .refl _

theorem State.stagedOutputs_linkUp (s : State) : s.stagedOutputs.linkUp = s.outputs.linkUp := by
  unfold State.stagedOutputs
  rw [Outputs.unserved_frame]
  exact (Outputs.stage_keeps _ _ _ _ _ _ _).1

theorem State.outputStage_takes {s : State} (hs : s.Taking) : State.Takes s s.outputStage
    (unservedTriggers s.outputs.unservedRaised s.stagedOutputs.unservedRaised s.sharing) 0 := by
  have hk := (Outputs.stage_keeps s.outputs s.config s.demand.mode s.slide.slideCut s.sharing s.acq.latestChans s.now).2
  have hu := Outputs.unserved_raises
    (s.outputs.stage s.config s.demand.mode s.slide.slideCut s.sharing s.acq.latestChans s.now) s.config.uthr
    s.sharing.u s.now
  have hq : State.Quiet s { s with outputs := s.stagedOutputs, slide := { s.slide with slideCut := false } } :=
    .of_units s _ _ _ _ _ _
  rw [hk] at hu
  change _ ↔ _ ∧ s.stagedOutputs.unservedRaised = true at hu
  unfold State.outputStage unservedTriggers
  simp only [← hu]
  split
  · exact hq.thenTakes (State.deliver_takes (hq.taking hs) rfl)
  · exact hq.takes

/-! ### The event -/

/-- The mode evaluation leaves the output section. -/
theorem State.evaluateMode_outputs (s : State) : s.evaluateMode.outputs = s.outputs := by
  unfold State.evaluateMode
  dsimp only
  split
  · rfl
  · split
    · rfl
    · exact State.changeMode_outputs _ _ _ _

/-- The mode evaluation leaves the sharing section. -/
theorem State.evaluateMode_sharing (s : State) : s.evaluateMode.sharing = s.sharing := by
  unfold State.evaluateMode
  dsimp only
  split
  · rfl
  · split
    · rfl
    · exact State.changeMode_sharing _ _ _ _

/-- A control cycle's work: its triggers in their order. -/
theorem State.controlCycle_takes {s : State} (hs : s.Taking) : State.Takes s s.controlCycle
    (lostTriggers s.outputs s.controlCycle.outputs.linkUp ++
      unservedTriggers s.outputs.unservedRaised s.controlCycle.outputs.unservedRaised s.controlCycle.sharing) 0 := by
  unfold State.controlCycle
  dsimp only
  have h₀ : State.Quiet s { s with demand := { s.demand with cycleDue := s.demand.cycleDue + 20000 } } :=
    .of_units s _ _ _ _ _ _
  have h₁ := h₀.trans (State.earlyTest_quiet _)
  have ho₁ :=
    (State.earlyTest_talks { s with demand := { s.demand with cycleDue := s.demand.cycleDue + 20000 } }).outputs
  generalize State.earlyTest _ = x at h₁ ho₁ ⊢
  have h₂ := h₁.thenTakes (State.linkCheck_takes (h₁.taking hs))
  have hu : x.linkCheck.outputs.unservedRaised = s.outputs.unservedRaised := by
    rw [State.linkCheck_outputs, Outputs.linkCheck_unservedRaised, ho₁]
  rw [ho₁] at h₂
  dsimp only at h₂
  generalize x.linkCheck = y at h₂ hu ⊢
  have hq : State.Quiet y y.computeDemand.sharingStage := .of_units y _ _ _ _ _ _
  have ho : y.computeDemand.sharingStage.outputs = y.outputs := rfl
  generalize y.computeDemand.sharingStage = z at hq ho ⊢
  have h₃ := State.outputStage_takes ((h₂.then hq).taking hs)
  have hd := z.outputStage_delivers
  have hr := State.recordBlend_delivers z.outputStage.evaluateMode
  rw [hr.outputs, hr.sharing, State.evaluateMode_outputs, State.evaluateMode_sharing, hd.outputs, hd.sharing]
  dsimp only
  rw [State.stagedOutputs_linkUp, ho]
  rw [ho, hu] at h₃
  exact (((h₂.then hq).trans h₃).then (State.evaluateMode_quiet _)).then (State.recordBlend_quiet _)

end Sys2Proof.Machine
end

section
/-! SUPPORT. The triggers of a speed set arrival: SENSOR_FAULT and VENT_TIMEOUT of the axles, and SLIDE_ENTRY with its
holdoff (R43, R47, R55, R148, R149). -/

namespace Sys2Proof.Machine

/-! ### SLIDE_ENTRY triggers one after the other (R148, R149) -/

/-- The slide holdoff runs: less than 10 s have passed since a SLIDE_ENTRY was taken. -/
def State.HoldoffRuns (s : State) : Prop := ∃ h, s.recorder.holdoff = some h ∧ since s.now h < 10000

theorem State.heldOff_slideEntry {s : State} {x : Trigger} (hx : x.cause = .slideEntry) :
    s.heldOff x = true ↔ s.HoldoffRuns := by
  unfold State.heldOff State.HoldoffRuns
  cases s.recorder.holdoff <;> simp [hx]

/-- Where time and the holdoff stand, it runs as before. -/
theorem State.HoldoffRuns.congr {s t : State} (hc : t.clock = s.clock) (hh : t.recorder.holdoff = s.recorder.holdoff) :
    t.HoldoffRuns ↔ s.HoldoffRuns := by
  unfold State.HoldoffRuns State.now
  rw [hc, hh]

/-- A SLIDE_ENTRY taken now starts the holdoff. -/
theorem State.HoldoffRuns.of_now {s : State} (h : s.recorder.holdoff = some s.now) : s.HoldoffRuns :=
  ⟨s.now, h, by simp [since]⟩

/-- While the holdoff runs, every SLIDE_ENTRY is counted and none is taken. -/
theorem State.deliverAll_heldOff {xs : List Trigger} (hx : ∀ x ∈ xs, x.cause = .slideEntry) {s : State} (hs : s.Taking)
    (hh : s.HoldoffRuns) : State.Takes s (s.deliverAll (xs.map Message.trigger)) [] xs.length := by
  induction xs generalizing s with
  | nil => exact (State.Quiet.refl s).takes
  | cons x xs ih =>
    obtain ⟨inc, hi⟩ := hs
    have h : State.Takes s (s.raise x) [] 1 := by
      rw [State.raise_held hi ((State.heldOff_slideEntry (hx x (by simp))).mpr hh)]
      exact s.bump_heldOff_takes
    have hr := (State.HoldoffRuns.congr h.clock (h.holdoff (by simp))).mpr hh
    rw [List.length_cons, Nat.add_comm]
    exact h.trans (ih (fun y hy => hx y (by simp [hy])) (h.taking ⟨inc, hi⟩) hr)

/-- Outside the holdoff and with room in the cause list, the first SLIDE_ENTRY is taken and every other one counted. -/
theorem State.deliverAll_firstEntry {xs : List Trigger} (hx : ∀ x ∈ xs, x.cause = .slideEntry) {s : State}
    {inc : Incident} (hi : s.TakesTriggers inc) (hh : ¬s.HoldoffRuns) (hl : inc.causes.length < 8) :
    State.Takes s (s.deliverAll (xs.map Message.trigger)) (xs.take 1) (xs.length - 1) ∧
      (s.deliverAll (xs.map Message.trigger)).recorder.holdoff =
        if xs = [] then s.recorder.holdoff else some s.now := by
  cases xs with
  | nil => exact ⟨(State.Quiet.refl s).takes, rfl⟩
  | cons x xs =>
    have hc := hx x (by simp)
    have hr : s.raise x = s.appendCause x inc :=
      State.raise_appends hi (Bool.eq_false_iff.mpr (mt (State.heldOff_slideEntry hc).mp hh))
    have h : State.Takes s (s.raise x) [x] 0 := hr ▸ State.appendCause_takes hi
    have hn : (s.raise x).recorder.holdoff = some s.now := hr ▸ State.appendCause_holdoff hl hc
    have hnow : (s.raise x).now = s.now := congrArg reading h.clock
    have hrest := State.deliverAll_heldOff (xs := xs) (fun y hy => hx y (by simp [hy])) (h.taking ⟨inc, hi⟩)
      (.of_now (hn.trans (congrArg some hnow.symm)))
    have hall := h.trans hrest
    rw [Nat.zero_add] at hall
    refine ⟨hall, ?_⟩
    rw [if_neg (List.cons_ne_nil x xs), ← hn]
    exact hrest.holdoff (by simp)

/-! ### The messages of stages 4 and 5 -/

/-- The triggers that a change raises in stage 4. -/
def AxleChange.stage4Triggers (ch : AxleChange) (vref : Nat) : List Trigger :=
  if ch.old.state ≠ .fault ∧ ch.new.state = .fault then
    [{ cause := .sensorFault, detail := be8 (axleNumber ch.axle), origin := none }]
  else if ch.old.state ≠ .timeout ∧ ch.new.state = .timeout then
    [{ cause := .ventTimeout, origin := none
       detail := be8 (axleNumber ch.axle) ++ be16 vref ++ be16 ch.new.lastQ ++ be16 ch.new.vent }]
  else []

theorem AxleChange.enters_iff (ch : AxleChange) (a : AxleState) :
    ch.enters a = true ↔ ch.old.state ≠ a ∧ ch.new.state = a := by
  simp [AxleChange.enters]

theorem AxleChange.trigger_triggers (ch : AxleChange) (vref : Nat) :
    (ch.trigger vref).flatMap Message.triggers = ch.stage4Triggers vref := by
  simp only [AxleChange.trigger, AxleChange.stage4Triggers, AxleChange.enters_iff]
  split
  · rfl
  · split <;> rfl

theorem AxleChange.record_triggers (ch : AxleChange) (vref : Nat) :
    (ch.record vref).flatMap Message.triggers = [] := by
  unfold AxleChange.record
  split <;> rfl

/-- Stage 4 hands over its triggers in axle order (log entry 47). -/
theorem stage4Messages_triggers (chs : List AxleChange) (vref : Nat) :
    (stage4Messages chs vref).flatMap Message.triggers = chs.flatMap fun ch => ch.stage4Triggers vref := by
  unfold stage4Messages
  simp only [List.flatMap_append, List.flatMap_assoc, AxleChange.trigger_triggers, AxleChange.record_triggers]
  rw [List.flatMap_eq_nil_iff.mpr (fun _ _ => rfl), List.append_nil]

theorem AxleChange.stage4Triggers_cause {ch : AxleChange} {vref : Nat} {x : Trigger}
    (hx : x ∈ ch.stage4Triggers vref) : x.cause ≠ .slideEntry := by
  unfold AxleChange.stage4Triggers at hx
  split at hx
  · obtain rfl := List.mem_singleton.mp hx
    simp
  · split at hx
    · obtain rfl := List.mem_singleton.mp hx
      simp
    · cases hx

theorem AxleChange.stage4Triggers_length (ch : AxleChange) (vref : Nat) : (ch.stage4Triggers vref).length ≤ 1 := by
  unfold AxleChange.stage4Triggers
  split
  · exact le_rfl
  · split <;> simp

theorem stage4Messages_ordinary (chs : List AxleChange) (vref : Nat) :
    ∀ m ∈ stage4Messages chs vref, m.ordinary = true := by
  intro m hm
  cases m with
  | event source detail => rfl
  | urgent kind payload => rfl
  | trigger x =>
    have hx : x ∈ (stage4Messages chs vref).flatMap Message.triggers :=
      List.mem_flatMap.mpr ⟨_, hm, List.mem_singleton_self x⟩
    rw [stage4Messages_triggers] at hx
    obtain ⟨ch, -, hc⟩ := List.mem_flatMap.mp hx
    exact decide_eq_true (AxleChange.stage4Triggers_cause hc)
  | count i =>
    simp only [stage4Messages, AxleChange.trigger, AxleChange.record, causeOf, List.mem_append, List.mem_flatMap] at hm
    rcases hm with ⟨ch, -, hc⟩ | ⟨ch, -, hc⟩
    · split at hc
      · simp at hc
      · split at hc <;> simp at hc
    · split at hc <;> simp at hc

/-- The trigger SLIDE_ENTRY of a change (R55). -/
def AxleChange.slideTrigger (ch : AxleChange) (u : Slide) : Trigger :=
  { cause := .slideEntry, origin := none
    detail := be8 (axleNumber ch.axle) ++ be8 (axleCode ch.old.state) ++ be16 ch.new.lastQ ++ be16 u.vref ++ be16 u.a ++
      be16 u.al }

/-- The SLIDE_ENTRY triggers of the changes, in axle order. -/
def slideTriggers (u : Slide) (chs : List AxleChange) : List Trigger :=
  (slideEntries chs).map fun ch => ch.slideTrigger u

theorem slideTriggers_cause {u : Slide} {chs : List AxleChange} {x : Trigger} (hx : x ∈ slideTriggers u chs) :
    x.cause = .slideEntry := by
  obtain ⟨ch, -, rfl⟩ := List.mem_map.mp hx
  rfl

/-- The triggers come of the changes that enter SLIDE. -/
theorem slideTriggers_eq (u : Slide) (chs : List AxleChange) : slideTriggers u chs =
    chs.flatMap fun ch => if ch.old.state ≠ .slide ∧ ch.new.state = .slide then [ch.slideTrigger u] else [] := by
  unfold slideTriggers slideEntries
  simp only [← AxleChange.enters_iff]
  induction chs with
  | nil => rfl
  | cons ch chs ih =>
    rw [List.flatMap_cons, ← ih, List.filter_cons]
    split <;> rfl

/-- Stage 5 hands over at most the slide notice, then its triggers (R54, R55). -/
theorem stage5Messages_eq (u : Slide) (chs : List AxleChange) :
    stage5Messages u chs = (slideTriggers u chs).map Message.trigger ∨
      ∃ payload, stage5Messages u chs =
        .urgent .slideNotice payload :: (slideTriggers u chs).map Message.trigger := by
  have he : (slideEntries chs).map (fun ch => ch.slideEntry u) = (slideTriggers u chs).map Message.trigger := by
    rw [slideTriggers, List.map_map]
    rfl
  unfold stage5Messages
  dsimp only
  rw [he]
  split
  · rename_i hn
    rw [slideTriggers, List.isEmpty_iff.mp hn]
    exact .inl rfl
  · split
    · exact .inr ⟨_, rfl⟩
    · exact .inl rfl

/-- The slide notice aside, stage 5 delivers its triggers. -/
theorem State.deliverAll_stage5 (s : State) (u : Slide) (chs : List AxleChange) : ∃ y, State.Quiet s y ∧
    s.deliverAll (stage5Messages u chs) = y.deliverAll ((slideTriggers u chs).map Message.trigger) := by
  rcases stage5Messages_eq u chs with h | ⟨payload, h⟩ <;> rw [h]
  · exact ⟨s, .refl s, rfl⟩
  · exact ⟨_, State.handUrgent_quiet s .slideNotice payload, rfl⟩

/-! ### A speed set arrival -/

/-- The slide unit after stages 1 to 4 of an arrival. -/
def State.slideMeasured (s : State) : Slide :=
  s.slide.measured s.config s.demand.mode s.acq.axles (eligibleVrefs s.peers.entries s.config.group) s.now

/-- The axles' changes in stage 4 of an arrival. -/
def State.slideChanges (s : State) : List AxleChange :=
  s.slide.changes s.config s.demand.mode s.acq.axles (eligibleVrefs s.peers.entries s.config.group) s.now

/-- The slide unit after stage 5 of an arrival. -/
def State.slideReduced (s : State) : Slide := s.slideMeasured.stage5 s.config (slideEntries s.slideChanges) s.now

/-- The slide unit after an arrival. -/
def State.slideArrived (s : State) : Slide :=
  s.slide.arrive s.config s.demand.mode s.acq.axles (eligibleVrefs s.peers.entries s.config.group) s.now

/-- The state after the deliveries of stage 4 of an arrival. -/
def State.afterStage4 (s : State) : State :=
  State.deliverAll { s with slide := s.slideMeasured } (stage4Messages s.slideChanges s.slideMeasured.vref)

/-- The state after the deliveries of stage 5 of an arrival. -/
def State.afterStage5 (s : State) : State :=
  State.deliverAll { s.afterStage4 with slide := s.slideReduced } (stage5Messages s.slideReduced s.slideChanges)

/-- An arrival is its two stages of deliveries, and the records of stage 7. -/
theorem State.speedArrival_eq (s : State) :
    s.speedArrival = State.recordSpeeds { s.afterStage5 with slide := s.slideArrived } := by
  have hx : s.afterStage4.slide.stage5 s.config (slideEntries s.slideChanges) s.now = s.slideReduced := by
    rw [show s.afterStage4.slide = s.slideMeasured from (State.deliverAll_delivers _ _).slide]
    rfl
  have hy : s.afterStage5.slide = s.slideReduced := (State.deliverAll_delivers _ _).slide
  have hz : (s.afterStage5.slide.stage6 s.config s.now).stage7 = s.slideArrived := by rw [hy]; rfl
  rw [← hz, State.afterStage5, ← hx]
  rfl

/-- Stage 4 takes its triggers. -/
theorem State.afterStage4_takes {s : State} (hs : s.Taking) : State.Takes s s.afterStage4
    (s.slideChanges.flatMap fun ch => ch.stage4Triggers s.slideMeasured.vref) 0 := by
  have hq : State.Quiet s { s with slide := s.slideMeasured } := .of_units s _ _ _ _ _ _
  have h := State.deliverAll_takes (stage4Messages_ordinary s.slideChanges s.slideMeasured.vref) (hq.taking hs)
  rw [stage4Messages_triggers] at h
  exact hq.thenTakes h

/-- No trigger of stage 4 is a SLIDE_ENTRY. -/
theorem State.stage4Triggers_cause (s : State) :
    ∀ x ∈ s.slideChanges.flatMap fun ch => ch.stage4Triggers s.slideMeasured.vref, x.cause ≠ .slideEntry := by
  intro x hx
  obtain ⟨ch, -, hc⟩ := List.mem_flatMap.mp hx
  exact AxleChange.stage4Triggers_cause hc

/-- Stage 4 leaves the holdoff. -/
theorem State.afterStage4_holdoff {s : State} (hs : s.Taking) :
    s.afterStage4.recorder.holdoff = s.recorder.holdoff :=
  (State.afterStage4_takes hs).holdoff s.stage4Triggers_cause

/-- Three changes raise at most three triggers in stage 4. -/
theorem State.stage4Triggers_length (s : State) :
    (s.slideChanges.flatMap fun ch => ch.stage4Triggers s.slideMeasured.vref).length ≤ 3 := by
  unfold State.slideChanges Slide.changes axleChanges
  simp only [List.flatMap_cons, List.flatMap_nil, List.length_append, List.length_nil]
  have h := fun ch : AxleChange => ch.stage4Triggers_length s.slideMeasured.vref
  exact Nat.add_le_add (h _) (Nat.add_le_add (h _) (Nat.add_le_add (h _) le_rfl))

/-- An arrival is stage 4, then its SLIDE_ENTRY triggers, between quiet work. -/
theorem State.speedArrival_stages (s : State) : ∃ y, State.Quiet s.afterStage4 y ∧
    State.Quiet (y.deliverAll ((slideTriggers s.slideReduced s.slideChanges).map Message.trigger)) s.speedArrival := by
  obtain ⟨y, hy, he⟩ := State.deliverAll_stage5 { s.afterStage4 with slide := s.slideReduced } s.slideReduced
    s.slideChanges
  refine ⟨y, .trans (.of_units _ _ _ _ _ _ _) hy, ?_⟩
  rw [State.speedArrival_eq, State.afterStage5, he]
  exact .trans (.of_units _ _ _ _ _ _ _) (State.recordSpeeds_quiet _)

/-- Within the holdoff an arrival takes the triggers of stage 4 and counts every SLIDE_ENTRY. -/
theorem State.speedArrival_takes_held {s : State} (hs : s.Taking) (hh : s.HoldoffRuns) : State.Takes s s.speedArrival
    (s.slideChanges.flatMap fun ch => ch.stage4Triggers s.slideMeasured.vref)
    (slideTriggers s.slideReduced s.slideChanges).length := by
  obtain ⟨y, hy, ht⟩ := s.speedArrival_stages
  have h₄ := (State.afterStage4_takes hs).then hy
  have hr := (State.HoldoffRuns.congr h₄.clock (hy.holdoff.trans (State.afterStage4_holdoff hs))).mpr hh
  have h := (h₄.trans (State.deliverAll_heldOff (fun x hx => slideTriggers_cause hx) (h₄.taking hs) hr)).then ht
  rwa [List.append_nil, Nat.zero_add] at h

/-- Outside it, with room for four more causes, it takes the first SLIDE_ENTRY too and counts the others. -/
theorem State.speedArrival_takes_first {s : State} {inc : Incident} (hi : s.TakesTriggers inc) (hh : ¬s.HoldoffRuns)
    (hl : inc.causes.length ≤ 4) : State.Takes s s.speedArrival
      ((s.slideChanges.flatMap fun ch => ch.stage4Triggers s.slideMeasured.vref) ++
        (slideTriggers s.slideReduced s.slideChanges).take 1)
      ((slideTriggers s.slideReduced s.slideChanges).length - 1) ∧
    s.speedArrival.recorder.holdoff =
      if slideTriggers s.slideReduced s.slideChanges = [] then s.recorder.holdoff else some s.now := by
  have hs : s.Taking := ⟨inc, hi⟩
  obtain ⟨y, hy, ht⟩ := s.speedArrival_stages
  have h₄ := (State.afterStage4_takes hs).then hy
  have hho := hy.holdoff.trans (State.afterStage4_holdoff hs)
  obtain ⟨mid, hm, hx⟩ := h₄.takes inc hi
  have hroom : mid.causes.length < 8 := by
    have h₃ := s.stage4Triggers_length
    rw [hx, List.length_take, List.length_append, List.length_map]
    omega
  obtain ⟨h₅, hn⟩ := State.deliverAll_firstEntry (fun x hx => slideTriggers_cause hx) hm
    (mt (State.HoldoffRuns.congr h₄.clock hho).mp hh) hroom
  refine ⟨?_, ?_⟩
  · have h := (h₄.trans h₅).then ht
    rwa [Nat.zero_add] at h
  · rw [ht.holdoff, hn, hho, State.now, h₄.clock]
    rfl

/-! ### What stays of stages 4 and 5 at the end of an arrival -/

/-- Stage 5 changes neither Vref nor the machines. -/
theorem Slide.stage5_keeps (u : Slide) (c : Configuration) (es : List AxleChange) (now : Time) :
    (u.stage5 c es now).vref = u.vref ∧ (u.stage5 c es now).machines = u.machines := by
  unfold Slide.stage5
  split <;> exact ⟨rfl, rfl⟩

/-- Stage 6 does not change Vref. -/
theorem Slide.stage6_vref (u : Slide) (c : Configuration) (now : Time) : (u.stage6 c now).vref = u.vref := by
  unfold Slide.stage6
  extract_lets calm a
  split <;> rfl

/-- With an axle in SLIDE there is no recovery (R56). -/
theorem Slide.stage6_sliding {u : Slide} {i : AxleId} (h : (u.machines.get i).state = .slide) (c : Configuration)
    (now : Time) : u.stage6 c now = u := by
  have hq : u.quiet = false := by
    have hd : (u.machines.get i).state.doubtful = true := by rw [h]; rfl
    unfold Slide.quiet Tri.toList
    cases i <;> simp_all [Tri.get]
  unfold Slide.stage6
  dsimp only
  rw [hq]
  exact if_neg (by simp)

theorem State.slideArrived_vref (s : State) : s.slideArrived.vref = s.slideMeasured.vref :=
  (Slide.stage6_vref _ _ _).trans (Slide.stage5_keeps _ _ _ _).1

theorem State.slideArrived_machines (s : State) : s.slideArrived.machines = s.slideMeasured.machines :=
  Slide.arrive_machines _ _ _ _ _ _

/-- With an axle in SLIDE after it, an arrival leaves the adhesion factor and limit as stage 5 does. -/
theorem State.slideArrived_sliding {s : State} {i : AxleId} (h : (s.slideArrived.machines.get i).state = .slide) :
    s.slideArrived.a = s.slideReduced.a ∧ s.slideArrived.al = s.slideReduced.al := by
  have hm : s.slideReduced.machines = s.slideArrived.machines := by
    rw [State.slideArrived_machines]
    exact (Slide.stage5_keeps _ _ _ _).2
  rw [← hm] at h
  have he : s.slideArrived = s.slideReduced.stage7 := congrArg Slide.stage7 (Slide.stage6_sliding h s.config s.now)
  rw [he]
  exact ⟨rfl, rfl⟩

/-- The change of one axle at an arrival. -/
def State.axleChange (s : State) (i : AxleId) : AxleChange :=
  ⟨i, s.slide.machines.get i, s.slideArrived.machines.get i, (s.acq.axles.get i).v⟩

theorem State.slideChanges_eq (s : State) :
    s.slideChanges = [s.axleChange .one, s.axleChange .two, s.axleChange .three] := by
  unfold State.axleChange State.slideChanges Slide.changes axleChanges
  rw [Slide.stage2_machines, State.slideArrived_machines]
  rfl

/-- The triggers of stage 4, axle by axle, with the Vref that the arrival leaves. -/
theorem State.stage4Triggers_eq (s : State) :
    (s.slideChanges.flatMap fun ch => ch.stage4Triggers s.slideMeasured.vref) =
      (s.axleChange .one).stage4Triggers s.slideArrived.vref ++
        (s.axleChange .two).stage4Triggers s.slideArrived.vref ++
        (s.axleChange .three).stage4Triggers s.slideArrived.vref := by
  rw [State.slideChanges_eq, State.slideArrived_vref]
  simp

/-- The SLIDE_ENTRY trigger of one axle at an arrival, with the values that the arrival leaves. -/
def State.slideTriggerOf (s : State) (i : AxleId) : List Trigger :=
  if (s.slide.machines.get i).state ≠ .slide ∧ (s.slideArrived.machines.get i).state = .slide then
    [(s.axleChange i).slideTrigger s.slideArrived]
  else []

/-- The SLIDE_ENTRY triggers, axle by axle: where one is raised, stages 6 and 7 leave its values. -/
theorem State.slideTriggers_axles (s : State) : slideTriggers s.slideReduced s.slideChanges =
    s.slideTriggerOf .one ++ s.slideTriggerOf .two ++ s.slideTriggerOf .three := by
  have h : ∀ i, (if (s.axleChange i).old.state ≠ .slide ∧ (s.axleChange i).new.state = .slide then
      [(s.axleChange i).slideTrigger s.slideReduced] else []) = s.slideTriggerOf i := by
    intro i
    unfold State.slideTriggerOf
    refine if_ctx_congr Iff.rfl (fun hc => ?_) fun _ => rfl
    obtain ⟨ha, hal⟩ := State.slideArrived_sliding hc.2
    have hv : s.slideArrived.vref = s.slideReduced.vref :=
      s.slideArrived_vref.trans (Slide.stage5_keeps _ _ _ _).1.symm
    simp only [AxleChange.slideTrigger, ha, hal, hv]
  rw [slideTriggers_eq, State.slideChanges_eq, List.flatMap_cons, List.flatMap_cons, List.flatMap_cons,
    List.flatMap_nil, List.append_nil, h, h, h, List.append_assoc]

end Sys2Proof.Machine
end

section
/-! SUPPORT. The triggers of the three units, assembled for their events. -/

namespace Sys2Proof.Machine

/-- What the expiry of a speed window does after the arrival is quiet, and leaves the slide unit. -/
theorem State.windowExpires_quiet (s : State) (faults : Tri Bool) :
    let x : State := { s with acq := s.acq.window faults s.handleLevel s.clock s.now s.stamp }
    State.Quiet x.speedArrival (s.windowExpires faults) ∧ (s.windowExpires faults).slide = x.slideArrived := by
  intro x
  have hx : x.speedArrival.slide = x.slideArrived := (State.speedArrival_spec x).slide
  unfold State.windowExpires
  dsimp only
  change State.Quiet _ (if x.speedArrival.slide.standstill = _ then _ else _) ∧ _
  split
  · exact ⟨.refl _, hx⟩
  · refine ⟨State.standstillChanged_quiet _, ?_⟩
    rw [State.standstillChanged_frame]
    exact hx

/-- SPEED_WINDOW_EXPIRY at its time, seen from the state in which the speed set arrives: quiet work follows the
arrival. -/
theorem exec_speedWindowExpiry_arrival {s : State} {dt : Nat} (hr : s.runPhase = .running)
    (hd : s.acq.windowDue ≤ s.clock + dt) (f₁ f₂ f₃ : Bool) : ∃ x t, State.Quiet (s.advance dt) x ∧
      exec (.speedWindowExpiry dt f₁ f₂ f₃) s = .next t ∧ State.Quiet x.speedArrival t ∧ t.slide = x.slideArrived ∧
      x.slide = s.slide := by
  obtain ⟨hq, hsl⟩ := State.windowExpires_quiet (s.advance dt) ⟨f₁, f₂, f₃⟩
  exact ⟨_, _, .of_units _ _ _ _ _ _ _, exec_speedWindowExpiry_running hr hd f₁ f₂ f₃,
    hq.trans (State.recordChannels_quiet _ _), (State.recordChannels_delivers _ _).slide.trans hsl, rfl⟩

/-- Time alone is quiet but for the clock: the Recorder takes triggers as before. -/
theorem State.TakesTriggers.advance {s : State} {inc : Incident} (h : s.TakesTriggers inc) (dt : Nat) :
    (s.advance dt).TakesTriggers inc := h

/-- The four pressure channels' lists, one after the other. -/
theorem flatMap_pressIds {α : Type} (f : PressId → List α) :
    [PressId.bp, .bc, .ind, .mr].flatMap f = f .bp ++ f .bc ++ f .ind ++ f .mr := by
  simp

/-- CONTROL_CYCLE of the running part at its time: the work, and the channel-state records that follow. -/
theorem exec_controlCycle_running {s : State} {dt : Nat} (hr : s.runPhase = .running)
    (hd : s.demand.cycleDue ≤ s.clock + dt) : exec (.controlCycle dt) s =
      .next (State.recordChannels (s.advance dt) (s.advance dt).controlCycle) :=
  congrArg _ (State.eventIf_running hr (decide_eq_true hd))

/-- Settles O39: the triggers of a scan completion (`State.scanCompletes_takes`), of a speed set arrival
(`State.speedArrival_takes_held`, `State.speedArrival_takes_first`) and of a control cycle
(`State.controlCycle_takes`). -/
theorem unitsRaiseTheirTriggers : Obligations.UnitsRaiseTheirTriggers := by
  refine ⟨fun dt inc s hr hd hi => ?_, fun dt f₁ f₂ f₃ inc s hr hd hi => ?_, fun dt inc s hr hd hi => ?_⟩
  · refine ⟨_, exec_scanCompletion_running hr hd, ?_⟩
    have h := State.scanCompletes_takes (s := s.advance dt) ⟨inc, hi.advance dt⟩
    have hb := (State.scanCompletes_brakes (s.advance dt)).acq
    have hc := State.recordChannels_delivers (s.advance dt) (s.advance dt).scanCompletes
    have hq := State.recordChannels_quiet (s.advance dt) (s.advance dt).scanCompletes
    generalize (s.advance dt).scanCompletes = w at h hb hc hq ⊢
    generalize State.recordChannels (s.advance dt) w = t at hc hq ⊢
    have ht := (h.then hq).took (hi.advance dt)
    have hfr : (s.advance dt).frictionRaised w = (s.advance dt).frictionRaised t := by
      unfold State.frictionRaised
      rw [hc.outputs, hc.acq, hc.demand]
    rw [flatMap_pressIds, hfr, ← hb, ← hc.acq] at ht
    dsimp only at ht ⊢
    cases hv : t.acq.latestChans.bp.value with
    | none =>
      rw [hv] at ht
      exact ht
    | some p =>
      rw [hv, detectionTriggers_local] at ht
      exact ht
  · obtain ⟨x, t, hx, ht, hq, hsl, hold⟩ := exec_speedWindowExpiry_arrival hr hd f₁ f₂ f₃
    have hxi : x.TakesTriggers inc := hx.takesTriggers (hi.advance dt)
    have hruns : x.HoldoffRuns ↔ (s.advance dt).HoldoffRuns :=
      State.HoldoffRuns.congr hx.clock hx.holdoff
    refine ⟨t, ht, ?_⟩
    rw [hsl, ← hold]
    refine ⟨fun hh => ?_, fun hh hl => ?_⟩
    · have h := (hx.thenTakes (State.speedArrival_takes_held ⟨inc, hxi⟩ (hruns.mpr hh))).then hq
      have hn := h.holdoff x.stage4Triggers_cause
      rw [State.stage4Triggers_eq, State.slideTriggers_axles] at h
      exact ⟨h.took (hi.advance dt), hn, h.counted⟩
    · obtain ⟨ha, hn⟩ := State.speedArrival_takes_first hxi (mt hruns.mp hh) hl
      have h := (hx.thenTakes ha).then hq
      rw [State.stage4Triggers_eq, State.slideTriggers_axles] at h
      rw [State.slideTriggers_axles, hx.holdoff, State.now, hx.clock] at hn
      exact ⟨h.took (hi.advance dt), hq.holdoff.trans hn, h.counted⟩
  · refine ⟨_, exec_controlCycle_running hr hd, ?_⟩
    have h := State.controlCycle_takes (s := s.advance dt) ⟨inc, hi.advance dt⟩
    have hc := State.recordChannels_delivers (s.advance dt) (s.advance dt).controlCycle
    have hq := State.recordChannels_quiet (s.advance dt) (s.advance dt).controlCycle
    rw [hc.outputs, hc.sharing]
    exact (h.then hq).took (hi.advance dt)

end Sys2Proof.Machine
end

section
/-! SUPPORT. A control cycle stage by stage: what the link check leaves, the values of the cycle, and the mode evaluation
that closes it (R24, R111). -/

namespace Sys2Proof.Machine

/-- The mode that closes a cycle: EMERGENCY stays, any other mode is worked out anew (R24). -/
def closingMode (mode : Mode) (d sd ecmd fcmd : Nat) : Mode :=
  if mode = .emergency then .emergency else cycleMode d sd ecmd fcmd

theorem closingMode_other {mode : Mode} (h : mode ≠ .emergency) (d sd ecmd fcmd : Nat) :
    closingMode mode d sd ecmd fcmd = cycleMode d sd ecmd fcmd := if_neg h

/-- A cycle works out no EMERGENCY. -/
theorem cycleMode_ne_emergency (d sd ecmd fcmd : Nat) : cycleMode d sd ecmd fcmd ≠ .emergency := by
  unfold cycleMode
  split <;> simp

/-- A cycle neither enters nor leaves EMERGENCY. -/
theorem closingMode_emergency_iff (mode : Mode) (d sd ecmd fcmd : Nat) :
    closingMode mode d sd ecmd fcmd = .emergency ↔ mode = .emergency := by
  unfold closingMode
  split
  · simp [*]
  · simp [*, cycleMode_ne_emergency]

/-- The state with the mode that closes its cycle. -/
def State.withClosingMode (s : State) : State :=
  { s with demand := { s.demand with
      mode := closingMode s.demand.mode s.demand.d s.sharing.sd s.outputs.ecmd s.outputs.fcmd } }

/-- The mode evaluation sets the closing mode and delivers its event record. -/
theorem State.evaluateMode_delivers (s : State) : State.Delivers s.withClosingMode s.evaluateMode := by
  have hsame : closingMode s.demand.mode s.demand.d s.sharing.sd s.outputs.ecmd s.outputs.fcmd = s.demand.mode →
      State.Delivers s.withClosingMode s := by
    intro h
    unfold State.withClosingMode
    rw [h]
    exact .refl s
  unfold State.evaluateMode
  dsimp only
  split
  · rename_i hm
    exact hsame (by rw [hm]; rfl)
  · rename_i hm
    split
    · rename_i hc
      exact hsame ((closingMode_other hm _ _ _ _).trans hc)
    · unfold State.withClosingMode
      rw [closingMode_other hm]
      exact State.changeMode_delivers _ _ _ _

/-- The state that a cycle's outputs stage and mode evaluation leave, short of messages. -/
def State.cycled (s : State) : State :=
  State.withClosingMode { s with outputs := s.stagedOutputs, slide := { s.slide with slideCut := false } }

theorem State.Delivers.withClosingMode {s t : State} (h : State.Delivers s t) :
    State.Delivers s.withClosingMode t.withClosingMode := by
  have hd := State.Delivers.with_sections h t.withClosingMode.demand t.sharing t.outputs
  unfold State.withClosingMode at hd ⊢
  rw [h.demand, h.sharing, h.outputs] at hd ⊢
  exact hd

/-- After the link check a cycle works out the demand and the shares, drives the outputs and closes with the mode. -/
theorem State.controlCycle_spec (s : State) : ∃ y, State.Talks
    { s with
      demand := { s.demand with cycleDue := s.demand.cycleDue + 20000 }
      outputs := (s.outputs.linkCheck s.config.etol).1 } y ∧
    State.Delivers y.computeDemand.sharingStage.cycled s.controlCycle := by
  have he := State.earlyTest_talks { s with demand := { s.demand with cycleDue := s.demand.cycleDue + 20000 } }
  unfold State.controlCycle
  dsimp only
  generalize State.earlyTest _ = x at he ⊢
  refine ⟨x.linkCheck, ?_, ?_⟩
  · have hl : State.Delivers { x with outputs := (x.outputs.linkCheck x.config.etol).1 } x.linkCheck :=
      State.deliverAll_delivers _ _
    have ho : State.Talks
        { s with
          demand := { s.demand with cycleDue := s.demand.cycleDue + 20000 }
          outputs := (s.outputs.linkCheck s.config.etol).1 }
        { x with outputs := (x.outputs.linkCheck x.config.etol).1 } := by
      rw [he.outputs, he.config]
      refine ⟨?_, he.moves, he.urgent, he.counts, he.grows, he.scans, he.numbers, he.sound⟩
      conv => lhs; rw [he.frame]
    exact ho.trans hl.talks
  · generalize x.linkCheck.computeDemand.sharingStage = z
    exact ((State.outputStage_delivers z).withClosingMode.trans (State.evaluateMode_delivers _)).trans
      (State.recordBlend_delivers _)

end Sys2Proof.Machine
end

section
/-! SUPPORT. What every step keeps of the braking state (R30, laws 3, 4 and 9). Work outside the control cycle and the reset
sequence is `State.Steers`: it leaves Ecmd, the latest request and the limits of the cycle. -/

namespace Sys2Proof.Machine

/-- What work outside the control cycle and the reset sequence keeps of the braking state. -/
structure State.Steers (s t : State) : Prop where
  exit : s.ExitTimerSound → t.ExitTimerSound
  targets : s.TargetsSafe → t.TargetsSafe
  config : t.config = s.config
  al : t.sharing.al = s.sharing.al
  ecmd : t.outputs.ecmd = s.outputs.ecmd
  latest : t.outputs.latest = s.outputs.latest

theorem State.Steers.refl (s : State) : State.Steers s s := ⟨id, id, rfl, rfl, rfl, rfl⟩

theorem State.Steers.trans {s t u : State} (h : State.Steers s t) (h' : State.Steers t u) : State.Steers s u :=
  ⟨h'.exit ∘ h.exit, h'.targets ∘ h.targets, h'.config.trans h.config, h'.al.trans h.al, h'.ecmd.trans h.ecmd,
    h'.latest.trans h.latest⟩

/-- Work that leaves the configuration, the slide unit and the Blending Unit's three sections. -/
theorem State.Steers.of_same {s t : State} (hc : t.config = s.config) (hu : t.slide = s.slide)
    (hd : t.demand = s.demand) (hr : t.sharing = s.sharing) (ho : t.outputs = s.outputs) : State.Steers s t := by
  refine ⟨?_, ?_, hc, by rw [hr], by rw [ho], by rw [ho]⟩
  · unfold State.ExitTimerSound; rw [hd, hu]; exact id
  · unfold State.TargetsSafe; rw [hr]; exact id

theorem State.Stores.steers {s t : State} (h : State.Stores s t) : State.Steers s t :=
  .of_same h.config h.slide h.demand h.sharing h.outputs

theorem State.Delivers.steers {s t : State} (h : State.Delivers s t) : State.Steers s t := h.stores.steers

/-- A change of the output section that leaves Ecmd and the latest request. -/
theorem State.Steers.of_outputs (s : State) (o : Outputs) (he : o.ecmd = s.outputs.ecmd)
    (hl : o.latest = s.outputs.latest) : State.Steers s { s with outputs := o } := ⟨id, id, rfl, rfl, he, hl⟩

/-- A change of the demand section that keeps R30. -/
theorem State.Steers.of_demand (s : State) (d : Demand)
    (h : s.ExitTimerSound → State.ExitTimerSound { s with demand := d }) : State.Steers s { s with demand := d } :=
  ⟨h, id, rfl, rfl, rfl, rfl⟩

/-! ### The exit timer (R30) -/

theorem restartedTimer_ne_stopped {standstill : Bool} {clock : Nat} (h : restartedTimer standstill clock ≠ .stopped) :
    standstill = true := by
  unfold restartedTimer at h
  split at h
  · assumption
  · exact absurd rfl h

/-- A stopped timer meets R30. -/
theorem State.exitTimerSound_stopped {s : State} (h : s.demand.exitTimer = .stopped) : s.ExitTimerSound :=
  fun hn => absurd h hn

/-- Outside EMERGENCY R30 has the timer stopped. -/
theorem State.ExitTimerSound.stopped {s : State} (h : s.ExitTimerSound) (hm : s.demand.mode ≠ .emergency) :
    s.demand.exitTimer = .stopped := by
  by_contra hn
  exact hm (h hn).1

/-- A restart in EMERGENCY meets R30. -/
theorem State.restartExit_sound {s : State} (hm : s.demand.mode = .emergency) : s.restartExit.ExitTimerSound :=
  fun hn => ⟨hm, restartedTimer_ne_stopped hn⟩

/-- A change of the standstill flag, handed to the demand section, meets R30 anew. -/
theorem State.standstillChanged_sound {s : State}
    (h : s.demand.mode ≠ .emergency → s.demand.exitTimer = .stopped) : s.standstillChanged.ExitTimerSound := by
  unfold State.standstillChanged
  split
  · split
    · rename_i hm; exact State.restartExit_sound hm
    · rename_i hm; exact State.exitTimerSound_stopped (h hm)
  · exact State.exitTimerSound_stopped rfl

/-! ### The demand section -/

theorem State.restartExit_steers {s : State} (hm : s.demand.mode = .emergency) : State.Steers s s.restartExit :=
  .of_demand s _ fun _ => State.restartExit_sound hm

/-- Entry into EMERGENCY: targets of 0, and the exit timer restarted. -/
theorem State.enterEmergency_steers (s : State) (cause : EventCause) (more : List Byte) :
    State.Steers s (s.enterEmergency cause more) := by
  refine ⟨fun _ => State.restartExit_sound (by simp), fun _ => ?_, ?_, ?_, ?_, ?_⟩
  · exact ⟨Nat.zero_le _, Nat.zero_le _⟩
  all_goals simp [State.enterEmergency, State.driveEmergency]

theorem State.beginNotices_steers (s : State) (cause : Detection) (bp : Nat) :
    State.Steers s (s.beginNotices cause bp) := by
  unfold State.beginNotices
  refine .trans ?_ (State.handUrgent_delivers _ _ _).steers
  exact .of_demand s _ id

theorem State.detect_steers (s : State) (cause : Detection) (bp : Nat) (fall : Int) :
    State.Steers s (s.detect cause bp fall) := by
  unfold State.detect
  split
  · rename_i hm; exact State.restartExit_steers hm
  · exact ((State.enterEmergency_steers s _ _).trans (State.deliver_delivers _ _).steers).trans
      (State.beginNotices_steers _ _ _)

theorem State.takeNotice_steers (s : State) (f : GoodFrame) : State.Steers s (s.takeNotice f) := by
  unfold State.takeNotice
  split
  · rename_i hm; exact State.restartExit_steers hm
  · exact (State.enterEmergency_steers s _ _).trans (State.deliver_delivers _ _).steers

theorem State.repeatNotice_steers (s : State) : State.Steers s s.repeatNotice := by
  unfold State.repeatNotice
  split
  · exact .of_demand s _ id
  · refine .trans ?_ (State.handUrgent_delivers _ _ _).steers
    exact .of_demand s _ id

/-- The exit from EMERGENCY stops the timer. -/
theorem State.leaveEmergency_steers (s : State) : State.Steers s s.leaveEmergency := by
  refine ⟨fun _ => State.exitTimerSound_stopped rfl, ?_, ?_, ?_, ?_, ?_⟩
  · unfold State.leaveEmergency State.TargetsSafe
    simp
  all_goals simp [State.leaveEmergency]

/-- The exit check of a timer that is not stopped. -/
theorem State.exitCheck_steers {s : State} (h : s.demand.exitTimer ≠ .stopped) : State.Steers s s.exitCheck := by
  unfold State.exitCheck
  split
  · exact State.leaveEmergency_steers s
  · exact .of_demand s _ fun hs _ => hs h

theorem State.demandArrival_steers (s : State) : State.Steers s s.demandArrival := by
  unfold State.demandArrival
  split
  · exact State.detect_steers s _ _ _
  · split
    · rename_i he
      exact State.exitCheck_steers (by simp [he])
    · exact .refl s

/-! ### The output section and the other units -/

theorem State.driveEmergency_steers (s : State) : State.Steers s s.driveEmergency :=
  .of_outputs s _ (by simp) (by simp)

theorem State.frictionCheck_steers (s : State) : State.Steers s s.frictionCheck := by
  unfold State.frictionCheck
  dsimp only
  split
  · exact .of_outputs s _ rfl rfl
  · split
    · refine .trans ?_ (State.deliver_delivers _ _).steers
      exact .of_outputs s _ rfl rfl
    · exact .of_outputs s _ rfl rfl

theorem State.emergencyDriven_steers (s : State) : State.Steers s s.emergencyDriven := by
  unfold State.emergencyDriven
  split
  · exact State.driveEmergency_steers s
  · exact .refl s

theorem State.outputArrival_steers (s : State) : State.Steers s s.outputArrival := by
  refine (State.emergencyDriven_steers s).trans ?_
  rw [State.outputArrival_eq]
  generalize s.emergencyDriven = x
  split
  · split
    · exact .of_outputs x _ rfl rfl
    · exact .refl x
  · exact State.frictionCheck_steers x

theorem State.scanCompletes_steers (s : State) : State.Steers s s.scanCompletes := by
  unfold State.scanCompletes
  refine .trans ?_ (.trans (.trans (.trans (State.deliverAll_delivers _ _).steers (State.demandArrival_steers _))
    (State.outputArrival_steers _)) (State.recordPressures_delivers _).steers)
  exact .of_same rfl rfl rfl rfl rfl

/-- A speed window's expiry: the flag and the timer change together. -/
theorem State.windowExpires_steers (s : State) (faults : Tri Bool) : State.Steers s (s.windowExpires faults) := by
  obtain ⟨u, timer, h⟩ := s.windowExpires_spec faults
  refine ⟨fun hs => ?_, ?_, h.config, by rw [h.sharing], by rw [h.outputs], by rw [h.outputs]⟩
  · have ha := (State.speedArrival_spec
      { s with acq := s.acq.window faults s.handleLevel s.clock s.now s.stamp }).demand
    unfold State.windowExpires
    dsimp only
    split
    · rename_i hst
      unfold State.ExitTimerSound
      rw [ha, hst]
      exact hs
    · exact State.standstillChanged_sound (by rw [ha]; exact hs.stopped)
  · unfold State.TargetsSafe; rw [h.sharing]; exact id

/-- A reply leaves Ecmd and the latest request. -/
theorem State.statusArrival_steers (s : State) (frame : List Byte) : State.Steers s (s.statusArrival frame) := by
  unfold State.statusArrival
  split
  · exact (State.bump_delivers s _).steers
  · split
    · exact (State.bump_delivers s _).steers
    · dsimp only
      split
      · refine .trans ?_ (State.deliverAll_delivers _ _).steers
        exact .of_outputs s _ rfl rfl
      · exact (State.bump_delivers s _).steers

theorem State.withPeers_steers (s : State) (r : List PeerEntry × List Message) : State.Steers s (s.withPeers r) := by
  refine .trans ?_ (State.withPeers_delivers s r).steers
  exact .of_same rfl rfl rfl rfl rfl

theorem State.dispatch_steers (s : State) (f : GoodFrame) : State.Steers s (s.dispatch f) := by
  unfold State.dispatch
  split
  · exact State.withPeers_steers s _
  · exact State.withPeers_steers s _
  · exact (State.takeNotice_steers s f).trans (State.withPeers_steers _ _)
  · exact (State.raise_delivers s _).steers.trans (State.withPeers_steers _ _)

theorem State.takeFrame_steers (s : State) (f : GoodFrame) : State.Steers s (s.takeFrame f) := by
  unfold State.takeFrame
  split
  · unfold State.ownAddressFrame
    split
    · exact (State.clash_talks s f).stores.steers.trans (State.takeNotice_steers _ f)
    · exact (State.clash_talks s f).stores.steers
  · exact (State.dispatch_steers s f).trans (State.mirror_delivers _ _ _ _ _).steers

theorem State.receive_steers (s : State) (frame : List Byte) (extra : Nat) : State.Steers s (s.receive frame extra) := by
  have h₀ : State.Steers s { s with line := { s.line with lastActivityEnd := some s.clock } } :=
    .of_same rfl rfl rfl rfl rfl
  unfold State.receive
  dsimp only
  split
  · exact h₀.trans (State.bump_delivers _ _).steers
  · exact h₀.trans (State.bump_delivers _ _).steers
  · exact h₀.trans (State.bump_delivers _ _).steers
  · exact h₀.trans (State.takeFrame_steers _ _)

theorem State.convert_steers (s : State) (i : PressId) (c : Conversion) : State.Steers s (s.convert i c) := by
  unfold State.convert
  dsimp only
  split
  · exact .refl s
  · exact .of_same rfl rfl rfl rfl rfl

end Sys2Proof.Machine
end

section
/-! SUPPORT. The emergency setpoint (R123, law 9), the control cycle and the reset sequence, and what every step keeps of
the braking state. -/

namespace Sys2Proof.Machine

/-! ### The emergency setpoint (R123) -/

/-- The setpoint stays held when mode, configuration, IND's value and BCout stay. -/
theorem State.EmergencyHeld.of_same {s t : State} (hm : t.demand.mode = s.demand.mode) (hc : t.config = s.config)
    (hi : t.acq.latestChans.ind.value = s.acq.latestChans.ind.value) (hb : t.outputs.bcOut = s.outputs.bcOut) :
    s.EmergencyHeld → t.EmergencyHeld := by
  unfold State.EmergencyHeld
  rw [hm, hc, hi, hb]
  exact id

theorem State.Stores.held {s t : State} (h : State.Stores s t) : s.EmergencyHeld → t.EmergencyHeld :=
  .of_same (by rw [h.demand]) h.config (by rw [h.acq]) (by rw [h.outputs])

theorem State.Delivers.held {s t : State} (h : State.Delivers s t) : s.EmergencyHeld → t.EmergencyHeld := h.stores.held

/-- Outside EMERGENCY the law asks nothing. -/
theorem State.emergencyHeld_other {s : State} (h : s.demand.mode ≠ .emergency) : s.EmergencyHeld :=
  fun hm => absurd hm h

theorem State.driveEmergency_held (s : State) : s.driveEmergency.EmergencyHeld := fun _ => by
  simp [State.driveEmergency, emergencyPressure]

/-- Entry into EMERGENCY drives the setpoint. -/
theorem State.enterEmergency_held (s : State) (cause : EventCause) (more : List Byte) :
    (s.enterEmergency cause more).EmergencyHeld :=
  State.EmergencyHeld.of_same rfl rfl rfl rfl (State.driveEmergency_held (s.changeMode .emergency cause more))

theorem State.restartExit_held {s : State} : s.EmergencyHeld → s.restartExit.EmergencyHeld := .of_same rfl rfl rfl rfl

theorem State.takeNotice_held {s : State} (f : GoodFrame) (h : s.EmergencyHeld) : (s.takeNotice f).EmergencyHeld := by
  unfold State.takeNotice
  split
  · exact State.restartExit_held h
  · exact (State.deliver_delivers _ _).held (State.enterEmergency_held _ _ _)

theorem State.repeatNotice_held {s : State} (h : s.EmergencyHeld) : s.repeatNotice.EmergencyHeld := by
  unfold State.repeatNotice
  split
  · exact .of_same rfl rfl rfl rfl h
  · refine (State.handUrgent_delivers _ _ _).held ?_
    exact .of_same rfl rfl rfl rfl h

/-- The exit from EMERGENCY goes to another mode (R31). -/
theorem State.leaveEmergency_mode (s : State) : s.leaveEmergency.demand.mode ≠ .emergency := by
  unfold State.leaveEmergency
  simp only [State.changeMode_demand]
  split <;> simp

theorem State.exitCheck_held {s : State} (h : s.EmergencyHeld) : s.exitCheck.EmergencyHeld := by
  unfold State.exitCheck
  split
  · exact State.emergencyHeld_other s.leaveEmergency_mode
  · exact .of_same rfl rfl rfl rfl h

theorem State.emergencyDriven_held (s : State) : s.emergencyDriven.EmergencyHeld := by
  unfold State.emergencyDriven
  split
  · exact s.driveEmergency_held
  · rename_i hm; exact State.emergencyHeld_other hm

theorem State.frictionCheck_held {s : State} (h : s.EmergencyHeld) : s.frictionCheck.EmergencyHeld := by
  unfold State.frictionCheck
  dsimp only
  split
  · exact .of_same rfl rfl rfl rfl h
  · split
    · refine (State.deliver_delivers _ _).held ?_
      exact .of_same rfl rfl rfl rfl h
    · exact .of_same rfl rfl rfl rfl h

/-- A pressure set arrival drives the setpoint by its IND, whatever stood before. -/
theorem State.outputArrival_held (s : State) : s.outputArrival.EmergencyHeld := by
  have h := s.emergencyDriven_held
  rw [State.outputArrival_eq]
  generalize s.emergencyDriven = x at h ⊢
  split
  · split
    · exact .of_same rfl rfl rfl rfl h
    · exact h
  · exact State.frictionCheck_held h

theorem State.scanCompletes_held (s : State) : s.scanCompletes.EmergencyHeld :=
  (State.recordPressures_delivers _).held (State.outputArrival_held _)

/-- A speed window's expiry leaves the mode, the latest pressure set and the setpoint. -/
theorem State.windowExpires_held {s : State} (faults : Tri Bool) (h : s.EmergencyHeld) :
    (s.windowExpires faults).EmergencyHeld := by
  obtain ⟨u, timer, hd⟩ := s.windowExpires_spec faults
  refine hd.held ?_
  exact .of_same rfl rfl rfl rfl h

theorem State.statusArrival_held {s : State} (frame : List Byte) (h : s.EmergencyHeld) :
    (s.statusArrival frame).EmergencyHeld := by
  unfold State.statusArrival
  split
  · exact (State.bump_delivers s _).held h
  · split
    · exact (State.bump_delivers s _).held h
    · dsimp only
      split
      · refine (State.deliverAll_delivers _ _).held ?_
        exact .of_same rfl rfl rfl rfl h
      · exact (State.bump_delivers s _).held h

theorem State.withPeers_held {s : State} (r : List PeerEntry × List Message) (h : s.EmergencyHeld) :
    (s.withPeers r).EmergencyHeld := by
  refine (State.withPeers_delivers s r).held ?_
  exact .of_same rfl rfl rfl rfl h

theorem State.dispatch_held {s : State} (f : GoodFrame) (h : s.EmergencyHeld) : (s.dispatch f).EmergencyHeld := by
  unfold State.dispatch
  split
  · exact State.withPeers_held _ h
  · exact State.withPeers_held _ h
  · exact State.withPeers_held _ (State.takeNotice_held f h)
  · exact State.withPeers_held _ ((State.raise_delivers s _).held h)

theorem State.takeFrame_held {s : State} (f : GoodFrame) (h : s.EmergencyHeld) : (s.takeFrame f).EmergencyHeld := by
  unfold State.takeFrame
  split
  · have hc := (State.clash_talks s f).stores.held h
    unfold State.ownAddressFrame
    split
    · exact State.takeNotice_held f hc
    · exact hc
  · exact (State.mirror_delivers _ _ _ _ _).held (State.dispatch_held f h)

theorem State.receive_held {s : State} (frame : List Byte) (extra : Nat) (h : s.EmergencyHeld) :
    (s.receive frame extra).EmergencyHeld := by
  have h₀ : State.EmergencyHeld { s with line := { s.line with lastActivityEnd := some s.clock } } :=
    .of_same rfl rfl rfl rfl h
  unfold State.receive
  dsimp only
  split
  · exact (State.bump_delivers _ _).held h₀
  · exact (State.bump_delivers _ _).held h₀
  · exact (State.bump_delivers _ _).held h₀
  · exact State.takeFrame_held _ h₀

/-- Before the first set every channel carries no value, so a conversion leaves the values of the latest set. -/
theorem State.convert_ind (s : State) (i : PressId) (c : Conversion) :
    (s.convert i c).acq.latestChans.ind.value = s.acq.latestChans.ind.value := by
  unfold State.convert
  dsimp only
  split
  · rfl
  · unfold Acquisition.latestChans
    dsimp only
    split <;> rfl

theorem State.convert_held {s : State} (i : PressId) (c : Conversion) (h : s.EmergencyHeld) :
    (s.convert i c).EmergencyHeld := by
  refine .of_same ?_ ?_ (s.convert_ind i c) ?_ h
  all_goals unfold State.convert; dsimp only; split <;> rfl

/-! ### What every command keeps -/

/-- What every command keeps of the braking state (R30, laws 3, 4 and 9). -/
structure State.KeepsBraking (s t : State) : Prop where
  exit : s.ExitTimerSound → t.ExitTimerSound
  held : s.EmergencyHeld → t.EmergencyHeld
  ecmd : s.demand.mode = .emergency → t.outputs.ecmd ≤ s.outputs.ecmd
  limits : s.TargetsSafe → s.RequestSafe → t.TargetsSafe ∧ t.RequestSafe

/-- Work that steers and holds the emergency setpoint. -/
theorem State.Steers.keepsBraking {s t : State} (h : State.Steers s t) (hh : s.EmergencyHeld → t.EmergencyHeld) :
    State.KeepsBraking s t := by
  refine ⟨h.exit, hh, fun _ => h.ecmd.le, fun ht hr => ⟨h.targets ht, ?_⟩⟩
  unfold State.RequestSafe
  rw [h.latest, h.config, h.al]
  exact hr

/-- Work that leaves the configuration, the slide unit, the three sections and IND's value. -/
theorem State.keepsBraking_of_same {s t : State} (hc : t.config = s.config)
    (hi : t.acq.latestChans.ind.value = s.acq.latestChans.ind.value) (hu : t.slide = s.slide)
    (hd : t.demand = s.demand) (hr : t.sharing = s.sharing) (ho : t.outputs = s.outputs) : State.KeepsBraking s t :=
  (State.Steers.of_same hc hu hd hr ho).keepsBraking (.of_same (by rw [hd]) hc hi (by rw [ho]))

theorem State.Stores.keepsBraking {s t : State} (h : State.Stores s t) : State.KeepsBraking s t :=
  h.steers.keepsBraking h.held

theorem State.advance_keepsBraking (s : State) (dt : Nat) : State.KeepsBraking s (s.advance dt) :=
  State.keepsBraking_of_same rfl rfl rfl rfl rfl rfl

/-- Time that passes before. -/
theorem State.KeepsBraking.after_advance {s t : State} {dt : Nat} (h : State.KeepsBraking (s.advance dt) t) :
    State.KeepsBraking s t := ⟨h.exit, h.held, h.ecmd, h.limits⟩

/-- Messages that follow. -/
theorem State.KeepsBraking.then_delivers {s t u : State} (h : State.KeepsBraking s t) (h' : State.Delivers t u) :
    State.KeepsBraking s u := by
  obtain ⟨he, hh, -, hl⟩ := h'.stores.keepsBraking
  refine ⟨he ∘ h.exit, hh ∘ h.held, fun hm => ?_, fun ht hr => ?_⟩
  · rw [h'.outputs]; exact h.ecmd hm
  · obtain ⟨ht', hr'⟩ := h.limits ht hr
    exact hl ht' hr'

/-- An event whose work keeps the braking state. -/
theorem State.event_keepsBraking {work : State → State} (hw : ∀ s, State.KeepsBraking s (work s)) (s : State)
    (dt : Nat) : State.KeepsBraking s (s.event dt work) := by
  unfold State.event
  dsimp only
  split
  · exact ((hw _).then_delivers (State.recordChannels_delivers _ _)).after_advance
  · exact s.advance_keepsBraking dt

/-- The same for an event taken under a condition. -/
theorem State.eventIf_keepsBraking {cond : State → Bool} {work : State → State}
    (hw : ∀ s, cond s = true → State.KeepsBraking s (work s)) (s : State) (dt : Nat) :
    State.KeepsBraking s (s.eventIf dt cond work) := by
  refine State.event_keepsBraking (fun s => ?_) s dt
  split
  · rename_i hc; exact hw s hc
  · exact (State.Steers.refl s).keepsBraking id

/-! ### The control cycle (R111) -/

/-- The output section after the outputs stage, but for the unserved run. -/
theorem State.stagedOutputs_spec (s : State) :
    s.stagedOutputs.ecmd =
        nextEcmd s.config s.slide.slideCut (targetIn s.demand.mode s.sharing.et) s.sharing.al s.outputs.ecmd ∧
      s.stagedOutputs.latest.map Request.ecmd = some s.stagedOutputs.ecmd ∧
      (s.demand.mode = .emergency →
        s.stagedOutputs.bcOut = emergencyPressure s.config s.acq.latestChans.ind.value) := by
  unfold State.stagedOutputs
  rw [Outputs.unserved_frame]
  exact Outputs.stage_spec _ _ _ _ _ _ _

/-- Law 4 after the outputs stage: the new request carries the capped Ecmd. -/
theorem State.cycled_requestSafe (s : State) : s.cycled.RequestSafe := by
  obtain ⟨he, hl, -⟩ := s.stagedOutputs_spec
  intro r hr
  have hr : s.stagedOutputs.latest = some r := hr
  have hre : r.ecmd = s.stagedOutputs.ecmd := by simpa [hr] using hl
  obtain ⟨hal, hemax⟩ := nextEcmd_le s.config s.slide.slideCut (targetIn s.demand.mode s.sharing.et) s.sharing.al
    s.outputs.ecmd
  rw [hre, he]
  exact ⟨hemax, hal⟩

/-- The end of a cycle keeps R30 and law 9. -/
theorem State.cycled_exit {s : State} (h : s.ExitTimerSound) : s.cycled.ExitTimerSound := by
  intro hn
  obtain ⟨hm, hst⟩ := h hn
  exact ⟨(closingMode_emergency_iff _ _ _ _ _).mpr hm, hst⟩

theorem State.cycled_held (s : State) : s.cycled.EmergencyHeld :=
  fun hm => s.stagedOutputs_spec.2.2 ((closingMode_emergency_iff _ _ _ _ _).mp hm)

theorem State.cycled_ecmd_le {s : State} (hm : s.demand.mode = .emergency) :
    s.cycled.outputs.ecmd ≤ s.outputs.ecmd := by
  refine s.stagedOutputs_spec.1.trans_le ?_
  rw [targetIn, if_pos hm]
  exact nextEcmd_zero _ _ _ _

/-- The demand computation sets the demand's own fields. -/
theorem Demand.compute_frame (m : Demand) (c : Configuration) (bp : Option Nat) (peers : List Nat) (h : Nat) :
    m.compute c bp peers h = { m with
      d := (m.compute c bp peers h).d, dBp := (m.compute c bp peers h).dBp, dH := (m.compute c bp peers h).dH
      lastOwn := (m.compute c bp peers h).lastOwn, assisted := (m.compute c bp peers h).assisted } := by
  cases bp <;> rfl

/-- Up to the outputs stage a cycle keeps mode, exit timer and Ecmd; law 3 holds of its shares. -/
theorem State.controlCycle_keepsBraking (s : State) : State.KeepsBraking s s.controlCycle := by
  obtain ⟨y, hy, hc⟩ := s.controlCycle_spec
  have hd : y.computeDemand.sharingStage.demand = y.demand.compute y.config y.acq.latestChans.bp.value
    (eligibleDemands y.peers.entries y.config.group) y.acq.handle.h := rfl
  have hmode : y.computeDemand.sharingStage.demand.mode = s.demand.mode := by
    rw [hd, Demand.compute_frame, hy.demand]
  have hecmd : y.computeDemand.sharingStage.outputs.ecmd = s.outputs.ecmd := by
    rw [State.sharingStage_outputs, State.computeDemand_outputs, hy.outputs]
    exact (Outputs.linkCheck_keeps s.outputs s.config.etol).1
  have hexit : s.ExitTimerSound → y.computeDemand.sharingStage.ExitTimerSound := by
    unfold State.ExitTimerSound
    rw [hmode, hd, Demand.compute_frame, hy.demand, State.sharingStage_slide, State.computeDemand_slide, hy.slide]
    exact id
  obtain ⟨he, hh, -, hl⟩ := hc.stores.keepsBraking
  refine ⟨fun hs => he (State.cycled_exit (hexit hs)), fun _ => hh (State.cycled_held _), fun hm => ?_, fun _ _ => ?_⟩
  · rw [hc.outputs, ← hecmd]
    exact State.cycled_ecmd_le (hmode.trans hm)
  · exact hl y.computeDemand.sharingStage_targetsSafe (State.cycled_requestSafe _)

/-! ### The reset sequence and the commands -/

/-- Reset values of the Blending Unit: EMERGENCY with the timer stopped, Pemg driven, no effort and no request (R34, R110,
R129). -/
theorem State.keepsBraking_of_reset {s t : State} (hd : t.demand = resetDemand) (hr : t.sharing = resetSharing t.config)
    (ho : t.outputs = resetOutputs t.config) (ha : t.acq.latest = none) : State.KeepsBraking s t := by
  refine ⟨fun _ => State.exitTimerSound_stopped (by rw [hd]; rfl), fun _ _ => ?_, fun _ => ?_, fun _ _ => ⟨?_, ?_⟩⟩
  · rw [ho, Acquisition.latestChans, ha]
    exact (Nat.max_zero _).symm
  · rw [ho]
    exact Nat.zero_le _
  · unfold State.TargetsSafe
    rw [hr]
    exact ⟨Nat.zero_le _, Nat.zero_le _⟩
  · intro r h
    rw [ho] at h
    cases h

theorem State.reinit_keepsBraking (s : State) (c : Configuration) (src : ConfigSource) :
    State.KeepsBraking s (s.reinit c src) := State.keepsBraking_of_reset rfl rfl rfl rfl

theorem State.beginReset_keepsBraking (s : State) (straps : Straps) (left : List Byte) :
    State.KeepsBraking s (s.beginReset straps left) := by
  unfold State.beginReset
  dsimp only
  split <;> exact State.keepsBraking_of_reset rfl rfl rfl rfl

/-- An exit timer that comes to its time is not stopped. -/
theorem exitTimer_ne_stopped_of_due {s : State} (h : s.timerDue s.demand.exitTimer.due = true) :
    s.demand.exitTimer ≠ .stopped := by
  intro hn
  rw [hn] at h
  cases h

/-- A command of the sensing and blending units or of the reset sequence keeps the braking state. -/
theorem exec_units_keepsBraking {c : Instr} (hc : touchesUnits c = true) (s : State) :
    ∃ t, exec c s = .next t ∧ State.KeepsBraking s t := by
  cases c <;> first | (simp only [touchesUnits, Bool.false_eq_true] at hc; done) | skip
  case reset dt straps left => exact ⟨_, rfl, s.beginReset_keepsBraking straps left⟩
  case configImageReadCompletion dt ok =>
    refine ⟨_, rfl, ?_⟩
    split
    · exact s.reinit_keepsBraking _ _
    · exact s.advance_keepsBraking dt
  case restartResponseSent dt straps left =>
    refine ⟨_, rfl, ?_⟩
    split
    · obtain ⟨out, hs⟩ := s.sendHead_eq
      rw [hs]
      obtain ⟨he, hh, hm, hl⟩ := State.beginReset_keepsBraking { s with serviceOut := out } straps left
      exact ⟨he, hh, hm, hl⟩
    · exact s.advance_keepsBraking dt
  case scanCompletion dt =>
    exact ⟨_, rfl, State.eventIf_keepsBraking
      (fun s _ => s.scanCompletes_steers.keepsBraking fun _ => s.scanCompletes_held) s dt⟩
  case toothPulse dt axle =>
    refine ⟨_, rfl, State.event_keepsBraking (fun s => ?_) s dt⟩
    exact State.keepsBraking_of_same rfl rfl rfl rfl rfl rfl
  case speedWindowExpiry dt f₁ f₂ f₃ =>
    exact ⟨_, rfl, State.eventIf_keepsBraking
      (fun s _ => (s.windowExpires_steers _).keepsBraking (State.windowExpires_held _)) s dt⟩
  case controlCycle dt => exact ⟨_, rfl, State.eventIf_keepsBraking (fun s _ => s.controlCycle_keepsBraking) s dt⟩
  case noticeRepeatExpiry dt =>
    exact ⟨_, rfl, State.eventIf_keepsBraking
      (fun s _ => s.repeatNotice_steers.keepsBraking State.repeatNotice_held) s dt⟩
  case exitTimerExpiry dt =>
    exact ⟨_, rfl, State.eventIf_keepsBraking
      (fun s hd => (State.exitCheck_steers (exitTimer_ne_stopped_of_due hd)).keepsBraking State.exitCheck_held) s dt⟩
  case statusReplyArrival dt frame =>
    exact ⟨_, rfl, State.event_keepsBraking
      (fun s => (s.statusArrival_steers frame).keepsBraking (State.statusArrival_held frame)) s dt⟩
  case receiveCompletion dt frame extra =>
    exact ⟨_, rfl, State.eventIf_keepsBraking
      (fun s _ => (s.receive_steers frame extra).keepsBraking (State.receive_held frame extra)) s dt⟩
  case pressureConversionCompletion dt i r =>
    exact ⟨_, rfl, State.event_keepsBraking
      (fun s => (s.convert_steers i r).keepsBraking (State.convert_held i r)) s dt⟩
  case handleInputEdge dt high => exact ⟨_, rfl, State.keepsBraking_of_same rfl rfl rfl rfl rfl rfl⟩

/-- Every command keeps the braking state. -/
theorem exec_keepsBraking {c : Instr} {s t : State} (h : exec c s = .next t) : State.KeepsBraking s t := by
  cases hc : touchesUnits c with
  | false =>
    obtain ⟨dt, hs⟩ := exec_stores c s t hc h
    exact hs.keepsBraking.after_advance
  | true =>
    obtain ⟨u, hu, hk⟩ := exec_units_keepsBraking hc s
    cases h.symm.trans hu
    exact hk

/-- Every step keeps the braking state. -/
theorem step_keepsBraking {s t : State} (h : step s = .next t) : State.KeepsBraking s t := by
  unfold step at h
  split at h
  · cases h
    exact (State.Steers.refl s).keepsBraking id
  · obtain ⟨he, hh, hm, hl⟩ := exec_keepsBraking h
    exact ⟨he, hh, hm, hl⟩

/-- Settles O22: every step keeps the braking state (`step_keepsBraking`), command by command. -/
theorem brakingStateStaysSound : Obligations.BrakingStateStaysSound := by
  refine ⟨fun s t hs h => (step_keepsBraking h).exit hs, fun s t hs h => ?_, fun s t ht hr h => ?_⟩
  · exact ⟨(step_keepsBraking h).held hs, (step_keepsBraking h).ecmd⟩
  · exact (step_keepsBraking h).limits ht hr

end Sys2Proof.Machine
end

section
/-! SUPPORT. CONTROL_CYCLE: the demand of the cycle, the values it leaves, and its frame (R19 to R24). -/

namespace Sys2Proof.Machine

theorem State.Talks.sameButMessages {s t : State} (h : State.Talks s t) : t.SameButMessages s := by
  unfold State.SameButMessages
  rw [h.frame]

theorem State.SameButMessages.trans {s t u : State} (h : u.SameButMessages t) (h' : t.SameButMessages s) :
    u.SameButMessages s := by
  unfold State.SameButMessages at h h' ⊢
  rw [← h] at h'
  exact h'

/-! ### The demand (R20 to R23) -/

/-- D is the larger of D_bp and D_h, at most 4095 (R19). -/
theorem Demand.compute_d (m : Demand) (c : Configuration) (bp : Option Nat) (peers : List Nat) (h : Nat) :
    (m.compute c bp peers h).dH = c.dfull * h / 1000 ∧
      (m.compute c bp peers h).d = min 4095 (max (m.compute c bp peers h).dBp (m.compute c bp peers h).dH) := by
  cases bp <;> exact ⟨rfl, rfl⟩

/-- Without a value of the own brake pipe D_bp is the median of the eligible peers' demands (R21). -/
theorem Demand.compute_assisted (m : Demand) (c : Configuration) {peers : List Nat} {x : Nat}
    (hx : lowerMedian peers = some x) (h : Nat) : (m.compute c none peers h).dBp = x := by
  unfold Demand.compute
  dsimp only
  rw [hx]
  rfl

/-! ### The cycle -/

/-- The demand section after the demand computation of a cycle (R19). -/
def State.cycleDemand (s : State) : Demand :=
  Demand.compute { s.demand with cycleDue := s.demand.cycleDue + 20000 } s.config s.acq.latestChans.bp.value
    (eligibleDemands s.peers.entries s.config.group) s.acq.handle.h

/-- The demand computation leaves the mode and sets the timer's next expiry. -/
theorem State.cycleDemand_frame (s : State) : s.cycleDemand = { s.demand with
    d := s.cycleDemand.d, dBp := s.cycleDemand.dBp, dH := s.cycleDemand.dH, lastOwn := s.cycleDemand.lastOwn
    assisted := s.cycleDemand.assisted, cycleDue := s.demand.cycleDue + 20000 } := Demand.compute_frame _ _ _ _ _

/-- The state in which a cycle drives its outputs: the demand and the shares worked out, the link checked. -/
theorem State.controlCycle_stages (s : State) : ∃ z : State, z.demand = s.cycleDemand ∧
    z.SameButMessages { s with demand := z.demand, sharing := z.sharing, outputs := z.outputs } ∧
    State.Delivers z.cycled s.controlCycle := by
  obtain ⟨y, hy, hc⟩ := s.controlCycle_spec
  refine ⟨_, ?_, ?_, hc⟩
  · have hd : y.computeDemand.sharingStage.demand = y.demand.compute y.config y.acq.latestChans.bp.value
      (eligibleDemands y.peers.entries y.config.group) y.acq.handle.h := rfl
    rw [hd, hy.demand, hy.config, hy.acq, hy.peers]
    rfl
  · have hs := hy.sameButMessages
    unfold State.SameButMessages at hs ⊢
    exact congrArg (fun x : State => { x with
      demand := y.computeDemand.sharingStage.demand
      sharing := y.computeDemand.sharingStage.sharing
      outputs := y.computeDemand.sharingStage.outputs }) hs

/-- A state that stands as another one but for messages stays so when its sections are driven and its cycle closed. -/
theorem State.SameButMessages.cycled {z s : State}
    (h : z.SameButMessages { s with demand := z.demand, sharing := z.sharing, outputs := z.outputs }) :
    z.cycled.SameButMessages { s with
      slide := { s.slide with slideCut := false }, demand := z.cycled.demand, sharing := z.sharing
      outputs := z.stagedOutputs } := by
  unfold State.SameButMessages at h ⊢
  have hslide : z.slide = s.slide := by
    have hs := congrArg State.slide h
    exact hs
  rw [← hslide]
  exact congrArg (fun x : State => { x with
    slide := { z.slide with slideCut := false }, demand := z.cycled.demand, outputs := z.stagedOutputs }) h

/-- The cycle's values for what follows it (log entry 44). -/
theorem State.stagedOutputs_cycle (s : State) : s.stagedOutputs.cycle =
    { sd := s.sharing.sd, eact := s.stagedOutputs.status.eact, fcmd := s.stagedOutputs.fcmd, u := s.sharing.u } := by
  unfold State.stagedOutputs
  rw [Outputs.unserved_frame]
  exact Outputs.stage_cycle _ _ _ _ _ _ _

/-- CONTROL_CYCLE of the running part at its time, seen from the state in which it drives its outputs. -/
theorem exec_controlCycle_spec {s : State} {dt : Nat} (hr : s.runPhase = .running)
    (hd : s.demand.cycleDue ≤ s.clock + dt) : ∃ z t : State, exec (.controlCycle dt) s = .next t ∧
      z.demand = s.cycleDemand ∧
      z.SameButMessages { s.advance dt with demand := z.demand, sharing := z.sharing, outputs := z.outputs } ∧
      State.Delivers z.cycled t := by
  obtain ⟨z, hz, hm, hc⟩ := (s.advance dt).controlCycle_stages
  exact ⟨z, _, exec_controlCycle_running hr hd, hz, hm, hc.trans (State.recordChannels_delivers _ _)⟩

/-- The mode that R24 gives. -/
theorem cycleMode_eq (d sd ecmd fcmd : Nat) :
    (0 < d ∨ 0 < sd ∨ 0 < ecmd ∨ 0 < fcmd → cycleMode d sd ecmd fcmd = .service) ∧
      (d = 0 → sd = 0 → ecmd = 0 → fcmd = 0 → cycleMode d sd ecmd fcmd = .released) :=
  ⟨fun h => if_pos h, fun h₁ h₂ h₃ h₄ => if_neg (by omega)⟩

/-- Settles O16: the demand by `Demand.compute`, the mode by `closingMode`, the values of `State.stagedOutputs_cycle`. -/
theorem controlCycleComputesDemandAndMode : Obligations.ControlCycleComputesDemandAndMode := by
  intro dt s hr hd
  obtain ⟨z, t, ht, hz, hm, h⟩ := exec_controlCycle_spec hr hd
  obtain ⟨hdh, hdd⟩ := Demand.compute_d { s.demand with cycleDue := s.demand.cycleDue + 20000 } s.config
    s.acq.latestChans.bp.value (eligibleDemands s.peers.entries s.config.group) s.acq.handle.h
  have hts : t.sharing = z.sharing := h.sharing
  have hmode : z.demand.mode = s.demand.mode := by rw [hz, s.cycleDemand_frame]
  have htd : t.demand = { s.cycleDemand with
      mode := closingMode s.demand.mode s.cycleDemand.d z.sharing.sd t.outputs.ecmd t.outputs.fcmd } := by
    rw [h.demand, h.outputs, ← hz, ← hmode]
    rfl
  refine ⟨t, ht, ?_⟩
  rw [hts, htd]
  refine ⟨fun p hp => ?_, fun hp => ⟨?_, ?_, fun x hx => ?_, fun hn => ?_⟩, hdh, hdd, fun he => ?_, fun hne => ?_,
    ?_, ?_, ?_⟩
  · rw [State.cycleDemand, hp]
    exact ⟨rfl, rfl, rfl⟩
  · rw [State.cycleDemand, hp]; rfl
  · rw [State.cycleDemand, hp]; rfl
  · rw [State.cycleDemand, hp]
    exact Demand.compute_assisted _ s.config hx s.acq.handle.h
  · rw [State.cycleDemand, hp, hn]; rfl
  · rw [he]; rfl
  · rw [closingMode_other hne]
    exact cycleMode_eq _ _ _ _
  · rw [h.outputs]
    exact z.stagedOutputs_cycle
  · rw [s.cycleDemand_frame]
  · rw [← htd, h.demand, h.outputs]
    exact (State.Delivers.sameButMessages h).trans hm.cycled

end Sys2Proof.Machine
end

section
/-! SUPPORT. The exit check, and a pressure set arrival at the demand section and the output section (R26, R31, R32, R123). -/

namespace Sys2Proof.Machine

/-! ### The exit check (R31) -/

/-- The mode that a station leaves EMERGENCY for (R31). -/
def State.exitMode (s : State) : Mode := if 0 < s.demand.d ∨ 0 < s.sharing.sd then .service else .released

/-- The demand section of a station that leaves EMERGENCY. -/
def State.exitDemand (s : State) : Demand := { s.demand with mode := s.exitMode, exitTimer := .stopped }

/-- A station that leaves EMERGENCY has its mode by D and SD, its timer stopped, Fcmd at FX and an event record. -/
theorem State.leaveEmergency_eq (s : State) : s.leaveEmergency = { s with
    demand := s.exitDemand
    outputs := { s.outputs with fcmd := s.sharing.fx }
    recorder := s.recorder.logEvent s.now .mode
      (be8 (modeCode s.demand.mode) ++ be8 (modeCode s.exitMode) ++ be8 5) } := by
  simp [State.leaveEmergency, State.changeMode, State.logEvent, State.exitDemand, State.exitMode, State.now,
    eventCauseCode]

/-- The exit condition: BP VALID and at least BPref − 20 kPa (R31). -/
theorem exitReady_iff (c : Configuration) (bp : PressItem) :
    exitReady c bp = true ↔ bp.state = .valid ∧ ∃ p, bp.value = some p ∧ c.bpRef ≤ p + 20 := by
  unfold exitReady
  cases hv : bp.value with
  | none => simp
  | some p => simp

theorem State.exitCheck_ready {s : State} {p : Nat} (hs : s.acq.latestChans.bp.state = .valid)
    (hv : s.acq.latestChans.bp.value = some p) (hp : s.config.bpRef ≤ p + 20) : s.exitCheck = s.leaveEmergency :=
  if_pos ((exitReady_iff _ _).mpr ⟨hs, p, hv, hp⟩)

/-- A check that is not met stays pending. -/
theorem State.exitCheck_pending {s : State} (h : s.acq.latestChans.bp.state ≠ .valid ∨
      s.acq.latestChans.bp.value = none ∨ ∃ p, s.acq.latestChans.bp.value = some p ∧ p + 20 < s.config.bpRef) :
    s.exitCheck = { s with demand := { s.demand with exitTimer := .expired } } := by
  refine if_neg ?_
  rw [exitReady_iff]
  rintro ⟨hs, p, hv, hp⟩
  rcases h with h | h | ⟨q, hq, hlt⟩
  · exact h hs
  · cases h.symm.trans hv
  · cases hq.symm.trans hv
    omega

/-- The exit check changes no channel's state. -/
theorem State.exitCheck_states (s : State) : s.exitCheck.recorder.states = s.recorder.states := by
  unfold State.exitCheck
  split
  · rw [State.leaveEmergency_eq]
    simp only [Recorder.logEvent_states]
  · rfl

/-- EXIT_TIMER_EXPIRY of the running part at its time. -/
theorem exec_exitTimerExpiry_running {s : State} {dt due : Nat} (hr : s.runPhase = .running)
    (he : s.demand.exitTimer = .running due) (hd : due ≤ s.clock + dt) :
    exec (.exitTimerExpiry dt) s = .next (s.advance dt).exitCheck := by
  refine congrArg _ (State.eventIf_same hr ?_ (State.exitCheck_states _))
  show (s.advance dt).timerDue (s.demand.exitTimer.due) = true
  rw [he]
  exact decide_eq_true hd

/-! ### The local emergency test (R26) -/

theorem localDetection_none_iff (c : Configuration) (bp : Option Nat) (fall : Int) : localDetection c bp fall = none ↔
    ∀ p, bp = some p → c.bpEmerg ≤ p ∧ fall < (c.remerg : Int) := by
  unfold localDetection
  cases bp with
  | none => simp
  | some p =>
    dsimp only
    split
    · simp; omega
    · split
      · simp; omega
      · simp; omega

/-- Level is detected before rate. -/
theorem localDetection_some {c : Configuration} {p : Nat} {fall : Int}
    (h : p < c.bpEmerg ∨ (c.remerg : Int) ≤ fall) :
    localDetection c (some p) fall = some (if p < c.bpEmerg then .level else .rate, p) := by
  unfold localDetection
  dsimp only
  split
  · rfl
  · rw [if_pos (h.resolve_left ‹_›)]

/-! ### The output section (R123, R125, R126) -/

/-- In EMERGENCY the setpoint is driven by IND and BCset stands at 0; in other modes both stay. -/
theorem State.emergencyDriven_outputs (s : State) : s.emergencyDriven = { s with outputs := s.emergencyDriven.outputs } := by
  unfold State.emergencyDriven
  split <;> rfl

theorem State.emergencyDriven_other {s : State} (h : s.demand.mode ≠ .emergency) : s.emergencyDriven = s := if_neg h

theorem State.emergencyDriven_emergency {s : State} (h : s.demand.mode = .emergency) :
    s.emergencyDriven = s.driveEmergency := if_pos h

/-- The friction check sets the deviation run and the latch, and delivers its trigger. -/
theorem State.frictionCheck_delivers (s : State) : ∃ run latch, State.Delivers
    { s with outputs := { s.outputs with devStart := run, frictionFault := latch } } s.frictionCheck := by
  unfold State.frictionCheck
  dsimp only
  split
  · exact ⟨none, s.outputs.frictionFault, .refl _⟩
  · rename_i t _
    split
    · exact ⟨none, true, State.deliver_delivers _ _⟩
    · exact ⟨some t, s.outputs.frictionFault, .refl _⟩

/-- An arrival at the output section drives the emergency setpoint, sets the deviation run and the latch, and delivers
messages. -/
theorem State.outputArrival_delivers (s : State) : ∃ run latch, State.Delivers
    { s with outputs := { s.emergencyDriven.outputs with devStart := run, frictionFault := latch } }
    s.outputArrival := by
  have hx := s.emergencyDriven_outputs
  rw [State.outputArrival_eq]
  generalize hy : s.emergencyDriven = x at hx ⊢
  have hs : ∀ run latch, { s with outputs := { x.outputs with devStart := run, frictionFault := latch } } =
      { x with outputs := { x.outputs with devStart := run, frictionFault := latch } } := by
    intro run latch
    rw [hx]
  simp only [hs]
  split
  · split
    · exact ⟨x.outputs.devStart, false, .refl _⟩
    · exact ⟨x.outputs.devStart, x.outputs.frictionFault, .refl _⟩
  · exact x.frictionCheck_delivers

/-- What an arrival at the output section leaves of its outputs. -/
theorem State.outputArrival_outputs (s : State) :
    s.outputArrival.outputs.ecmd = s.outputs.ecmd ∧ s.outputArrival.outputs.fcmd = s.outputs.fcmd ∧
      (s.demand.mode ≠ .emergency → s.outputArrival.outputs.bcOut = s.outputs.bcOut) ∧
      (s.demand.mode = .emergency → s.outputArrival.outputs.bcSet = 0 ∧
        s.outputArrival.outputs.bcOut = emergencyPressure s.config s.acq.latestChans.ind.value) := by
  obtain ⟨run, latch, h⟩ := s.outputArrival_delivers
  rw [h.outputs]
  by_cases hm : s.demand.mode = .emergency
  · rw [State.emergencyDriven_emergency hm]
    simp [State.driveEmergency, hm]
  · rw [State.emergencyDriven_other hm]
    simp [hm]

/-! ### A scan completion by its stages -/

/-- The state in which the pressure set of a scan arrives: the Acquisition Unit's work is done and its triggers are
delivered. -/
def State.scanned (s : State) : State :=
  State.deliverAll { s with acq := (s.acq.scan s.config.pscan s.now).1 } (s.acq.scan s.config.pscan s.now).2

theorem State.scanned_delivers (s : State) :
    State.Delivers { s with acq := (s.acq.scan s.config.pscan s.now).1 } s.scanned := State.deliverAll_delivers _ _

/-- After the set has arrived at both sections a scan completion makes records alone. -/
theorem State.scanEvent_delivers (s : State) :
    State.Delivers s.scanned.demandArrival.outputArrival (State.recordChannels s s.scanCompletes) :=
  (State.recordPressures_delivers _).trans (State.recordChannels_delivers _ _)

/-- A scan completion takes `s` to `t`, and its pressure set arrives in `y`. -/
structure State.SetArrives (s y t : State) : Prop where
  arrival : State.Delivers { s with acq := t.acq } y
  frame : State.Brakes { s with acq := t.acq } t
  demand : t.demand = y.demandArrival.demand
  sharing : t.sharing = y.demandArrival.sharing
  outputs : t.outputs = y.demandArrival.outputArrival.outputs

/-- The output section and the records leave what the demand section has done of its own state and of the shares. -/
theorem State.setArrives (s : State) :
    State.SetArrives s s.scanned (State.recordChannels s s.scanCompletes) := by
  have h := s.scanEvent_delivers
  have hb := s.scanCompletes_brakes.trans (State.recordChannels_delivers s _).brakes
  obtain ⟨run, latch, ho⟩ := s.scanned.demandArrival.outputArrival_delivers
  refine ⟨?_, ?_, h.demand.trans ho.demand, h.sharing.trans ho.sharing, h.outputs⟩
  · rw [hb.acq]
    exact s.scanned_delivers
  · rw [hb.acq]
    exact hb

theorem State.SetArrives.acq {s y t : State} (h : State.SetArrives s y t) : y.acq = t.acq := h.arrival.acq

/-! ### A pressure set arrival at the demand section -/

/-- A set that meets no emergency test repeats a pending exit check, and does nothing else (R32). -/
theorem State.demandArrival_undetected {s : State} (h : ∀ p, s.acq.latestChans.bp.value = some p →
      s.config.bpEmerg ≤ p ∧ s.acq.fall < (s.config.remerg : Int)) :
    s.demandArrival = if s.demand.exitTimer = .expired then s.exitCheck else s := by
  unfold State.demandArrival
  rw [(localDetection_none_iff _ _ _).mpr h]

/-- A set that meets the test is a local detection (R26). -/
theorem State.demandArrival_detected {s : State} {p : Nat} (hp : s.acq.latestChans.bp.value = some p)
    (h : p < s.config.bpEmerg ∨ (s.config.remerg : Int) ≤ s.acq.fall) :
    s.demandArrival = s.detect (if p < s.config.bpEmerg then .level else .rate) p s.acq.fall := by
  unfold State.demandArrival
  rw [hp, localDetection_some h]

/-- In EMERGENCY a local detection restarts the exit timer alone (R30). -/
theorem State.detect_emergency {s : State} (hm : s.demand.mode = .emergency) (cause : Detection) (bp : Nat)
    (fall : Int) : s.detect cause bp fall = s.restartExit := if_pos hm

theorem State.exitCheck_sharing (s : State) : s.exitCheck.sharing = s.sharing := by
  unfold State.exitCheck
  split
  · rw [s.leaveEmergency_eq]
  · rfl

/-- An arrival in EMERGENCY leaves the sharing section. -/
theorem State.demandArrival_sharing {s : State} (hm : s.demand.mode = .emergency) :
    s.demandArrival.sharing = s.sharing := by
  unfold State.demandArrival
  split
  · rw [State.detect_emergency hm]
    rfl
  · split
    · exact s.exitCheck_sharing
    · rfl

/-- A pending check that is not met leaves the section as it was. -/
theorem State.exitCheck_expired {s : State} (he : s.demand.exitTimer = .expired)
    (h : s.acq.latestChans.bp.state ≠ .valid ∨ s.acq.latestChans.bp.value = none ∨
      ∃ p, s.acq.latestChans.bp.value = some p ∧ p + 20 < s.config.bpRef) : s.exitCheck = s := by
  rw [State.exitCheck_pending h, ← he]

section
variable {s y t : State} (h : State.SetArrives s y t) (he : s.demand.exitTimer = .expired)
include h he

/-- While the check is pending, a set that meets neither the emergency test nor the exit condition leaves the demand section
and Fcmd. -/
theorem State.SetArrives.stays (hn : ∀ p, t.acq.latestChans.bp.value = some p →
      s.config.bpEmerg ≤ p ∧ t.acq.fall < (s.config.remerg : Int))
    (hx : t.acq.latestChans.bp.state ≠ .valid ∨ t.acq.latestChans.bp.value = none ∨
      ∃ p, t.acq.latestChans.bp.value = some p ∧ p + 20 < s.config.bpRef) :
    t.demand = s.demand ∧ t.outputs.fcmd = s.outputs.fcmd := by
  have hye : y.demand.exitTimer = .expired := by rw [h.arrival.demand]; exact he
  have hz : y.demandArrival = y := by
    rw [State.demandArrival_undetected (by rw [h.acq, h.arrival.config]; exact hn), if_pos hye,
      State.exitCheck_expired hye (by rw [h.acq, h.arrival.config]; exact hx)]
  obtain ⟨-, hf, -⟩ := y.demandArrival.outputArrival_outputs
  rw [h.demand, h.outputs, hf, hz, h.arrival.demand, h.arrival.outputs]
  exact ⟨rfl, rfl⟩

/-- One that meets the exit condition ends EMERGENCY, with BCout as it was (R31, R32). -/
theorem State.SetArrives.leaves {p : Nat} (hv : t.acq.latestChans.bp.state = .valid)
    (hp : t.acq.latestChans.bp.value = some p) (hl : s.config.bpEmerg ≤ p) (hf : t.acq.fall < (s.config.remerg : Int))
    (hx : s.config.bpRef ≤ p + 20) :
    t.demand = s.exitDemand ∧ t.outputs.fcmd = s.sharing.fx ∧ t.outputs.bcOut = s.outputs.bcOut := by
  have hye : y.demand.exitTimer = .expired := by rw [h.arrival.demand]; exact he
  rw [← h.acq] at hv hp hf
  have hz : y.demandArrival = y.leaveEmergency := by
    rw [State.demandArrival_undetected, if_pos hye,
      State.exitCheck_ready hv hp (by rw [h.arrival.config]; exact hx)]
    intro q hq
    cases hp.symm.trans hq
    rw [h.arrival.config]
    exact ⟨hl, hf⟩
  obtain ⟨-, hfc, hbc, -⟩ := y.demandArrival.outputArrival_outputs
  rw [h.demand, h.outputs, hfc, hbc (by rw [hz]; exact y.leaveEmergency_mode), hz, State.leaveEmergency_eq]
  dsimp only
  rw [State.exitDemand, State.exitMode, h.arrival.demand, h.arrival.sharing, h.arrival.outputs]
  exact ⟨rfl, rfl, rfl⟩

end

/-- Settles O17: the exit check at the expiry (`State.exitCheck_ready`, `State.exitCheck_pending`), and at a pressure set that
meets no emergency test (`State.SetArrives.leaves`, `State.SetArrives.stays`). -/
theorem exitCheckAtExpiryAndWhilePending : Obligations.ExitCheckAtExpiryAndWhilePending := by
  refine ⟨fun dt due s hr he hd => ⟨fun p hv hp hle => ?_, fun h => ?_⟩, fun dt s hr hd hm he => ?_⟩
  · rw [exec_exitTimerExpiry_running hr he hd, State.exitCheck_ready (s := s.advance dt) hv hp hle,
      State.leaveEmergency_eq]
    rfl
  · rw [exec_exitTimerExpiry_running hr he hd, State.exitCheck_pending (s := s.advance dt) h]
    rfl
  · have h := (s.advance dt).setArrives
    refine ⟨_, exec_scanCompletion_running hr hd, ?_, fun p hv hp hle hf hx => h.leaves he hv hp hle hf hx,
      fun hv hp hf => h.stays he (fun p hq => ⟨hp p hq, hf p hq⟩) (.inl hv), fun p hp hle hf hx => ?_⟩
    · have hs := h.frame.delivers.sameButMessages
      rw [h.sharing, State.demandArrival_sharing (by rw [h.arrival.demand]; exact hm), h.arrival.sharing] at hs
      exact hs
    · refine h.stays he (fun q hq => ?_) (.inr (.inr ⟨p, hp, hx⟩))
      cases hp.symm.trans hq
      exact ⟨hle, hf⟩

end Sys2Proof.Machine
end

section
/-! SUPPORT. Events that hand over no incident mark, said once as `State.Unmarked`: they leave the line and the count of
discarded urgent entries (R75, R153). -/

namespace Sys2Proof.Machine

/-- No trigger hands over an incident mark: marks are off, the line is not ACTIVE, or an incident is in capture (R153). -/
def State.NoMarks (s : State) : Prop :=
  s.config.sendMarks = false ∨ s.line.state ≠ .active ∨ s.recorder.capture ≠ none

/-- The line stands, and no urgent entry has been discarded. -/
structure State.SameLine (s t : State) : Prop where
  config : t.config = s.config
  line : t.line = s.line
  discarded : t.counters.urgentDiscarded = s.counters.urgentDiscarded

theorem State.SameLine.refl (s : State) : State.SameLine s s := ⟨rfl, rfl, rfl⟩

theorem State.SameLine.trans {s t u : State} (h : State.SameLine s t) (h' : State.SameLine t u) : State.SameLine s u :=
  ⟨h'.config.trans h.config, h'.line.trans h.line, h'.discarded.trans h.discarded⟩

/-- Work that leaves the line while no trigger hands over a mark. -/
def State.Unmarked (s t : State) : Prop := s.NoMarks → t.NoMarks ∧ State.SameLine s t

theorem State.Unmarked.trans {s t u : State} (h : State.Unmarked s t) (h' : State.Unmarked t u) : State.Unmarked s u := by
  intro hs
  obtain ⟨ht, hl⟩ := h hs
  obtain ⟨hu, hl'⟩ := h' ht
  exact ⟨hu, hl.trans hl'⟩

/-- Work that leaves the line and keeps an incident in capture. -/
theorem State.SameLine.unmarked {s t : State} (h : State.SameLine s t)
    (hc : s.recorder.capture ≠ none → t.recorder.capture ≠ none) : State.Unmarked s t := by
  refine fun hs => ⟨?_, h⟩
  unfold State.NoMarks at hs ⊢
  rw [h.config, h.line]
  exact hs.imp_right (Or.imp_right hc)

/-- Quiet work that leaves the line. -/
theorem State.Quiet.unmarked {s t : State} (h : State.Quiet s t) (hl : t.line = s.line)
    (hd : t.counters.urgentDiscarded = s.counters.urgentDiscarded) : State.Unmarked s t :=
  State.SameLine.unmarked ⟨h.config, hl, hd⟩ fun hc => by rw [h.capture]; exact hc

/-! ### Triggers -/

theorem State.bump_sameLine (s : State) {i : CounterId} (hi : i ≠ .urgentDiscarded) : State.SameLine s (s.bump i) := by
  refine ⟨(State.bump_delivers s i).config, State.bump_line s i, ?_⟩
  have h := s.bump_get i .urgentDiscarded
  rw [if_neg hi.symm] at h
  exact h

theorem State.bump_unmarked (s : State) {i : CounterId} (hi : i ≠ .urgentDiscarded) : State.Unmarked s (s.bump i) := by
  refine (s.bump_sameLine hi).unmarked fun hc => ?_
  obtain ⟨c, r, h, hr⟩ := s.bump_frame i
  have hq := State.Quiet.of_channels s hr
  rw [h]
  exact hq.capture.trans_ne hc

theorem State.startTests_sameLine (n : Nat) (s : State) : State.SameLine s (s.startTests n) := by
  induction n generalizing s with
  | zero => exact .refl s
  | succ n ih =>
    simp only [State.startTests]
    split
    · split
      · exact ⟨rfl, rfl, rfl⟩
      · refine .trans ?_ (ih _)
        refine .trans ?_ (State.bump_sameLine _ (by decide))
        exact ⟨rfl, rfl, rfl⟩
    · exact .refl s

theorem State.closeIncident_sameLine (s : State) (truncated : Bool) :
    State.SameLine s (s.closeIncident truncated) := by
  unfold State.closeIncident
  split
  · exact .refl s
  · dsimp only
    split
    · refine .trans ?_ (State.bump_sameLine _ (by decide))
      exact ⟨rfl, rfl, rfl⟩
    · split
      · refine .trans ?_ (State.startTests_sameLine _ _)
        exact ⟨rfl, rfl, rfl⟩
      · refine .trans ?_ (State.startTests_sameLine _ _)
        exact ⟨rfl, rfl, rfl⟩

/-- With marks off or the line not ACTIVE an opened incident hands over no mark. -/
theorem State.openIncident_sameLine {s : State} (h : s.config.sendMarks = false ∨ s.line.state ≠ .active)
    (x : Trigger) : State.SameLine s (s.openIncident x) := by
  unfold State.openIncident
  dsimp only
  rw [if_neg]
  · exact ⟨rfl, rfl, rfl⟩
  · rintro ⟨-, ha, hm⟩
    rcases h with h | h
    · rw [h] at hm; cases hm
    · exact h ha

/-- A trigger hands over a mark only when it opens an incident. -/
theorem State.raise_unmarked (s : State) (x : Trigger) : State.Unmarked s (s.raise x) := by
  unfold State.raise
  split
  · exact s.bump_unmarked (by decide)
  · split
    · exact (State.SameLine.refl s).unmarked id
    · split
      · exact s.bump_unmarked (by decide)
      · split
        · exact s.bump_unmarked (by decide)
        · split
          · refine State.SameLine.unmarked ⟨rfl, rfl, rfl⟩ fun _ => ?_
            simp [State.appendCause]
          · rename_i hc
            have hopen : ∀ {t}, (s.config.sendMarks = false ∨ s.line.state ≠ .active → State.SameLine s t) →
                State.Unmarked s t := by
              intro t ht hs
              have hs : s.config.sendMarks = false ∨ s.line.state ≠ .active :=
                hs.imp_right fun h => h.resolve_right (· hc)
              obtain ⟨h₁, h₂, h₃⟩ := ht hs
              refine ⟨?_, h₁, h₂, h₃⟩
              unfold State.NoMarks
              rw [h₁, h₂]
              exact hs.imp_right .inl
            split
            · exact s.bump_unmarked (by decide)
            · split
              · exact hopen fun hs => (State.openIncident_sameLine hs x).trans (State.closeIncident_sameLine _ _)
              · exact hopen fun hs => State.openIncident_sameLine hs x

/-! ### The stages of a scan completion -/

theorem State.deliverAll_unmarked {ms : List Message} (h : ∀ m ∈ ms, ∃ x, m = .trigger x) (s : State) :
    State.Unmarked s (s.deliverAll ms) := by
  induction ms generalizing s with
  | nil => exact (State.SameLine.refl s).unmarked id
  | cons m ms ih =>
    obtain ⟨x, rfl⟩ := h m (by simp)
    exact (s.raise_unmarked x).trans (ih (fun z hz => h z (by simp [hz])) _)

/-- The Acquisition Unit's messages are triggers. -/
theorem Acquisition.scan_messages (u : Acquisition) (pscan : Nat) (now : Time) :
    ∀ m ∈ (u.scan pscan now).2, ∃ x, m = .trigger x := by
  intro m hm
  obtain ⟨i, -, hi⟩ := List.mem_filterMap.mp hm
  split at hi
  · cases hi; exact ⟨_, rfl⟩
  · cases hi

theorem State.scanned_unmarked (s : State) : State.Unmarked s s.scanned := by
  have hx : State.Unmarked s { s with acq := (s.acq.scan s.config.pscan s.now).1 } :=
    State.SameLine.unmarked ⟨rfl, rfl, rfl⟩ id
  exact hx.trans (State.deliverAll_unmarked (Acquisition.scan_messages _ _ _) _)

theorem State.enterEmergency_unmarked (s : State) (cause : EventCause) (more : List Byte) :
    State.Unmarked s (s.enterEmergency cause more) := by
  refine (s.enterEmergency_quiet cause more).unmarked ?_ ?_
  all_goals simp [State.enterEmergency]

theorem State.frictionCheck_unmarked (s : State) : State.Unmarked s s.frictionCheck := by
  unfold State.frictionCheck
  dsimp only
  split
  · exact State.SameLine.unmarked ⟨rfl, rfl, rfl⟩ id
  · split
    · refine .trans ?_ (State.raise_unmarked _ _)
      exact State.SameLine.unmarked ⟨rfl, rfl, rfl⟩ id
    · exact State.SameLine.unmarked ⟨rfl, rfl, rfl⟩ id

theorem State.outputArrival_unmarked (s : State) : State.Unmarked s s.outputArrival := by
  have hx : State.Unmarked s s.emergencyDriven := by
    rw [s.emergencyDriven_outputs]
    exact State.SameLine.unmarked ⟨rfl, rfl, rfl⟩ id
  refine hx.trans ?_
  rw [State.outputArrival_eq]
  generalize s.emergencyDriven = x
  split
  · split
    · exact State.SameLine.unmarked ⟨rfl, rfl, rfl⟩ id
    · exact (State.SameLine.refl x).unmarked id
  · exact x.frictionCheck_unmarked

theorem State.recordPressures_unmarked (s : State) : State.Unmarked s s.recordPressures := by
  refine s.recordPressures_quiet.unmarked ?_ ?_
  all_goals unfold State.recordPressures; split <;> rfl

theorem State.recordChannels_unmarked (before after : State) :
    State.Unmarked after (before.recordChannels after) := by
  obtain ⟨r, h, hr⟩ := before.recordChannels_frame after
  rw [h]
  exact (State.Quiet.of_channels after hr).unmarked rfl rfl

/-- After the demand section a scan completion hands over no mark either. -/
theorem State.scanEvent_unmarked (s : State) :
    State.Unmarked s.scanned.demandArrival (State.recordChannels s s.scanCompletes) :=
  ((State.outputArrival_unmarked _).trans (State.recordPressures_unmarked _)).trans (State.recordChannels_unmarked _ _)

/-! ### Urgent entries -/

/-- What an urgent entry does to the line depends on the line alone. -/
theorem State.handUrgent_line_congr {s t : State} (h : s.line = t.line) (kind : FrameKind) (payload : List Byte) :
    (s.handUrgent kind payload).line = (t.handUrgent kind payload).line := by
  unfold State.handUrgent
  rw [h]
  split
  · rw [State.bump_line, State.bump_line, h]
  · split
    · rfl
    · split
      · rw [State.bump_line, State.bump_line]
      · rw [State.bump_line, State.bump_line, h]

/-- Outside ACTIVE an urgent entry is discarded and counted (R75). -/
theorem State.handUrgent_inactive {s : State} (h : s.line.state ≠ .active) (kind : FrameKind) (payload : List Byte) :
    s.handUrgent kind payload = s.bump .urgentDiscarded := if_pos h

/-- An urgent entry leaves the line's state. -/
theorem State.handUrgent_lineState (s : State) (kind : FrameKind) (payload : List Byte) :
    (s.handUrgent kind payload).line.state = s.line.state := by
  rw [(s.handUrgent_delivers kind payload).line]

/-- An urgent entry opens and closes no incident. -/
theorem State.handUrgent_noMarks {s : State} (h : s.NoMarks) (kind : FrameKind) (payload : List Byte) :
    (s.handUrgent kind payload).NoMarks := by
  have hq := s.handUrgent_quiet kind payload
  unfold State.NoMarks
  rw [hq.config, hq.capture, s.handUrgent_lineState]
  exact h

end Sys2Proof.Machine
end

section
/-! SUPPORT. A local detection and its notice sequence (R26 to R28). -/

namespace Sys2Proof.Machine

/-! ### Entry into EMERGENCY (R27) -/

/-- An entry into EMERGENCY leaves these sections. -/
theorem State.enterEmergency_sections (s : State) (cause : EventCause) (more : List Byte) :
    (s.enterEmergency cause more).demand =
        { s.demand with mode := .emergency, exitTimer := restartedTimer s.slide.standstill s.clock } ∧
      (s.enterEmergency cause more).sharing = s.sharing.inEmergency ∧
      (s.enterEmergency cause more).outputs.ecmd = s.outputs.ecmd ∧
      (s.enterEmergency cause more).outputs.fcmd = s.outputs.fcmd := by
  simp [State.enterEmergency, State.driveEmergency]

/-- The station in EMERGENCY after a local detection, its trigger taken, short of the notice. -/
def State.detected (s : State) (cause : Detection) (bp : Nat) (fall : Int) : State :=
  (s.enterEmergency (detectionEvent cause) []).deliver (localTrigger cause bp fall)

theorem State.detect_other {s : State} (hm : s.demand.mode ≠ .emergency) (cause : Detection) (bp : Nat) (fall : Int) :
    s.detect cause bp fall = (s.detected cause bp fall).beginNotices cause bp := if_neg hm

theorem State.causeOf_unmarked (s : State) (c : Cause) (detail : List Byte) :
    State.Unmarked s (s.deliver (causeOf c detail)) := s.raise_unmarked _

theorem State.detected_unmarked (s : State) (cause : Detection) (bp : Nat) (fall : Int) :
    State.Unmarked s (s.detected cause bp fall) := by
  unfold State.detected localTrigger
  exact (s.enterEmergency_unmarked _ _).trans (State.causeOf_unmarked _ _ _)

/-- The notice sequence recorded, its first copy to be handed over (R28). -/
def State.noticing (s : State) (cause : Detection) (bp : Nat) : State :=
  { s with demand := { s.demand with
      notice := some { cause := cause, bp := bp }, noticeLeft := 2, repeatDue := some (s.clock + 20000) } }

theorem State.beginNotices_eq (s : State) (cause : Detection) (bp : Nat) : s.beginNotices cause bp =
    (s.noticing cause bp).handUrgent .emergencyNotice (emergencyNoticeBytes cause 1 bp) := rfl

/-- A detection outside EMERGENCY: the demand section with its notice sequence, the shares at 0, the commands as they
stood. -/
theorem State.detect_sections {s : State} (hm : s.demand.mode ≠ .emergency) (cause : Detection) (bp : Nat)
    (fall : Int) : (s.detect cause bp fall).demand = { s.demand with
        mode := .emergency, exitTimer := restartedTimer s.slide.standstill s.clock
        notice := some { cause := cause, bp := bp }, noticeLeft := 2, repeatDue := some (s.clock + 20000) } ∧
      (s.detect cause bp fall).sharing = s.sharing.inEmergency ∧
      (s.detect cause bp fall).outputs.ecmd = s.outputs.ecmd ∧
      (s.detect cause bp fall).outputs.fcmd = s.outputs.fcmd := by
  obtain ⟨hd, hs, he, hf⟩ := s.enterEmergency_sections (detectionEvent cause) []
  have hx : State.Delivers (s.enterEmergency (detectionEvent cause) []) (s.detected cause bp fall) :=
    State.deliver_delivers _ _
  have hck : (s.enterEmergency (detectionEvent cause) []).clock = s.clock := (s.enterEmergency_quiet _ _).clock
  have hu := ((s.detected cause bp fall).noticing cause bp).handUrgent_delivers .emergencyNotice
    (emergencyNoticeBytes cause 1 bp)
  rw [State.detect_other hm, State.beginNotices_eq, hu.demand, hu.sharing, hu.outputs]
  unfold State.noticing
  dsimp only
  rw [hx.demand, hx.sharing, hx.outputs, hx.clock, hck, hd]
  exact ⟨rfl, hs, he, hf⟩

/-- The first copy of the notice is all that a detection does to the line, and outside ACTIVE it is discarded (R28, R75). -/
theorem State.detect_line {s : State} (hm : s.demand.mode ≠ .emergency) (cause : Detection) (bp : Nat) (fall : Int)
    (hn : s.NoMarks) : (s.detect cause bp fall).NoMarks ∧
      (s.detect cause bp fall).line = (s.handUrgent .emergencyNotice (emergencyNoticeBytes cause 1 bp)).line ∧
      (s.line.state ≠ .active →
        (s.detect cause bp fall).counters.urgentDiscarded = countedOnce s.counters.urgentDiscarded) := by
  obtain ⟨hx, -, hl, hd⟩ := s.detected_unmarked cause bp fall hn
  rw [State.detect_other hm]
  generalize s.detected cause bp fall = x at hx hl hd ⊢
  have hxn : (x.noticing cause bp).NoMarks := hx
  have hxl : (x.noticing cause bp).line = s.line := hl
  have hxd : (x.noticing cause bp).counters.urgentDiscarded = s.counters.urgentDiscarded := hd
  rw [State.beginNotices_eq]
  refine ⟨State.handUrgent_noMarks hxn _ _, State.handUrgent_line_congr hxl _ _, fun ha => ?_⟩
  rw [State.handUrgent_inactive (by rw [hxl]; exact ha), ← hxd]
  exact (State.bump_get _ .urgentDiscarded .urgentDiscarded).trans (if_pos rfl)

/-! ### The scan completion -/

/-- The stated CE is R107's formula (log entry 13). -/
theorem State.buildStatement_ce (s : State) : s.buildStatement.ce = min s.sharing.ce s.slide.al := rfl

section
variable {s y t : State} (h : State.SetArrives s y t)
include h

theorem State.SetArrives.slide : t.slide = s.slide := h.frame.delivers.slide

/-- A detection outside EMERGENCY enters it (R26, R27). -/
theorem State.SetArrives.enters (hm : s.demand.mode ≠ .emergency) {p : Nat}
    (hp : t.acq.latestChans.bp.value = some p)
    (hx : p < s.config.bpEmerg ∨ (s.config.remerg : Int) ≤ t.acq.fall) :
    y.demandArrival = y.detect (if p < s.config.bpEmerg then .level else .rate) p t.acq.fall ∧
    t.demand = { s.demand with
      mode := .emergency, exitTimer := restartedTimer s.slide.standstill s.clock
      notice := some { cause := if p < s.config.bpEmerg then .level else .rate, bp := p }, noticeLeft := 2
      repeatDue := some (s.clock + 20000) } ∧
    t.outputs.bcOut = max s.config.pemg (t.acq.latestChans.ind.value.getD 0) ∧ t.outputs.bcSet = 0 ∧
    t.outputs.ecmd = s.outputs.ecmd ∧ t.outputs.fcmd = s.outputs.fcmd ∧ t.sharing = s.sharing.inEmergency := by
  have hym : y.demand.mode ≠ .emergency := by rw [h.arrival.demand]; exact hm
  have harr : y.demandArrival = y.detect (if p < s.config.bpEmerg then .level else .rate) p t.acq.fall := by
    rw [← h.acq] at hp hx ⊢
    have hc : s.config = y.config := h.arrival.config.symm
    rw [hc] at hx ⊢
    exact State.demandArrival_detected hp hx
  obtain ⟨hd, hs, he, hf⟩ := State.detect_sections hym (if p < s.config.bpEmerg then .level else .rate) p t.acq.fall
  obtain ⟨hoe, hof, -, hob⟩ := y.demandArrival.outputArrival_outputs
  obtain ⟨hset, hout⟩ := hob (by rw [harr, hd])
  have hb := State.demandArrival_brakes y
  refine ⟨harr, ?_, ?_, ?_, ?_, ?_, ?_⟩
  · rw [h.demand, harr, hd, h.arrival.demand, h.arrival.slide, h.arrival.clock]
  · rw [h.outputs, hout, hb.delivers.config, hb.acq, h.acq, h.arrival.config]
    rfl
  · rw [h.outputs, hset]
  · rw [h.outputs, hoe, harr, he, h.arrival.outputs]
  · rw [h.outputs, hof, harr, hf, h.arrival.outputs]
  · rw [h.sharing, harr, hs, h.arrival.sharing]

/-- Where no trigger hands over a mark, it hands over the first copy of its notice and no more (R28). -/
theorem State.SetArrives.hands (hm : s.demand.mode ≠ .emergency) {p : Nat}
    (hp : t.acq.latestChans.bp.value = some p)
    (hx : p < s.config.bpEmerg ∨ (s.config.remerg : Int) ≤ t.acq.fall)
    (hy : State.Unmarked s y) (hz : State.Unmarked y.demandArrival t) (hn : s.NoMarks) :
    t.line = (s.handUrgent .emergencyNotice
        (emergencyNoticeBytes (if p < s.config.bpEmerg then .level else .rate) 1 p)).line ∧
      (s.line.state ≠ .active → t.counters.urgentDiscarded = countedOnce s.counters.urgentDiscarded) := by
  have hym : y.demand.mode ≠ .emergency := by rw [h.arrival.demand]; exact hm
  obtain ⟨harr, -⟩ := h.enters hm hp hx
  obtain ⟨hyn, -, hyl, hyd⟩ := hy hn
  obtain ⟨hxn, hxl, hxd⟩ := State.detect_line hym (if p < s.config.bpEmerg then .level else .rate) p t.acq.fall hyn
  rw [harr] at hz
  obtain ⟨-, -, hzl, hzd⟩ := hz hxn
  refine ⟨(hzl.trans hxl).trans (State.handUrgent_line_congr hyl _ _), fun ha => ?_⟩
  rw [hzd, hxd (by rw [hyl]; exact ha), hyd]

/-- A detection in EMERGENCY restarts the exit timer (R30). -/
theorem State.SetArrives.restarts (hm : s.demand.mode = .emergency) {p : Nat}
    (hp : t.acq.latestChans.bp.value = some p)
    (hx : p < s.config.bpEmerg ∨ (s.config.remerg : Int) ≤ t.acq.fall) :
    y.demandArrival = y.restartExit ∧
    t.demand = { s.demand with exitTimer := restartedTimer s.slide.standstill s.clock } ∧ t.sharing = s.sharing ∧
      t.outputs.fcmd = s.outputs.fcmd := by
  have hym : y.demand.mode = .emergency := by rw [h.arrival.demand]; exact hm
  have harr : y.demandArrival = y.restartExit := by
    rw [← h.acq] at hp hx
    rw [State.demandArrival_detected hp (by rw [h.arrival.config]; exact hx), State.detect_emergency hym]
  obtain ⟨-, hof, -⟩ := y.demandArrival.outputArrival_outputs
  refine ⟨harr, ?_, ?_, ?_⟩
  · rw [h.demand, harr, State.restartExit_demand, h.arrival.demand, h.arrival.slide, h.arrival.clock]
  · rw [h.sharing, harr, State.restartExit_sharing, h.arrival.sharing]
  · rw [h.outputs, hof, harr, State.restartExit_outputs, h.arrival.outputs]

/-- Without a detection and a pending check the demand section stands. -/
theorem State.SetArrives.stands (he : s.demand.exitTimer ≠ .expired)
    (hn : ∀ p, t.acq.latestChans.bp.value = some p →
      s.config.bpEmerg ≤ p ∧ t.acq.fall < (s.config.remerg : Int)) :
    t.demand = s.demand ∧ t.sharing = s.sharing := by
  have hye : y.demand.exitTimer ≠ .expired := by rw [h.arrival.demand]; exact he
  have harr : y.demandArrival = y := by
    rw [State.demandArrival_undetected (by rw [h.acq, h.arrival.config]; exact hn), if_neg hye]
  rw [h.demand, h.sharing, harr, h.arrival.demand, h.arrival.sharing]
  exact ⟨rfl, rfl⟩

end

/-! ### The repeats (R28) -/

/-- The next copy of a running sequence, and the timer of the copy after it. -/
theorem State.repeatNotice_running {s : State} {n : NoticeContents} (hn : s.demand.notice = some n) :
    s.repeatNotice = State.handUrgent
      { s with demand := { s.demand with
          noticeLeft := s.demand.noticeLeft - 1
          repeatDue := if s.demand.noticeLeft - 1 = 0 then none else s.demand.repeatDue.map (· + 20000)
          notice := if s.demand.noticeLeft - 1 = 0 then none else some n } }
      .emergencyNotice (emergencyNoticeBytes n.cause (4 - s.demand.noticeLeft) n.bp) := by
  unfold State.repeatNotice
  rw [hn]

/-- NOTICE_REPEAT_EXPIRY of the running part at its time. -/
theorem exec_noticeRepeatExpiry_running {s : State} {dt due : Nat} (hr : s.runPhase = .running)
    (hd : s.demand.repeatDue = some due) (hle : due ≤ s.clock + dt) :
    exec (.noticeRepeatExpiry dt) s = .next (s.advance dt).repeatNotice := by
  refine congrArg _ (State.eventIf_same hr ?_ ?_)
  · show (s.advance dt).timerDue s.demand.repeatDue = true
    rw [hd]
    exact decide_eq_true hle
  · unfold State.repeatNotice
    split
    · rfl
    · exact State.handUrgent_states _ _ _

/-- Settles O18: a detection at a scan completion (`State.SetArrives.enters`, `State.SetArrives.restarts`,
`State.detect_line`), a set without one (`State.SetArrives.stands`), and the repeats (`State.repeatNotice_running`). -/
theorem localDetectionEntersEmergency : Obligations.LocalDetectionEntersEmergency := by
  refine ⟨fun dt s hr hd => ?_, fun dt due n s hr hd hle hn => ⟨fun hl => ?_, fun hl => ?_⟩⟩
  · have h := (s.advance dt).setArrives
    have hy := (s.advance dt).scanned_unmarked
    have hz := (s.advance dt).scanEvent_unmarked
    refine ⟨_, exec_scanCompletion_running hr hd, ?_⟩
    generalize State.recordChannels (s.advance dt) (s.advance dt).scanCompletes = t at h hz ⊢
    generalize (s.advance dt).scanned = y at h hy hz
    refine ⟨fun p hm hp hx => ?_, fun p hm hp hx => ?_, fun he hp => ?_, fun p he hp hl hf => ?_⟩
    · obtain ⟨-, hdem, hbc, hset, hec, hfc, hsh⟩ := h.enters hm hp hx
      have hline := h.hands hm hp hx hy hz
      refine ⟨hdem, hbc, hset, hec, hfc, hsh, ?_, fun hno => ?_, fun ha => ?_⟩
      · rw [t.buildStatement_ce, hsh, h.slide]
        rfl
      · obtain ⟨hl, -⟩ := hline hno
        exact hl.trans (State.handUrgent_line_congr (s.advance_line dt) _ _)
      · obtain ⟨-, hc⟩ := hline (.inr (.inl ha))
        exact hc ha
    · obtain ⟨harr, hdem, hsh, hfc⟩ := h.restarts hm hp hx
      refine ⟨hdem, hsh, hfc, fun hno => ?_⟩
      obtain ⟨hyn, -, hyl, -⟩ := hy hno
      rw [harr] at hz
      obtain ⟨-, -, hzl, -⟩ := hz hyn
      exact hzl.trans hyl
    · exact h.stands he fun p hq => by cases hp.symm.trans hq
    · exact h.stands he fun q hq => by cases hp.symm.trans hq; exact ⟨hl, hf⟩
  · rw [exec_noticeRepeatExpiry_running hr hd hle, State.repeatNotice_running (s := s.advance dt) hn,
      State.advance_demand, hl, hd, ← hn]
    rfl
  · rw [exec_noticeRepeatExpiry_running hr hd hle, State.repeatNotice_running (s := s.advance dt) hn,
      State.advance_demand, hl]
    rfl

end Sys2Proof.Machine
end

section
/-! SUPPORT. A received emergency notice (R29, R64): a good frame's reception, and what the demand section makes of a
notice. -/

namespace Sys2Proof.Machine

/-! ### The reception of a good frame (R61) -/

/-- The line's idle time runs from the end of a reception (R59). -/
def State.afterReception (s : State) : State := { s with line := { s.line with lastActivityEnd := some s.clock } }

theorem State.afterReception_talks (s : State) : State.Talks s s.afterReception := .of_line_same s _ rfl rfl

/-- RECEIVE_COMPLETION of a good frame in the running part. -/
theorem exec_receiveCompletion_good {s : State} {frame : List Byte} {f : GoodFrame} (hr : s.runPhase = .running)
    (htx : s.line.tx = .idle) (hl : s.line.state ≠ .off) (hc : classify frame 0 = .good f) (dt : Nat) :
    exec (.receiveCompletion dt frame 0) s =
      .next (State.recordChannels (s.advance dt) ((s.advance dt).afterReception.takeFrame f)) := by
  have hrec : (s.advance dt).receives = true := by simp [State.receives, htx, hl]
  have h : (s.advance dt).receive frame 0 = (s.advance dt).afterReception.takeFrame f := by
    unfold State.receive
    rw [hc]
    rfl
  rw [← h]
  exact congrArg _ (State.eventIf_running hr hrec)

/-! ### A notice at the demand section (R29) -/

theorem State.takeNotice_emergency {s : State} (hm : s.demand.mode = .emergency) (f : GoodFrame) :
    s.takeNotice f = s.restartExit := if_pos hm

theorem State.takeNotice_other {s : State} (hm : s.demand.mode ≠ .emergency) (f : GoodFrame) :
    s.takeNotice f = (s.enterEmergency .peer (be8 f.source)).deliver (peerTrigger f) := if_neg hm

theorem State.takeNotice_brakes (s : State) (f : GoodFrame) : State.Brakes s (s.takeNotice f) := by
  unfold State.takeNotice
  split
  · exact s.restartExit_brakes
  · exact (s.enterEmergency_brakes _ _).trans (State.deliver_delivers _ _).brakes

/-- A notice leaves the station in EMERGENCY with its exit timer restarted, and begins no notice sequence. -/
theorem State.takeNotice_demand (s : State) (f : GoodFrame) : (s.takeNotice f).demand =
    { s.demand with mode := .emergency, exitTimer := restartedTimer s.slide.standstill s.clock } := by
  by_cases hm : s.demand.mode = .emergency
  · rw [State.takeNotice_emergency hm, State.restartExit_demand, ← hm]
  · obtain ⟨hd, -⟩ := s.enterEmergency_sections .peer (be8 f.source)
    rw [State.takeNotice_other hm, (State.deliver_delivers _ _).demand, hd]

/-- Outside EMERGENCY it has the effects of R27. -/
theorem State.takeNotice_enters {s : State} (hm : s.demand.mode ≠ .emergency) (f : GoodFrame) :
    (s.takeNotice f).sharing = s.sharing.inEmergency ∧ (s.takeNotice f).outputs.bcSet = 0 ∧
      (s.takeNotice f).outputs.bcOut = emergencyPressure s.config s.acq.latestChans.ind.value := by
  obtain ⟨-, hs, -⟩ := s.enterEmergency_sections .peer (be8 f.source)
  have h := State.deliver_delivers (s.enterEmergency .peer (be8 f.source)) (peerTrigger f)
  rw [State.takeNotice_other hm, h.sharing, h.outputs]
  refine ⟨hs, ?_, ?_⟩
  all_goals simp [State.enterEmergency, State.driveEmergency]

/-! ### The event -/

/-- The Blending Unit's sections and the peer table put in the place of those of two states that are the same but for
messages. -/
theorem State.SameButMessages.with_sections {u v : State} (h : u.SameButMessages v) (d : Demand) (r : Sharing)
    (o : Outputs) (p : PeerTable) :
    State.SameButMessages { u with demand := d, sharing := r, outputs := o, peers := p }
      { v with demand := d, sharing := r, outputs := o, peers := p } := by
  unfold State.SameButMessages at h ⊢
  exact congrArg (fun x : State => { x with demand := d, sharing := r, outputs := o, peers := p }) h

/-- A notice or mark at the table changes the table and delivers messages. -/
theorem State.peerHear_delivers (s : State) (f : GoodFrame) (al : Option Nat) :
    State.Delivers { s with peers := (s.peerHear f al).peers } (s.peerHear f al) := by
  have h := s.withPeers_delivers (hearArrival s.now f.source f.seq al s.peers.entries)
  unfold State.peerHear
  rw [h.peers]
  exact h

/-- A received notice reaches the demand section in the state `x`, after a clash when it bears the own address; the peer
table, the mirror channels and messages follow. -/
theorem State.takeFrame_notice (s : State) {f : GoodFrame} (hk : f.kind = .emergencyNotice) :
    ∃ x peers, State.Talks s x ∧ State.Delivers { x.takeNotice f with peers := peers } (s.takeFrame f) := by
  unfold State.takeFrame
  split
  · refine ⟨s.clash f, ((s.clash f).takeNotice f).peers, s.clash_talks f, ?_⟩
    unfold State.ownAddressFrame
    rw [if_pos hk]
    exact .refl _
  · refine ⟨s, ((s.takeNotice f).peerHear f none).peers, .refl s, ?_⟩
    unfold State.dispatch
    rw [hk]
    exact (State.peerHear_delivers _ _ _).trans (State.mirror_delivers _ _ _ _ _)

/-- Settles O19: the notice's effect (`State.takeNotice_demand`, `State.takeNotice_enters`, `State.takeNotice_emergency`) in
the event of its reception (`State.takeFrame_notice`). -/
theorem receivedNoticeEntersEmergency : Obligations.ReceivedNoticeEntersEmergency := by
  intro dt frame f s hr htx hl hc hk
  obtain ⟨x, peers, hx, hd⟩ := (s.advance dt).afterReception.takeFrame_notice hk
  have ha := (s.advance dt).afterReception_talks.trans hx
  have ht := hd.trans (State.recordChannels_delivers (s.advance dt) _)
  refine ⟨_, exec_receiveCompletion_good hr htx hl hc dt, ?_⟩
  generalize State.recordChannels (s.advance dt) ((s.advance dt).afterReception.takeFrame f) = t at ht ⊢
  have hxm : x.demand.mode = s.demand.mode := by rw [ha.demand]; rfl
  refine ⟨?_, fun hm => ?_, fun hm => ?_, fun hm => ?_, ?_⟩
  · rw [ht.demand]
    dsimp only
    rw [State.takeNotice_demand, ha.demand, ha.slide, ha.clock]
    rfl
  · obtain ⟨-, hset, hout⟩ := State.takeNotice_enters (s := x) (by rw [hxm]; exact hm) f
    rw [ht.outputs]
    dsimp only
    rw [hset, hout, ha.config, ha.acq]
    exact ⟨rfl, rfl⟩
  · obtain ⟨hs, -⟩ := State.takeNotice_enters (s := x) (by rw [hxm]; exact hm) f
    have hts : t.sharing = s.sharing.inEmergency := by
      rw [ht.sharing]
      dsimp only
      rw [hs, ha.sharing]
      rfl
    have hsl : t.slide = s.slide := ht.slide.trans ((x.takeNotice_brakes f).delivers.slide.trans ha.slide)
    refine ⟨hts, ?_⟩
    rw [t.buildStatement_ce, hts, hsl]
    rfl
  · have hn := State.takeNotice_emergency (hxm.trans hm) f
    rw [ht.outputs, ht.sharing]
    dsimp only
    rw [hn, State.restartExit_outputs, State.restartExit_sharing, ha.outputs, ha.sharing]
    exact ⟨rfl, rfl⟩
  · have h₁ := ht.sameButMessages
    have h₂ := (x.takeNotice_brakes f).delivers.sameButMessages.with_sections (x.takeNotice f).demand
      (x.takeNotice f).sharing (x.takeNotice f).outputs peers
    have h₃ := ha.sameButMessages.with_sections (x.takeNotice f).demand (x.takeNotice f).sharing
      (x.takeNotice f).outputs peers
    rw [ht.demand, ht.outputs, ht.sharing, ht.peers]
    exact h₁.trans (h₂.trans h₃)

end Sys2Proof.Machine
end

section
/-! SUPPORT. The triggers of the Line Unit: PEER_LOST at the ageing timer, LINE_ISOLATED, ADDRESS_CLASH, EMERGENCY_PEER and
PEER_MARK (R29, R65, R68, R70, R90). -/

namespace Sys2Proof.Machine

/-! ### Messages without a trigger -/

/-- A message that takes no trigger and leaves the slide holdoff. -/
def Message.Silent (m : Message) : Prop := m.triggers = [] ∧ m.ordinary = true

theorem Message.silent_event (source : EventSource) (detail : List Byte) : (Message.event source detail).Silent :=
  ⟨rfl, rfl⟩

theorem Message.silent_count {i : CounterId} (hi : i ≠ .heldOff) : (Message.count i).Silent :=
  ⟨rfl, decide_eq_true hi⟩

theorem State.deliver_quiet {m : Message} (h : m.Silent) (s : State) : State.Quiet s (s.deliver m) := by
  obtain ⟨ht, ho⟩ := h
  cases m with
  | event source detail => exact s.logEvent_quiet source detail
  | trigger x => cases ht
  | urgent kind payload => exact s.handUrgent_quiet kind payload
  | count i => exact s.bump_quiet (of_decide_eq_true ho)

theorem State.deliverAll_quiet {ms : List Message} (h : ∀ m ∈ ms, m.Silent) (s : State) :
    State.Quiet s (s.deliverAll ms) := by
  induction ms generalizing s with
  | nil => exact .refl s
  | cons m ms ih => exact (State.deliver_quiet (h m (by simp)) s).trans (ih (fun x hx => h x (by simp [hx])) _)

theorem State.Quiet.of_peers (s : State) (p : PeerTable) : State.Quiet s { s with peers := p } :=
  ⟨rfl, rfl, rfl, rfl, rfl, rfl, rfl⟩

theorem State.Quiet.with_line {s t : State} (h : State.Quiet s t) (l : Line) : State.Quiet s { t with line := l } :=
  ⟨h.clock, h.config, h.state, h.capture, h.pendingQueue, h.holdoff, h.heldOff⟩

theorem State.withPeers_quiet {r : List PeerEntry × List Message} (h : ∀ m ∈ r.2, m.Silent) (s : State) :
    State.Quiet s (s.withPeers r) := (State.Quiet.of_peers s _).trans (State.deliverAll_quiet h _)

theorem State.mirror_quiet (s : State) (bit : Nat) (own : Bool) (body check : List Byte) :
    State.Quiet s (s.mirror bit own body check) := .of_channels s (Recorder.trace_onlyChannels _ _ _)

/-! ### PEER_LOST (R90) -/

/-- An entry has not been heard for 500 ms (R90). -/
def PeerEntry.isOld (e : PeerEntry) (now : Time) : Bool :=
  (e.heard.map fun h => decide (500 ≤ since now h)).getD true

/-- An entry has made no excess for 2000 ms (R89). -/
def PeerEntry.isCalm (e : PeerEntry) (now : Time) : Bool :=
  (e.excess.map fun w => decide (2000 ≤ since now w.last)).getD true

/-- R89 on one entry. -/
theorem PeerEntry.calm_eq (e : PeerEntry) (now : Time) : e.calm now =
    if e.state = .unruly ∧ e.isCalm now = true then
      ({ e with state := .live, entered := now, excess := none },
       [peerEvent { e with state := .live, entered := now, excess := none } (peerCode .unruly) (peerCode .live) .calmed])
    else (e, []) := by
  unfold PeerEntry.calm PeerEntry.isCalm
  cases e.excess <;> rfl

/-- R90 on one entry. -/
theorem PeerEntry.age_eq (e : PeerEntry) (now : Time) : e.age now =
    if (e.state = .live ∨ e.state = .joining ∨ e.state = .unruly) ∧ e.isOld now = true then
      ({ e with state := .silent, entered := now, firstTime := none },
       peerEvent { e with state := .silent, entered := now, firstTime := none } (peerCode e.state) (peerCode .silent)
         .aged :: if e.fixed = true ∧ e.state = .live then [peerLost e] else [])
    else (e, []) := by
  unfold PeerEntry.age PeerEntry.isOld
  cases e.heard <;> rfl

/-- The trigger of an entry that R90 makes SILENT. -/
def PeerEntry.lostTriggers (e : PeerEntry) (now : Time) : List Trigger :=
  if e.fixed = true ∧ e.isOld now = true ∧ e.state = .live then (peerLost e).triggers else []

theorem PeerEntry.age_triggers (e : PeerEntry) (now : Time) :
    (e.age now).2.flatMap Message.triggers = e.lostTriggers now ∧ ∀ m ∈ (e.age now).2, m.ordinary = true := by
  rw [e.age_eq]
  unfold PeerEntry.lostTriggers
  split
  · rename_i h
    obtain ⟨-, ho⟩ := h
    by_cases hl : e.fixed = true ∧ e.state = .live
    · rw [if_pos hl, if_pos ⟨hl.1, ho, hl.2⟩]
      exact ⟨rfl, by simp [Message.ordinary, peerEvent, peerLost, causeOf]⟩
    · rw [if_neg hl, if_neg fun hx => hl ⟨hx.1, hx.2.2⟩]
      exact ⟨rfl, by simp [Message.ordinary, peerEvent]⟩
  · rename_i h
    rw [if_neg fun hx => h ⟨.inl hx.2.2, hx.2.1⟩]
    exact ⟨rfl, by simp⟩

theorem PeerEntry.calm_silent (e : PeerEntry) (now : Time) : ∀ m ∈ (e.calm now).2, m.Silent := by
  rw [e.calm_eq]
  split
  · simp [Message.Silent, peerEvent, Message.triggers, Message.ordinary]
  · simp

theorem PeerEntry.expire_silent (e : PeerEntry) (now : Time) : ∀ m ∈ (e.expire now).2, m.Silent := by
  unfold PeerEntry.expire
  split
  · split <;> simp [Message.Silent, peerEvent, Message.triggers, Message.ordinary]
  · simp

theorem Message.flatMap_silent {ms : List Message} (h : ∀ m ∈ ms, m.Silent) : ms.flatMap Message.triggers = [] :=
  List.flatMap_eq_nil_iff.mpr fun m hm => (h m hm).1

/-- The trigger that one entry gives at an expiry of the ageing timer: an UNRULY entry calmed at it is LIVE before it is aged
(log entry 34). -/
theorem PeerEntry.calm_lostTriggers (e : PeerEntry) (now : Time) : (e.calm now).1.lostTriggers now =
    if e.fixed = true ∧ e.isOld now = true ∧ (e.state = .live ∨ e.state = .unruly ∧ e.isCalm now = true) then
      (peerLost e).triggers
    else [] := by
  rw [e.calm_eq]
  by_cases hc : e.state = .unruly ∧ e.isCalm now = true
  · rw [if_pos hc]
    simp only [hc, and_self, or_true, and_true]
    unfold PeerEntry.lostTriggers
    simp only [and_true]
    rfl
  · rw [if_neg hc]
    simp only [hc, or_false]
    rfl

/-- One entry's messages at an expiry of the ageing timer. -/
theorem PeerEntry.ageStep_triggers (e : PeerEntry) (now : Time) :
    (e.ageStep now).2.flatMap Message.triggers = (e.calm now).1.lostTriggers now ∧
      ∀ m ∈ (e.ageStep now).2, m.ordinary = true := by
  obtain ⟨ha, ho⟩ := PeerEntry.age_triggers (e.calm now).1 now
  have hc := e.calm_silent now
  have hx := PeerEntry.expire_silent ((e.calm now).1.age now).1 now
  unfold PeerEntry.ageStep
  dsimp only
  refine ⟨?_, fun m hm => ?_⟩
  · rw [List.flatMap_append, List.flatMap_append, Message.flatMap_silent hc, Message.flatMap_silent hx, ha,
      List.nil_append, List.append_nil]
  · rcases List.mem_append.mp hm with hm | hm
    · rcases List.mem_append.mp hm with hm | hm
      · exact (hc m hm).2
      · exact ho m hm
    · exact (hx m hm).2

/-- The ageing of all entries: the triggers of the lost ones in address order. -/
theorem State.agePeers_takes {s : State} (hs : s.Taking) :
    State.Takes s s.agePeers (s.peers.entries.flatMap fun e => (e.calm s.now).1.lostTriggers s.now) 0 := by
  unfold State.agePeers
  dsimp only
  have hq := State.Quiet.of_peers s { s.peers with
    entries := (s.peers.entries.map (PeerEntry.ageStep s.now)).filterMap Prod.fst }
  have hm : ∀ m ∈ (s.peers.entries.map (PeerEntry.ageStep s.now)).flatMap Prod.snd, m.ordinary = true := by
    intro m hm
    obtain ⟨r, hr, hmr⟩ := List.mem_flatMap.mp hm
    obtain ⟨e, -, rfl⟩ := List.mem_map.mp hr
    exact (e.ageStep_triggers s.now).2 m hmr
  have h := hq.thenTakes (State.deliverAll_takes hm (hq.taking hs))
  have ht : ((s.peers.entries.map (PeerEntry.ageStep s.now)).flatMap Prod.snd).flatMap Message.triggers =
      s.peers.entries.flatMap fun e => (e.calm s.now).1.lostTriggers s.now := by
    rw [List.flatMap_map, List.flatMap_assoc]
    exact List.flatMap_congr fun e _ => (e.ageStep_triggers s.now).1
  rw [ht] at h
  exact h

/-! ### LINE_ISOLATED (R68) -/

theorem State.setLine_quiet (s : State) (new : LineState) (cause : EventCause) :
    State.Quiet s (s.setLine new cause) := (State.Quiet.of_units s _ _ _ _ _ _).trans (State.logEvent_quiet _ _ _)

theorem State.bumpN_quiet (n : Nat) (s : State) {i : CounterId} (hi : i ≠ .heldOff) : State.Quiet s (s.bumpN i n) := by
  induction n generalizing s with
  | zero => exact .refl s
  | succ n ih => exact (s.bump_quiet hi).trans (ih _)

theorem State.emptyClasses_quiet (s : State) : State.Quiet s s.emptyClasses :=
  (State.Quiet.of_units s _ _ _ _ _ _).trans (State.bumpN_quiet _ _ (by decide))

/-- The trigger of a line that enters ISOLATED. -/
def isolatedTrigger (kind : FrameKind) (why : Abandon) : Trigger :=
  { cause := .lineIsolated, detail := be8 (frameCode kind) ++ be8 (abandonCode why), origin := none }

theorem State.isolate_takes {s : State} (hs : s.Taking) (kind : FrameKind) (why : Abandon) :
    State.Takes s (s.isolate kind why) [isolatedTrigger kind why] 0 := by
  have hq := ((s.setLine_quiet .isolated .trouble).trans (State.emptyClasses_quiet _)).with_line
    { (s.setLine .isolated .trouble).emptyClasses.line with hold := 2000, holdDue := some (s.clock + 2000 * 1000) }
  exact hq.thenTakes (State.deliver_takes (hq.taking hs) (m := .trigger (isolatedTrigger kind why)) rfl)

/-- A third abandonment in ACTIVE isolates the line. -/
theorem State.abandoned_takes {s : State} (hs : s.Taking) (ha : s.line.state = .active) (ht : 2 ≤ s.line.trouble)
    (kind : FrameKind) (why : Abandon) :
    State.Takes s (s.abandoned kind why) [isolatedTrigger kind why] 0 := by
  unfold State.abandoned
  rw [if_neg (by simp [ha]), if_pos ha]
  dsimp only
  rw [if_pos (by omega)]
  have hq := (State.Quiet.refl s).with_line { s.line with trouble := min 3 (s.line.trouble + 1) }
  exact hq.thenTakes (State.isolate_takes (hq.taking hs) kind why)

theorem Line.leave_state (l : Line) (c : TxClass) : (l.leave c).state = l.state := by cases c <;> rfl
theorem Line.leave_trouble (l : Line) (c : TxClass) : (l.leave c).trouble = l.trouble := by cases c <;> rfl

section
variable {s : State} {c : TxClass} {f : TxFrame} (hs : s.Taking) (hf : s.line.head c = some f)
  (ha : s.line.state = .active) (ht : 2 ≤ s.line.trouble)
include hs hf ha ht

/-- A tenth collision in the window abandons the frame. -/
theorem State.collide_takes (hk : 10 ≤ f.k + 1) : State.Takes s (s.collide c) [isolatedTrigger f.kind .excessive] 0 := by
  unfold State.collide
  rw [hf]
  dsimp only
  rw [if_neg (by omega)]
  have hl : ((s.bump .collisions).bump .excessiveCollisions).line = s.line := by
    rw [State.bump_line, State.bump_line]
  have hq := ((s.bump_quiet (i := .collisions) (by decide)).trans
    (State.bump_quiet _ (i := .excessiveCollisions) (by decide)))
  generalize (s.bump .collisions).bump .excessiveCollisions = x at hl hq ⊢
  have hq' := hq.with_line { x.line.leave c with tx := .jamming none (s.clock + 128) }
  refine hq'.thenTakes (State.abandoned_takes (hq'.taking hs) ?_ ?_ _ _)
  · show (x.line.leave c).state = _
    rw [Line.leave_state, hl, ha]
  · show 2 ≤ (x.line.leave c).trouble
    rw [Line.leave_trouble, hl]
    exact ht

/-- A late collision abandons the frame. -/
theorem State.lateCollide_takes : State.Takes s (s.lateCollide c) [isolatedTrigger f.kind .late] 0 := by
  unfold State.lateCollide
  rw [hf]
  dsimp only
  have hl : (s.bump .lateCollisions).line = s.line := State.bump_line _ _
  have hq := s.bump_quiet (i := .lateCollisions) (by decide)
  generalize s.bump .lateCollisions = x at hl hq ⊢
  have hq' := hq.with_line { x.line.leave c with tx := .idle, lastActivityEnd := some s.clock }
  refine hq'.thenTakes (State.abandoned_takes (hq'.taking hs) ?_ ?_ _ _)
  · show (x.line.leave c).state = _
    rw [Line.leave_state, hl, ha]
  · show 2 ≤ (x.line.leave c).trouble
    rw [Line.leave_trouble, hl]
    exact ht

end

/-! ### ADDRESS_CLASH, EMERGENCY_PEER and PEER_MARK (R29, R65, R70) -/

/-- The trigger of a clash at a line's clash count and state. -/
def clashTriggers (clashes : Nat) (state : LineState) (f : GoodFrame) : List Trigger :=
  if 1 ≤ clashes ∧ state ≠ .clashed then
    [{ cause := .addressClash, detail := be8 (frameCode f.kind) ++ be8 f.group ++ [f.seq], origin := none }]
  else []

/-- The trigger of a good frame that is a notice received outside EMERGENCY. -/
def noticeTriggers (mode : Mode) (f : GoodFrame) : List Trigger :=
  if f.kind = .emergencyNotice ∧ mode ≠ .emergency then (peerTrigger f).triggers else []

theorem noticeTriggers_other {f : GoodFrame} (h : f.kind ≠ .emergencyNotice) (mode : Mode) :
    noticeTriggers mode f = [] := if_neg fun hx => h hx.1

/-- A second clash outside CLASHED raises its trigger. -/
theorem State.clash_takes {s : State} (hs : s.Taking) (ho : s.line.state ≠ .off) (f : GoodFrame) :
    State.Takes s (s.clash f) (clashTriggers s.line.clashes s.line.state f) 0 := by
  have hcond : (2 ≤ s.line.clashes + 1 ∧
      (s.line.state = .listening ∨ s.line.state = .active ∨ s.line.state = .isolated)) ↔
      (1 ≤ s.line.clashes ∧ s.line.state ≠ .clashed) := by
    cases hst : s.line.state <;> simp_all
  have hq := ((State.Quiet.refl s).with_line { s.line with clashes := min 2 (s.line.clashes + 1) }).trans
    (State.bump_quiet _ (i := .addressClashes) (by decide))
  unfold State.clash clashTriggers
  dsimp only
  simp only [hcond]
  generalize State.bump _ _ = x at hq ⊢
  split
  · have hq' := ((hq.trans (x.setLine_quiet .clashed .clash)).trans (State.emptyClasses_quiet _)).with_line
      { (x.setLine .clashed .clash).emptyClasses.line with holdDue := none, listenDue := none }
    exact hq'.thenTakes (State.deliver_takes (hq'.taking hs) rfl)
  · exact hq.takes

theorem State.takeNotice_takes {s : State} (hs : s.Taking) {f : GoodFrame} (hk : f.kind = .emergencyNotice) :
    State.Takes s (s.takeNotice f) (noticeTriggers s.demand.mode f) 0 := by
  unfold noticeTriggers
  by_cases hm : s.demand.mode = .emergency
  · rw [State.takeNotice_emergency hm, if_neg fun hx => hx.2 hm]
    exact s.restartExit_quiet.takes
  · rw [State.takeNotice_other hm, if_pos ⟨hk, hm⟩]
    have hq := s.enterEmergency_quiet .peer (be8 f.source)
    exact hq.thenTakes (State.deliver_takes (hq.taking hs) rfl)

/-! ### The peer table's messages -/

theorem acceptEvent_silent (e e' : PeerEntry) : ∀ m ∈ acceptEvent e e', m.Silent := by
  unfold acceptEvent
  split
  · simp
  · simp [Message.Silent, peerEvent, Message.triggers, Message.ordinary]

theorem PeerEntry.statement_silent (e : PeerEntry) (now : Time) (group : Nat) (seq : BitVec 8) (v : Statement) :
    ∀ m ∈ (e.statement now group seq v).2, m.Silent := by
  have hin : ∀ d, ∀ m ∈ (let e₁ := e.ordered seq d
      if e₁.isExcess now then
        let e₂ := e₁.takeExcess now
        (e₂, Message.count .excesses :: if e₁.state = e₂.state then []
               else [peerEvent e₂ (peerCode e₁.state) (peerCode e₂.state) .flooding])
      else (e₁.accept now group seq v, acceptEvent e₁ (e₁.accept now group seq v))).2, m.Silent := by
    intro d
    dsimp only
    split
    · dsimp only
      split <;> simp [Message.Silent, peerEvent, Message.triggers, Message.ordinary]
    · exact acceptEvent_silent _ _
  unfold PeerEntry.statement
  split
  · exact acceptEvent_silent _ _
  · exact acceptEvent_silent _ _
  all_goals
    split
    · simpa using Message.silent_count (i := .duplicates) (by decide)
    · simpa using Message.silent_count (i := .staleFrames) (by decide)
    · exact hin _

theorem statementArrival_silent (now : Time) (addr group : Nat) (seq : BitVec 8) (v : Statement)
    (es : List PeerEntry) : ∀ m ∈ (statementArrival now addr group seq v es).2, m.Silent := by
  have hev : ∀ (e : PeerEntry) (a b : Nat) (c : EventCause), (peerEvent e a b c).Silent :=
    fun _ _ _ _ => Message.silent_event _ _
  unfold statementArrival
  split
  · exact PeerEntry.statement_silent _ _ _ _ _
  · split
    · simpa [createPeer] using hev _ _ _ _
    · split
      · simpa using Message.silent_count (i := .tableRefusals) (by decide)
      · simpa [createPeer] using ⟨hev _ _ _ _, hev _ _ _ _⟩

/-- A notice or mark at the table gives at most a count. -/
theorem hearArrival_messages (now : Time) (addr : Nat) (seq : BitVec 8) (al : Option Nat) (es : List PeerEntry) :
    ∀ m ∈ (hearArrival now addr seq al es).2, m = .count .duplicates ∨ m = .count .staleFrames := by
  have h : ∀ e : PeerEntry, ∀ m ∈ (e.hear now seq al).2, m = .count .duplicates ∨ m = .count .staleFrames := by
    intro e
    unfold PeerEntry.hear
    split
    · simp
    · simp
    all_goals
      split
      · simp
      · simp
      · cases al <;> simp
  unfold hearArrival
  split
  · simp
  · exact h _

theorem State.peerHear_quiet (s : State) (f : GoodFrame) (al : Option Nat) : State.Quiet s (s.peerHear f al) := by
  refine State.withPeers_quiet (fun m hm => ?_) s
  rcases hearArrival_messages _ _ _ _ _ m hm with rfl | rfl
  · exact Message.silent_count (by decide)
  · exact Message.silent_count (by decide)

theorem State.peerStatement_quiet (s : State) (f : GoodFrame) : State.Quiet s (s.peerStatement f) :=
  State.withPeers_quiet (statementArrival_silent _ _ _ _ _ _) s

/-- A notice or mark at the table leaves the line. -/
theorem State.peerHear_line (s : State) (f : GoodFrame) (al : Option Nat) : (s.peerHear f al).line = s.line := by
  have h : ∀ (ms : List Message) (x : State), (∀ m ∈ ms, m = .count .duplicates ∨ m = .count .staleFrames) →
      (x.deliverAll ms).line = x.line := by
    intro ms
    induction ms with
    | nil => exact fun x _ => rfl
    | cons m ms ih =>
      intro x hm
      refine (ih _ fun z hz => hm z (by simp [hz])).trans ?_
      rcases hm m (by simp) with rfl | rfl
      · exact State.bump_line x _
      · exact State.bump_line x _
  exact h _ _ (hearArrival_messages _ _ _ _ _)

/-! ### A good frame -/

/-- The triggers of a good frame that bears the own address: the clash before the notice (log entry 45). -/
theorem State.takeFrame_own_takes {s : State} (hs : s.Taking) (ho : s.line.state ≠ .off) {f : GoodFrame}
    (hf : f.source = s.address) : State.Takes s (s.takeFrame f)
      (clashTriggers s.line.clashes s.line.state f ++ noticeTriggers s.demand.mode f) 0 := by
  have hc := State.clash_takes hs ho f
  unfold State.takeFrame State.ownAddressFrame
  rw [if_pos hf]
  split
  · rename_i hk
    have hn := State.takeNotice_takes (hc.taking hs) hk
    rw [(s.clash_talks f).demand] at hn
    exact hc.trans hn
  · rename_i hk
    rw [noticeTriggers_other hk, List.append_nil]
    exact hc

/-- The trigger of another station's frame that is no mark. -/
theorem State.takeFrame_other_takes {s : State} (hs : s.Taking) {f : GoodFrame} (hf : f.source ≠ s.address)
    (hk : f.kind ≠ .incidentMark) : State.Takes s (s.takeFrame f) (noticeTriggers s.demand.mode f) 0 := by
  unfold State.takeFrame
  rw [if_neg hf]
  refine State.Takes.then ?_ (State.mirror_quiet _ _ _ _ _)
  unfold State.dispatch
  split
  · rename_i hkind
    rw [noticeTriggers_other (by simp [hkind])]
    exact (s.peerStatement_quiet f).takes
  · rename_i hkind
    rw [noticeTriggers_other (by simp [hkind])]
    exact (s.peerHear_quiet f _).takes
  · rename_i hkind
    exact (State.takeNotice_takes hs hkind).then (State.peerHear_quiet _ _ _)
  · rename_i hkind
    exact absurd hkind hk

/-- Another station's mark at the Recorder and the peer table. -/
theorem State.dispatch_mark (s : State) {f : GoodFrame} (hk : f.kind = .incidentMark) :
    s.dispatch f = (s.raise (markTrigger f)).peerHear f none := by
  unfold State.dispatch
  rw [hk]

/-- Its trigger is taken. -/
theorem State.takeFrame_mark_takes {s : State} (hs : s.Taking) {f : GoodFrame} (hf : f.source ≠ s.address)
    (hk : f.kind = .incidentMark) : State.Takes s (s.takeFrame f) [markTrigger f] 0 := by
  unfold State.takeFrame
  rw [if_neg hf, s.dispatch_mark hk]
  have h : State.Takes s (s.raise (markTrigger f)) [markTrigger f] 0 :=
    State.deliver_takes hs (m := .trigger (markTrigger f)) rfl
  exact (h.then (State.peerHear_quiet _ _ _)).then (State.mirror_quiet _ _ _ _ _)

/-- The Recorder in IDLE may open an incident on a mark (R148, R150). -/
structure State.OpensOnMark (s : State) : Prop where
  idle : s.recorder.state = .idle
  capture : s.recorder.capture = none
  enabled : (s.triggerLine .peerMark).enable = true
  ungated : (s.triggerLine .peerMark).importance = .high ∨ s.recorder.pendingQueue.length < s.config.gate
  numbers : s.store.exhausted = false
  power : s.powerFail = false

/-- The incident is opened, and no mark is handed over for it (R153). -/
theorem State.OpensOnMark.raise {s : State} (h : s.OpensOnMark) (f : GoodFrame) :
    (s.raise (markTrigger f)).line = s.line ∧ (s.raise (markTrigger f)).recorder.state = .capturing ∧
      (s.raise (markTrigger f)).recorder.capture = some (s.newIncident (markTrigger f)) := by
  have hg : ¬((s.triggerLine (markTrigger f).cause).importance = .low ∧
      s.config.gate ≤ s.recorder.pendingQueue.length) := by
    rintro ⟨hl, hle⟩
    rcases h.ungated with hh | hh
    · exact absurd (hh.symm.trans hl) (by decide)
    · omega
  have hr : s.raise (markTrigger f) = s.openIncident (markTrigger f) := by
    unfold State.raise
    rw [if_neg (by simp [h.idle]), if_neg (by simp [markTrigger, h.enabled]),
      if_neg (by simp [State.heldOff, markTrigger]), if_neg hg, h.capture]
    dsimp only
    rw [if_neg (by simp [h.numbers]), if_neg (by simp [h.power])]
  have hopen : s.openIncident (markTrigger f) = { s with
      recorder := { s.recorder with
        capture := some (s.newIncident (markTrigger f)), state := .capturing, peaks := resetPeaks
        holdoff := holdoffAfter (markTrigger f) s.now s.recorder.holdoff }
      store := s.store.takeNumber } := by
    unfold State.openIncident
    dsimp only
    rw [if_neg (by simp [markTrigger])]
  rw [hr, hopen]
  exact ⟨rfl, rfl, rfl⟩

/-- Another station's mark opens an incident in IDLE, and the urgent queue stands. -/
theorem State.OpensOnMark.takeFrame {s : State} (h : s.OpensOnMark) {f : GoodFrame} (hf : f.source ≠ s.address)
    (hk : f.kind = .incidentMark) : (s.takeFrame f).line = s.line ∧
      (s.takeFrame f).recorder.state = .capturing ∧
      (s.takeFrame f).recorder.capture = some (s.newIncident (markTrigger f)) := by
  obtain ⟨hl, hst, hc⟩ := h.raise f
  have hq := (State.peerHear_quiet (s.raise (markTrigger f)) f none).trans
    (State.mirror_quiet _ f.source false f.body f.check)
  unfold State.takeFrame
  rw [if_neg hf, s.dispatch_mark hk]
  exact ⟨(State.mirror_line _ _ _ _ _).trans ((State.peerHear_line _ _ _).trans hl), hq.state.trans hst,
    hq.capture.trans hc⟩

/-! ### The events -/

/-- AGEING_TIMER_EXPIRY of the running part at its time. -/
theorem exec_ageingTimerExpiry_running {s : State} {dt : Nat} (hr : s.runPhase = .running)
    (hd : s.peers.ageingDue ≤ s.clock + dt) : exec (.ageingTimerExpiry dt) s =
      .next (State.recordChannels (s.advance dt) (s.advance dt).ageingExpires) :=
  congrArg _ (State.eventIf_running hr (decide_eq_true hd))

/-- COLLISION within the collision window. -/
theorem exec_collision_running {s : State} {dt start : Nat} {c : TxClass} (hr : s.runPhase = .running)
    (htx : s.line.tx = .sending c start) (h : s.clock + dt < start + 256) : exec (.collision dt) s =
      .next (State.recordChannels (s.advance dt) ((s.advance dt).collide c)) := by
  have hw : (s.advance dt).collisionEvent = (s.advance dt).collide c := by
    unfold State.collisionEvent
    rw [State.advance_line, htx]
    exact if_pos h
  rw [← hw]
  exact congrArg _ (State.event_running hr)

/-- LATE_COLLISION after it. -/
theorem exec_lateCollision_running {s : State} {dt start : Nat} {c : TxClass} (hr : s.runPhase = .running)
    (htx : s.line.tx = .sending c start) (h : start + 256 ≤ s.clock + dt) : exec (.lateCollision dt) s =
      .next (State.recordChannels (s.advance dt) ((s.advance dt).lateCollide c)) := by
  have hw : (s.advance dt).lateEvent = (s.advance dt).lateCollide c := by
    unfold State.lateEvent
    rw [State.advance_line, htx]
    exact if_pos h
  rw [← hw]
  exact congrArg _ (State.event_running hr)

/-- Triggers taken by an event's work, after its channel-state records. -/
theorem State.Takes.recorded {s t : State} {x : List Trigger} {n : Nat} (h : State.Takes s t x n) {inc : Incident}
    (hi : s.TakesTriggers inc) : (State.recordChannels s t).TookTriggers inc x :=
  (h.then (State.recordChannels_quiet s t)).took hi

/-- The triggers of one expiry of the ageing timer, entry by entry. -/
theorem flatMap_lostTriggers (es : List PeerEntry) (now : Time) :
    (es.flatMap fun e => (e.calm now).1.lostTriggers now) = es.filterMap fun e =>
      if e.fixed = true ∧ e.isOld now = true ∧ (e.state = .live ∨ e.state = .unruly ∧ e.isCalm now = true) then
        some { cause := .peerLost, origin := none
               detail := be8 e.addr ++ be8 (e.group.getD 8) ++ be32 ((e.heard.map BitVec.toNat).getD 0) ++
                 be8 ((e.last.map fun v => v.mode.toNat).getD 0) }
      else none := by
  rw [List.filterMap_eq_flatMap_toList]
  refine List.flatMap_congr fun e _ => ?_
  rw [e.calm_lostTriggers]
  split <;> rfl

/-- Settles O40: the ageing timer (`State.agePeers_takes`), a third abandonment (`State.collide_takes`,
`State.lateCollide_takes`), a good frame (`State.takeFrame_own_takes`, `State.takeFrame_other_takes`), and the mark that opens
an incident (`State.OpensOnMark.takeFrame`). -/
theorem lineRaisesItsTriggers : Obligations.LineRaisesItsTriggers := by
  refine ⟨fun dt inc s hr hd hi => ?_, fun dt start c f inc s hr htx hf ha ht hi => ⟨fun hw hk => ?_, fun hw => ?_⟩,
    fun dt frame f s hr htx hl hc => ?_⟩
  · refine ⟨_, exec_ageingTimerExpiry_running hr hd, ?_⟩
    have hq := State.Quiet.of_peers (s.advance dt)
      { (s.advance dt).peers with ageingDue := (s.advance dt).peers.ageingDue + 20000 }
    have h := hq.thenTakes (State.agePeers_takes (hq.taking ⟨inc, hi.advance dt⟩))
    rw [flatMap_lostTriggers] at h
    exact h.recorded (hi.advance dt)
  · exact ⟨_, exec_collision_running hr htx hw,
      (State.collide_takes (s := s.advance dt) ⟨inc, hi.advance dt⟩ hf ha ht hk).recorded (hi.advance dt)⟩
  · exact ⟨_, exec_lateCollision_running hr htx hw,
      (State.lateCollide_takes (s := s.advance dt) ⟨inc, hi.advance dt⟩ hf ha ht).recorded (hi.advance dt)⟩
  · have hq : State.Quiet (s.advance dt) (s.advance dt).afterReception := (State.Quiet.refl _).with_line _
    refine ⟨_, exec_receiveCompletion_good hr htx hl hc dt, fun inc hi => ?_, fun hf hk hst hcap hen hg hx hp => ?_⟩
    · have hs : (s.advance dt).afterReception.Taking := hq.taking ⟨inc, hi.advance dt⟩
      exact ⟨fun hf => (hq.thenTakes (State.takeFrame_own_takes hs hl hf)).recorded (hi.advance dt),
        fun hf hk => (hq.thenTakes (State.takeFrame_other_takes hs hf hk)).recorded (hi.advance dt),
        fun hf hk => (hq.thenTakes (State.takeFrame_mark_takes hs hf hk)).recorded (hi.advance dt)⟩
    · have ho : (s.advance dt).afterReception.OpensOnMark := ⟨hst, hcap, hen, hg, hx, hp⟩
      obtain ⟨hline, hrec, hcapt⟩ := ho.takeFrame hf hk
      have hr' := State.recordChannels_quiet (s.advance dt) ((s.advance dt).afterReception.takeFrame f)
      obtain ⟨r, hframe, -⟩ := State.recordChannels_frame (s.advance dt) ((s.advance dt).afterReception.takeFrame f)
      refine ⟨?_, hr'.state.trans hrec, _, hr'.capture.trans hcapt, rfl, rfl⟩
      rw [hframe]
      dsimp only
      rw [hline]
      rfl

end Sys2Proof.Machine
end

section
/-! SUPPORT. The slide unit under every command: it stands but for the slide-cut flag, a speed set arrives at it, or the
reset sequence gives it its reset values (laws 5 and 8). -/

namespace Sys2Proof.Machine

/-! ### Commands that leave the slide unit -/

theorem State.Brakes.slide {s t : State} (h : State.Brakes s t) : t.slide = s.slide := h.delivers.slide

theorem State.repeatNotice_brakes (s : State) : State.Brakes s s.repeatNotice := by
  cases hn : s.demand.notice with
  | none =>
    unfold State.repeatNotice
    rw [hn]
    exact .of_sections s _ _ _
  | some n =>
    rw [State.repeatNotice_running hn]
    exact .trans (.of_sections s _ _ _) (State.handUrgent_delivers _ _ _).brakes

theorem State.statusArrival_brakes (s : State) (frame : List Byte) : State.Brakes s (s.statusArrival frame) := by
  unfold State.statusArrival
  split
  · exact (State.bump_delivers s _).brakes
  · split
    · exact (State.bump_delivers s _).brakes
    · dsimp only
      split
      · exact .trans (.of_sections s _ _ _) (State.deliverAll_delivers _ _).brakes
      · exact (State.bump_delivers s _).brakes

theorem State.withPeers_slide (s : State) (r : List PeerEntry × List Message) : (s.withPeers r).slide = s.slide :=
  (State.withPeers_delivers s r).slide

/-- A good frame leaves the slide unit, also where it is a notice that enters EMERGENCY. -/
theorem State.takeFrame_slide (s : State) (f : GoodFrame) : (s.takeFrame f).slide = s.slide := by
  unfold State.takeFrame
  split
  · have hc := (State.clash_talks s f).slide
    unfold State.ownAddressFrame
    split
    · exact (State.takeNotice_brakes _ f).slide.trans hc
    · exact hc
  · rw [State.mirror_slide]
    unfold State.dispatch
    split
    · exact State.withPeers_slide s _
    · exact State.withPeers_slide s _
    · exact (State.withPeers_slide _ _).trans (State.takeNotice_brakes s f).slide
    · exact (State.withPeers_slide _ _).trans (State.raise_delivers s _).slide

theorem State.receive_slide (s : State) (frame : List Byte) (extra : Nat) :
    (s.receive frame extra).slide = s.slide := by
  unfold State.receive
  dsimp only
  split
  · exact (State.bump_delivers _ _).slide
  · exact (State.bump_delivers _ _).slide
  · exact (State.bump_delivers _ _).slide
  · exact State.takeFrame_slide _ _

theorem State.convert_slide (s : State) (i : PressId) (c : Conversion) : (s.convert i c).slide = s.slide := by
  unfold State.convert
  dsimp only
  split <;> rfl

/-- A control cycle takes the slide-cut flag and leaves the rest of the unit (R53, R117). -/
theorem State.controlCycle_slide (s : State) : s.controlCycle.slide = { s.slide with slideCut := false } := by
  obtain ⟨y, hy, hc⟩ := s.controlCycle_spec
  have hz : y.computeDemand.sharingStage.cycled.slide = { y.slide with slideCut := false } := rfl
  rw [hc.slide, hz, hy.slide]

/-- A speed window's expiry has the seven stages done on the unit. -/
theorem State.windowExpires_slide (s : State) (faults : Tri Bool) : (s.windowExpires faults).slide =
    s.slide.arrive s.config s.demand.mode (s.acq.window faults s.handleLevel s.clock s.now s.stamp).axles
      (eligibleVrefs s.peers.entries s.config.group) s.now := (s.windowExpires_quiet faults).2

/-! ### Every command -/

/-- What a command outside the reset sequence can do to the slide unit. -/
def Slide.Steps (u v : Slide) (c : Configuration) : Prop :=
  (∃ cut, v = { u with slideCut := cut }) ∨ ∃ mode sp peers now, v = u.arrive c mode sp peers now

theorem Slide.Steps.of_eq {u v : Slide} (h : v = u) (c : Configuration) : u.Steps v c := .inl ⟨u.slideCut, h⟩

/-- An event leaves the slide unit as its work does, or as it was. -/
theorem State.event_slideSteps {work : State → State}
    (hw : ∀ s : State, s.slide.Steps (work s).slide s.config) (s : State) (dt : Nat) :
    s.slide.Steps (s.event dt work).slide s.config := by
  unfold State.event
  dsimp only
  split
  · rw [(State.recordChannels_delivers _ _).slide]
    exact hw (s.advance dt)
  · exact .of_eq rfl _

theorem State.eventIf_slideSteps {cond : State → Bool} {work : State → State}
    (hw : ∀ s : State, s.slide.Steps (work s).slide s.config) (s : State) (dt : Nat) :
    s.slide.Steps (s.eventIf dt cond work).slide s.config := by
  refine State.event_slideSteps (fun s => ?_) s dt
  split
  · exact hw s
  · exact .of_eq rfl _

/-- The commands of the sensing and blending units. -/
theorem exec_units_slideSteps {c : Instr} (hu : touchesUnits c = true) (hc : resetCommand c = false) (s : State) :
    ∃ t, exec c s = .next t ∧ s.slide.Steps t.slide s.config := by
  cases c <;> first | (simp only [touchesUnits, Bool.false_eq_true] at hu; done) | skip
  case reset | configImageReadCompletion | restartResponseSent => cases hc
  case scanCompletion dt =>
    exact ⟨_, rfl, State.eventIf_slideSteps (fun s => .of_eq s.scanCompletes_brakes.slide _) s dt⟩
  case toothPulse dt axle =>
    refine ⟨_, rfl, State.event_slideSteps (fun s => ?_) s dt⟩
    exact .of_eq rfl _
  case speedWindowExpiry dt f₁ f₂ f₃ =>
    exact ⟨_, rfl, State.eventIf_slideSteps (fun s => .inr ⟨_, _, _, _, s.windowExpires_slide _⟩) s dt⟩
  case controlCycle dt =>
    exact ⟨_, rfl, State.eventIf_slideSteps (fun s => .inl ⟨false, s.controlCycle_slide⟩) s dt⟩
  case noticeRepeatExpiry dt =>
    exact ⟨_, rfl, State.eventIf_slideSteps (fun s => .of_eq s.repeatNotice_brakes.slide _) s dt⟩
  case exitTimerExpiry dt =>
    exact ⟨_, rfl, State.eventIf_slideSteps (fun s => .of_eq s.exitCheck_brakes.slide _) s dt⟩
  case statusReplyArrival dt frame =>
    exact ⟨_, rfl, State.event_slideSteps (fun s => .of_eq (s.statusArrival_brakes frame).slide _) s dt⟩
  case receiveCompletion dt frame extra =>
    exact ⟨_, rfl, State.eventIf_slideSteps (fun s => .of_eq (s.receive_slide frame extra) _) s dt⟩
  case pressureConversionCompletion dt i r =>
    exact ⟨_, rfl, State.event_slideSteps (fun s => .of_eq (s.convert_slide i r) _) s dt⟩
  case handleInputEdge dt high => exact ⟨_, rfl, .of_eq rfl _⟩

/-- A command outside the reset sequence leaves the slide unit but for the slide-cut flag, or has a speed set arrive. -/
theorem exec_slideSteps {c : Instr} (hc : resetCommand c = false) {s t : State} (h : exec c s = .next t) :
    s.slide.Steps t.slide s.config := by
  cases hu : touchesUnits c with
  | false =>
    obtain ⟨dt, hs⟩ := exec_stores c s t hu h
    exact .of_eq hs.slide _
  | true =>
    obtain ⟨u, hu, hk⟩ := exec_units_slideSteps hu hc s
    cases h.symm.trans hu
    exact hk

/-- The reset sequence gives the unit its reset values, under a configuration in range. -/
theorem State.beginReset_slide (s : State) (straps : Straps) (left : List Byte) :
    (s.beginReset straps left).slide = resetSlide (s.beginReset straps left).config ∧
      (s.beginReset straps left).ConfigSound := by
  unfold State.beginReset
  dsimp only
  split <;> exact ⟨rfl, defaultConfig_inRange⟩

/-- What a command or a step can do to the configuration and the slide unit: the one stands and the other takes a
command's effect, or both have reset values. -/
def State.SlideSteps (s t : State) : Prop :=
  t.config = s.config ∧ s.slide.Steps t.slide s.config ∨ t.slide = resetSlide t.config ∧ t.ConfigSound

/-- The commands of the reset sequence, each of which may find its condition not met. -/
theorem exec_reset_slide {c : Instr} (hc : resetCommand c = true) (s : State) :
    ∃ t, exec c s = .next t ∧ State.SlideSteps s t := by
  cases c <;> first | (simp only [resetCommand, Bool.false_eq_true] at hc; done) | skip
  case reset dt straps left => exact ⟨_, rfl, .inr (s.beginReset_slide straps left)⟩
  case configImageReadCompletion dt ok =>
    refine ⟨_, rfl, ?_⟩
    split
    · exact .inr ⟨rfl, configFrom_inRange ok _⟩
    · exact .inl ⟨rfl, .of_eq rfl _⟩
  case restartResponseSent dt straps left =>
    refine ⟨_, rfl, ?_⟩
    split
    · exact .inr (State.beginReset_slide _ straps left)
    · exact .inl ⟨rfl, .of_eq rfl _⟩

theorem exec_slide {c : Instr} {s t : State} (h : exec c s = .next t) : State.SlideSteps s t := by
  cases hc : resetCommand c with
  | false =>
    obtain ⟨dt, hs⟩ := exec_steady c s t hc h
    exact .inl ⟨hs.config, exec_slideSteps hc h⟩
  | true =>
    obtain ⟨u, hu, hk⟩ := exec_reset_slide hc s
    cases h.symm.trans hu
    exact hk

theorem step_slide {s t : State} (h : step s = .next t) : State.SlideSteps s t := by
  unfold step at h
  split at h
  · cases h
    exact .inl ⟨rfl, .of_eq rfl _⟩
  · have hs := exec_slide h
    exact hs

/-! ### Laws 5 and 8 -/

/-- The ranges of R175 that the two laws rest on. -/
theorem configInRange_slide {c : Configuration} (h : configInRange c = true) :
    c.amin ≤ 1000 ∧ c.tVent % 20 = 0 ∧ 0 < c.tVent := by
  simp only [configInRange, within, Bool.and_eq_true, decide_eq_true_eq, beq_iff_eq] at h
  omega

theorem Slide.AdhesionSound.steps {u v : Slide} {c : Configuration} (h : u.AdhesionSound c) (hs : u.Steps v c) :
    v.AdhesionSound c := by
  rcases hs with ⟨cut, rfl⟩ | ⟨mode, sp, peers, now, rfl⟩
  · exact h
  · exact h.arrive mode sp peers now

/-- At reset the factor is 1000 ‰ and AL is Abase (R58). -/
theorem resetSlide_adhesionSound {c : Configuration} (h : configInRange c = true) :
    (resetSlide c).AdhesionSound c :=
  ⟨(configInRange_slide h).1, le_rfl, (Nat.mul_div_cancel c.abase (by decide : 0 < 1000)).symm⟩

/-- Law 8 on the unit. -/
def Slide.VentsSound (u : Slide) (c : Configuration) : Prop :=
  u.machines.one.VentSound c.tVent ∧ u.machines.two.VentSound c.tVent ∧ u.machines.three.VentSound c.tVent

theorem Slide.VentsSound.steps {u v : Slide} {c : Configuration} (hc : configInRange c = true) (h : u.VentsSound c)
    (hs : u.Steps v c) : v.VentsSound c := by
  rcases hs with ⟨cut, rfl⟩ | ⟨mode, sp, peers, now, rfl⟩
  · exact h
  · obtain ⟨-, hm, hp⟩ := configInRange_slide hc
    exact Slide.vents_arrive hm hp h mode sp peers now

/-- At reset every axle is in NORMAL, its valves off and its vent time 0 (R58). -/
theorem resetSlide_ventsSound (c : Configuration) : (resetSlide c).VentsSound c := by
  have h : resetMachine.VentSound c.tVent :=
    ⟨rfl, rfl, rfl, Nat.zero_le _, fun hs => absurd hs (by decide)⟩
  exact ⟨h, h, h⟩

/-- Settles O15: what a step does to the slide unit (`step_slide`) keeps law 5 (`Slide.AdhesionSound.steps`) and law 8
(`Slide.VentsSound.steps`), and both hold of the reset values. -/
theorem adhesionAndVentTimeStayInRange : Obligations.AdhesionAndVentTimeStayInRange := by
  refine ⟨fun s t hs h => ?_, fun s t hc hs h => ?_⟩
  · show t.slide.AdhesionSound t.config
    rcases step_slide h with ⟨ht, hu⟩ | ⟨hu, ht⟩
    · rw [ht]
      exact Slide.AdhesionSound.steps hs hu
    · rw [hu]
      exact resetSlide_adhesionSound ht
  · show t.ConfigSound ∧ t.slide.VentsSound t.config
    rcases step_slide h with ⟨ht, hu⟩ | ⟨hu, ht⟩
    · unfold State.ConfigSound at hc ⊢
      rw [ht]
      exact ⟨hc, Slide.VentsSound.steps hc hs hu⟩
    · rw [hu]
      exact ⟨ht, resetSlide_ventsSound _⟩

end Sys2Proof.Machine
end

section
/-! SUPPORT. A speed set arrival seen from the state it leaves, its stages 1 and 2: the reference speed (R36 to R39) and
standstill (R40). -/

namespace Sys2Proof.Machine

/-! ### What an arrival leaves -/

/-- The slide unit after stages 1 and 2 of an arrival. -/
def Slide.tracked (u : Slide) (sp : Tri AxleSpeed) (peers : List Nat) (now : Time) : Slide :=
  (u.stage1 sp peers now).stage2 now

/-- Stage 5 changes the adhesion factor and limit, the time of the last SLIDE entry and the slide-cut flag alone. -/
theorem Slide.stage5_frame (u : Slide) (c : Configuration) (es : List AxleChange) (now : Time) : u.stage5 c es now =
    { u with a := (u.stage5 c es now).a, al := (u.stage5 c es now).al, lastSlide := (u.stage5 c es now).lastSlide
             slideCut := (u.stage5 c es now).slideCut } := by
  unfold Slide.stage5
  split <;> rfl

/-- Stage 6 changes the adhesion factor and limit alone. -/
theorem Slide.stage6_frame (u : Slide) (c : Configuration) (now : Time) :
    u.stage6 c now = { u with a := (u.stage6 c now).a, al := (u.stage6 c now).al } := by
  unfold Slide.stage6
  extract_lets calm a
  split <;> rfl

section
variable (u : Slide) (c : Configuration) (mode : Mode) (sp : Tri AxleSpeed) (peers : List Nat) (now : Time)

/-- The stages from the third on leave the reference speed and standstill. -/
theorem Slide.arrive_frame : u.arrive c mode sp peers now =
    { u.tracked sp peers now with
      machines := (u.arrive c mode sp peers now).machines
      a := (u.arrive c mode sp peers now).a
      al := (u.arrive c mode sp peers now).al
      lastSlide := (u.arrive c mode sp peers now).lastSlide
      slideCut := (u.arrive c mode sp peers now).slideCut
      slideFlag := (u.arrive c mode sp peers now).slideFlag } := by
  unfold Slide.arrive
  rw [Slide.stage6_frame, Slide.stage5_frame]
  rfl

theorem Slide.tracked_frame : u.tracked sp peers now =
    { u.stage1 sp peers now with
      lowStart := (u.tracked sp peers now).lowStart, standstill := (u.tracked sp peers now).standstill } :=
  Slide.stage2_frame _ _

theorem Slide.arrive_vref : (u.arrive c mode sp peers now).vref = (u.newVref sp peers now).1 := by
  rw [Slide.arrive_frame, Slide.tracked_frame]
  rfl

theorem Slide.arrive_speedAssisted :
    (u.arrive c mode sp peers now).speedAssisted = (u.newVref sp peers now).2 := by
  rw [Slide.arrive_frame, Slide.tracked_frame]
  rfl

theorem Slide.arrive_firstPending : (u.arrive c mode sp peers now).firstPending = false := by
  rw [Slide.arrive_frame, Slide.tracked_frame]
  rfl

theorem Slide.arrive_lowStart :
    (u.arrive c mode sp peers now).lowStart = (u.tracked sp peers now).lowStart := by
  rw [Slide.arrive_frame]

theorem Slide.arrive_standstill :
    (u.arrive c mode sp peers now).standstill = (u.tracked sp peers now).standstill := by
  rw [Slide.arrive_frame]

end

/-- The exit timer after a change of the standstill flag to a value (R30). -/
def Demand.timerAt (m : Demand) (standstill : Bool) (clock : Nat) : ExitTimer :=
  if standstill then (if m.mode = .emergency then .running (clock + exitTime) else m.exitTimer) else .stopped

theorem State.standstillChanged_demand (s : State) : s.standstillChanged.demand =
    { s.demand with exitTimer := s.demand.timerAt s.slide.standstill s.clock } := by
  unfold State.standstillChanged Demand.timerAt
  split
  · rename_i hst
    split
    · rw [State.restartExit_demand, restartedTimer, if_pos hst]
    · rfl
  · rfl

/-- A speed window's expiry changes the exit timer exactly when the standstill flag changes (R30, R40). -/
theorem State.windowExpires_demand (s : State) (faults : Tri Bool) : (s.windowExpires faults).demand =
    if (s.windowExpires faults).slide.standstill = s.slide.standstill then s.demand
    else { s.demand with exitTimer := s.demand.timerAt (s.windowExpires faults).slide.standstill s.clock } := by
  have h := State.speedArrival_spec { s with acq := s.acq.window faults s.handleLevel s.clock s.now s.stamp }
  unfold State.windowExpires
  dsimp only
  generalize State.speedArrival _ = t at h ⊢
  by_cases hst : t.slide.standstill = s.slide.standstill
  · rw [if_pos hst, if_pos hst]
    exact h.demand
  · have hsl : t.standstillChanged.slide = t.slide := by rw [State.standstillChanged_frame]
    rw [if_neg hst, hsl, if_neg hst, State.standstillChanged_demand, h.demand, h.clock]

/-- SPEED_WINDOW_EXPIRY at its time: the axles' lines, the slide unit after its stages, and the demand section. -/
structure State.SpeedSetArrived (s t : State) (dt : Nat) (faults : Tri Bool) : Prop where
  axles : t.acq.axles =
    (s.acq.window faults s.handleLevel (s.clock + dt) (s.advance dt).now (s.advance dt).stamp).axles
  slide : t.slide = s.slide.arrive s.config s.demand.mode t.acq.axles
    (eligibleVrefs s.peers.entries s.config.group) (s.advance dt).now
  demand : t.demand = if t.slide.standstill = s.slide.standstill then s.demand
    else { s.demand with exitTimer := s.demand.timerAt t.slide.standstill (s.clock + dt) }

theorem exec_speedWindowExpiry_arrived {s : State} {dt : Nat} (hr : s.runPhase = .running)
    (hd : s.acq.windowDue ≤ s.clock + dt) (f₁ f₂ f₃ : Bool) :
    ∃ t, exec (.speedWindowExpiry dt f₁ f₂ f₃) s = .next t ∧ s.SpeedSetArrived t dt ⟨f₁, f₂, f₃⟩ := by
  obtain ⟨u, timer, hw⟩ := State.windowExpires_spec (s.advance dt) ⟨f₁, f₂, f₃⟩
  have hc := State.recordChannels_delivers (s.advance dt) ((s.advance dt).windowExpires ⟨f₁, f₂, f₃⟩)
  have ha := congrArg Acquisition.axles (hc.acq.trans hw.acq)
  have hs := hc.slide.trans ((s.advance dt).windowExpires_slide ⟨f₁, f₂, f₃⟩)
  refine ⟨_, exec_speedWindowExpiry_running hr hd f₁ f₂ f₃, ha, ?_, ?_⟩
  · rw [ha]
    exact hs
  · rw [hc.demand, hc.slide]
    exact (s.advance dt).windowExpires_demand ⟨f₁, f₂, f₃⟩

/-! ### The reference speed (R36 to R39) -/

/-- With its limits in order a slewed speed lies between them. -/
theorem Slide.slew_bounds {u : Slide} (h : u.vref ≤ 65535) (v : Nat) :
    u.vref - u.ddec ≤ u.slew v ∧ u.slew v ≤ min 65535 (u.vref + u.dacc) := by
  unfold Slide.slew clamp
  omega

section
variable {u : Slide} {sp : Tri AxleSpeed} {now : Time} (peers : List Nat)

/-- The first set takes the largest candidate whole (R37). -/
theorem Slide.newVref_first (h : u.firstPending = true) :
    u.newVref sp peers now = (largest (u.candidates sp), (u.candidates sp).isEmpty) := if_pos h

/-- Without need of assistance Vref follows the largest candidate (R36). -/
theorem Slide.newVref_own (h : u.firstPending = false) (ha : u.needsAssistance sp now = false) :
    u.newVref sp peers now = (u.slew (largest (u.candidates sp)), false) := by
  unfold Slide.newVref
  rw [if_neg (by simp [h]), if_neg (by simp [ha])]

/-- With it Vref follows the peers' lower median, or falls by Ddec where there is none (R39). -/
theorem Slide.newVref_assisted (h : u.firstPending = false) (ha : u.needsAssistance sp now = true) :
    u.newVref sp peers now = (((lowerMedian peers).map u.slew).getD (u.vref - u.ddec), true) := by
  unfold Slide.newVref
  rw [if_neg (by simp [h]), if_pos ha]
  cases lowerMedian peers <;> rfl

/-- Outside the first set Vref moves within its limits, and SPEED_ASSISTED says whether it was assisted. -/
theorem Slide.newVref_limits (h : u.firstPending = false) (hv : u.vref ≤ 65535) :
    u.vref - u.ddec ≤ (u.newVref sp peers now).1 ∧ (u.newVref sp peers now).1 ≤ min 65535 (u.vref + u.dacc) ∧
      (u.newVref sp peers now).2 = u.needsAssistance sp now := by
  cases ha : u.needsAssistance sp now with
  | false =>
    rw [Slide.newVref_own peers h ha]
    obtain ⟨hlow, hhigh⟩ := u.slew_bounds hv (largest (u.candidates sp))
    exact ⟨hlow, hhigh, rfl⟩
  | true =>
    rw [Slide.newVref_assisted peers h ha]
    cases lowerMedian peers with
    | none => exact ⟨le_rfl, by dsimp only [Option.map, Option.getD]; omega, rfl⟩
    | some m =>
      obtain ⟨hlow, hhigh⟩ := u.slew_bounds hv m
      exact ⟨hlow, hhigh, rfl⟩

end

/-- Settles O10: stage 1 case by case (`Slide.newVref_first`, `Slide.newVref_own`, `Slide.newVref_assisted`) with its
limits (`Slide.newVref_limits`), which the later stages leave (`Slide.arrive_frame`). -/
theorem speedSetUpdatesReferenceSpeed : Obligations.SpeedSetUpdatesReferenceSpeed := by
  intro dt f₁ f₂ f₃ s hr hd hv u low high peers
  obtain ⟨t, ht, h⟩ := exec_speedWindowExpiry_arrived hr hd f₁ f₂ f₃
  refine ⟨t, ht, ?_⟩
  rw [h.slide, Slide.arrive_vref, Slide.arrive_speedAssisted, Slide.arrive_firstPending]
  refine ⟨rfl, fun hf => ?_, fun hf => Slide.newVref_limits _ hf hv, fun hf ha => ?_, fun m hf ha hm => ?_,
    fun hf ha hn => ?_⟩
  · rw [Slide.newVref_first _ hf]
    exact ⟨rfl, rfl⟩
  · rw [Slide.newVref_own _ hf ha]
    rfl
  · rw [Slide.newVref_assisted _ hf ha, hm]
    rfl
  · have hnone : lowerMedian (eligibleVrefs s.peers.entries s.config.group) = none := congrArg lowerMedian hn
    rw [Slide.newVref_assisted _ hf ha, hnone]
    rfl

/-! ### Standstill (R40) -/

section
variable {u : Slide} {now : Time}

theorem Slide.stage2_fast (h : 100 < u.vref) : u.stage2 now = { u with lowStart := none, standstill := false } :=
  if_pos h

theorem Slide.stage2_starts (h : u.vref ≤ 100) (hl : u.lowStart = none) :
    u.stage2 now = { u with lowStart := some now } := by
  unfold Slide.stage2
  rw [if_neg (not_lt.mpr h), hl]

theorem Slide.stage2_runs {r : Time} (h : u.vref ≤ 100) (hl : u.lowStart = some r) :
    u.stage2 now = if since now r < 3000 then u else { u with standstill := true } := by
  unfold Slide.stage2
  rw [if_neg (not_lt.mpr h), hl]

end

/-- What stage 2 of an arrival works on: the new Vref beside the low-speed run and the flag as they stood. -/
theorem State.SpeedSetArrived.tracked {s t : State} {dt : Nat} {faults : Tri Bool}
    (h : s.SpeedSetArrived t dt faults) : ∃ w : Slide, w.vref = t.slide.vref ∧ w.lowStart = s.slide.lowStart ∧
      w.standstill = s.slide.standstill ∧ t.slide.lowStart = (w.stage2 (s.advance dt).now).lowStart ∧
      t.slide.standstill = (w.stage2 (s.advance dt).now).standstill := by
  refine ⟨s.slide.stage1 t.acq.axles (eligibleVrefs s.peers.entries s.config.group) (s.advance dt).now, ?_, rfl, rfl,
    ?_, ?_⟩
  · rw [h.slide, Slide.arrive_vref]
    rfl
  · rw [h.slide, Slide.arrive_lowStart]
    rfl
  · rw [h.slide, Slide.arrive_standstill]
    rfl

/-- Settles O11: the low-speed run and the flag by stage 2 (`Slide.stage2_fast`, `Slide.stage2_starts`,
`Slide.stage2_runs`), and the exit timer where the flag changes (`Demand.timerAt`). -/
theorem speedSetUpdatesStandstill : Obligations.SpeedSetUpdatesStandstill := by
  intro dt f₁ f₂ f₃ s hr hd now
  obtain ⟨t, ht, h⟩ := exec_speedWindowExpiry_arrived hr hd f₁ f₂ f₃
  obtain ⟨w, hwv, hwl, hws, hl, hs⟩ := h.tracked
  refine ⟨t, ht, ?_⟩
  rw [← hwl, ← hws, ← hwv, hl, hs]
  refine ⟨fun hv => ?_, fun hv hn => ?_, fun r hv hn ht => ?_, fun r hv hn ht => ?_, fun he => ?_, fun ho he => ?_,
    fun ho he => ?_⟩
  · rw [Slide.stage2_fast hv]
    exact ⟨rfl, rfl⟩
  · rw [Slide.stage2_starts hv hn]
    exact ⟨rfl, rfl⟩
  · rw [Slide.stage2_runs hv hn, if_pos ht]
    exact ⟨hn, rfl⟩
  · rw [Slide.stage2_runs hv hn, if_neg (not_lt.mpr ht)]
    exact ⟨hn, rfl⟩
  · exact h.demand.trans (if_pos (hs.trans (he.trans hws)))
  all_goals
    rw [← hs] at he
    rw [hws] at ho
    rw [h.demand, if_neg (by rw [he, ho]; decide), he]
    rfl

end Sys2Proof.Machine
end

section
/-! SUPPORT. Stages 3 and 4 of a speed set arrival: one axle machine's step, rule by rule (R41 to R48). -/

namespace Sys2Proof.Machine

/-! ### The step of one machine -/

/-- The machine that a rule is applied to: the window just closed is added to the vent time, and q is noted (R41,
R47). -/
def AxleMachine.begun (m : AxleMachine) (q : Nat) : AxleMachine :=
  { m with vent := m.vent + (if m.state = .slide then 20 else 0), lastQ := q }

/-- The valves of a machine take the values of its state (R42). -/
def AxleMachine.valved (m : AxleMachine) : AxleMachine :=
  { m with holdValve := m.state.holdValve, ventValve := m.state.ventValve }

theorem AxleMachine.step_eq (m : AxleMachine) (c : Configuration) (i : AxleStep) :
    m.step c i = ((m.begun i.q).stateStep c i).valved := by
  have h : { m.vented with lastQ := i.q } = m.begun i.q := by
    unfold AxleMachine.vented AxleMachine.begun
    split <;> rfl
  rw [← h]
  rfl

section
variable {m : AxleMachine} {c : Configuration} {i : AxleStep}

/-! ### Which rule applies -/

theorem AxleMachine.stateStep_fault (h : m.state = .fault) : m.stateStep c i = m.faultStep i := by
  unfold AxleMachine.stateStep
  rw [h]

/-- Without a valid speed every other state enters FAULT (R43). -/
theorem AxleMachine.stateStep_invalid (h : m.state ≠ .fault) (hv : i.valid = false) :
    m.stateStep c i = m.faulted := by
  unfold AxleMachine.stateStep
  cases hs : m.state <;> simp_all

/-- With protection inactive SUSPECT, SLIDE and RECOVER end (R44). -/
theorem AxleMachine.stateStep_inactive (h : m.state = .suspect ∨ m.state = .slide ∨ m.state = .recover)
    (hv : i.valid = true) (ha : i.active = false) : m.stateStep c i = m.normal := by
  unfold AxleMachine.stateStep
  rcases h with h | h | h <;> simp [h, hv, ha]

/-- TIMEOUT ends in RELEASED or at standstill (R44). -/
theorem AxleMachine.stateStep_timeout (h : m.state = .timeout) (hv : i.valid = true) :
    m.stateStep c i = if i.active = false ∧ (i.released = true ∨ i.standstill = true) then m.normal else m := by
  unfold AxleMachine.stateStep
  simp [h, hv]

theorem AxleMachine.stateStep_normal (h : m.state = .normal) (hv : i.valid = true) :
    m.stateStep c i = if i.active then m.normalStep c i else m := by
  unfold AxleMachine.stateStep
  simp [h, hv]

theorem AxleMachine.stateStep_suspect (h : m.state = .suspect) (hv : i.valid = true) (ha : i.active = true) :
    m.stateStep c i = m.suspectStep c i := by
  unfold AxleMachine.stateStep
  simp [h, hv, ha]

theorem AxleMachine.stateStep_slide (h : m.state = .slide) (hv : i.valid = true) (ha : i.active = true) :
    m.stateStep c i = m.slideStep c i := by
  unfold AxleMachine.stateStep
  simp [h, hv, ha]

theorem AxleMachine.stateStep_recover (h : m.state = .recover) (hv : i.valid = true) (ha : i.active = true) :
    m.stateStep c i = m.recoverStep c i := by
  unfold AxleMachine.stateStep
  simp [h, hv, ha]

/-! ### FAULT (R43) -/

theorem AxleMachine.faultStep_invalid (hv : i.valid = false) : m.faultStep i = { m with faultReturn := none } := by
  simp [AxleMachine.faultStep, hv]

theorem AxleMachine.faultStep_starts (hv : i.valid = true) (hr : m.faultReturn = none) :
    m.faultStep i = { m with faultReturn := some i.now } := by
  simp [AxleMachine.faultStep, hv, hr]

theorem AxleMachine.faultStep_runs {r : Time} (hv : i.valid = true) (hr : m.faultReturn = some r) :
    m.faultStep i = if 1000 ≤ since i.now r then m.normal else m := by
  simp [AxleMachine.faultStep, hv, hr]

/-! ### NORMAL and SUSPECT with protection active (R45, R46) -/

theorem AxleMachine.normalStep_enters (h : c.q1 ≤ i.q ∨ (c.dv1 : Int) ≤ i.dv) :
    m.normalStep c i = { m with state := .suspect, high := 0, calm := 0, untrusted := some i.now } := if_pos h

theorem AxleMachine.normalStep_stays (h : i.q < c.q1) (hd : i.dv < (c.dv1 : Int)) : m.normalStep c i = m :=
  if_neg (not_or.mpr ⟨not_le.mpr h, not_le.mpr hd⟩)

theorem AxleMachine.suspectStep_high (h : c.q2 ≤ i.q) : m.suspectStep c i = m.beginSlide := if_pos h

theorem AxleMachine.suspectStep_middle (h₁ : c.q1 ≤ i.q) (h₂ : i.q < c.q2) : m.suspectStep c i =
    if 5 ≤ m.high + 1 then { m with high := m.high + 1, calm := 0 }.beginSlide
    else { m with high := m.high + 1, calm := 0 } :=
  (if_neg (not_le.mpr h₂)).trans (if_pos h₁)

theorem AxleMachine.suspectStep_braking (h₁ : i.q < c.q1) (h₂ : i.q < c.q2) (hd : (c.dv1 : Int) ≤ i.dv) :
    m.suspectStep c i = { m with high := 0, calm := 0 } :=
  (if_neg (not_le.mpr h₂)).trans ((if_neg (not_le.mpr h₁)).trans (if_pos hd))

theorem AxleMachine.suspectStep_calm (h₁ : i.q < c.q1) (h₂ : i.q < c.q2) (hd : i.dv < (c.dv1 : Int)) :
    m.suspectStep c i = if 2 ≤ m.calm + 1 then { m with high := 0, calm := m.calm + 1 }.normal
      else { m with high := 0, calm := m.calm + 1 } :=
  (if_neg (not_le.mpr h₂)).trans ((if_neg (not_le.mpr h₁)).trans (if_neg (not_le.mpr hd)))

/-! ### SLIDE and RECOVER with protection active (R47, R48) -/

theorem AxleMachine.slideStep_expired (h : c.tVent ≤ m.vent) :
    m.slideStep c i = { m with state := .timeout, untrusted := none } := if_pos h

theorem AxleMachine.slideStep_venting (h : m.vent < c.tVent) :
    m.slideStep c i = if i.q < c.q1 then { m with state := .recover, recover := 0 } else m :=
  if_neg (not_le.mpr h)

theorem AxleMachine.recoverStep_high (h : c.q2 ≤ i.q) : m.recoverStep c i = { m with state := .slide } := if_pos h

theorem AxleMachine.recoverStep_middle (h₁ : c.q1 ≤ i.q) (h₂ : i.q < c.q2) :
    m.recoverStep c i = { m with recover := 0 } := (if_neg (not_le.mpr h₂)).trans (if_pos h₁)

theorem AxleMachine.recoverStep_low (h₁ : i.q < c.q1) (h₂ : i.q < c.q2) : m.recoverStep c i =
    if c.tRec ≤ (m.recover + 1) * 20 then { m with recover := m.recover + 1 }.normal
    else { m with recover := m.recover + 1 } :=
  (if_neg (not_le.mpr h₂)).trans (if_neg (not_le.mpr h₁))

end

/-! ### What a rule leaves -/

/-- A rule leaves q, and the vent time but for a new episode. -/
def AxleMachine.KeepsVent (m n : AxleMachine) : Prop :=
  n.lastQ = m.lastQ ∧ (n.state ≠ .slide ∨ m.state ≠ .suspect → n.vent = m.vent)

theorem AxleMachine.KeepsVent.of_eq {m n : AxleMachine} (hq : n.lastQ = m.lastQ) (hv : n.vent = m.vent) :
    m.KeepsVent n := ⟨hq, fun _ => hv⟩

theorem AxleMachine.faultStep_keepsVent (m : AxleMachine) (i : AxleStep) : m.KeepsVent (m.faultStep i) := by
  unfold AxleMachine.faultStep
  split
  · split
    · exact .of_eq rfl rfl
    · split <;> exact .of_eq rfl rfl
  · exact .of_eq rfl rfl

theorem AxleMachine.normalStep_keepsVent (m : AxleMachine) (c : Configuration) (i : AxleStep) :
    m.KeepsVent (m.normalStep c i) := by
  unfold AxleMachine.normalStep
  split <;> exact .of_eq rfl rfl

/-- Only in SUSPECT a new episode begins (R50). -/
theorem AxleMachine.suspectStep_keepsVent {m : AxleMachine} (h : m.state = .suspect) (c : Configuration)
    (i : AxleStep) : m.KeepsVent (m.suspectStep c i) := by
  have hnew : ∀ high calm, m.KeepsVent ({ m with high := high, calm := calm } : AxleMachine).beginSlide :=
    fun _ _ => ⟨rfl, fun hn => hn.elim (fun hs => absurd rfl hs) fun hs => absurd h hs⟩
  unfold AxleMachine.suspectStep
  dsimp only
  split
  · exact hnew m.high m.calm
  · split
    · split
      · exact hnew _ _
      · exact .of_eq rfl rfl
    · split
      · exact .of_eq rfl rfl
      · split <;> exact .of_eq rfl rfl

theorem AxleMachine.slideStep_keepsVent (m : AxleMachine) (c : Configuration) (i : AxleStep) :
    m.KeepsVent (m.slideStep c i) := by
  unfold AxleMachine.slideStep
  split
  · exact .of_eq rfl rfl
  · split <;> exact .of_eq rfl rfl

theorem AxleMachine.recoverStep_keepsVent (m : AxleMachine) (c : Configuration) (i : AxleStep) :
    m.KeepsVent (m.recoverStep c i) := by
  unfold AxleMachine.recoverStep
  dsimp only
  split
  · exact .of_eq rfl rfl
  · split
    · exact .of_eq rfl rfl
    · split <;> exact .of_eq rfl rfl

theorem AxleMachine.stateStep_keepsVent (m : AxleMachine) (c : Configuration) (i : AxleStep) :
    m.KeepsVent (m.stateStep c i) := by
  have hsame : m.KeepsVent m := .of_eq rfl rfl
  have hnormal : m.KeepsVent m.normal := .of_eq rfl rfl
  by_cases hf : m.state = .fault
  · rw [AxleMachine.stateStep_fault hf]
    exact m.faultStep_keepsVent i
  cases hv : i.valid with
  | false =>
    rw [AxleMachine.stateStep_invalid hf hv]
    exact .of_eq rfl rfl
  | true =>
    cases hs : m.state with
    | fault => exact absurd hs hf
    | normal =>
      rw [AxleMachine.stateStep_normal hs hv]
      split
      · exact m.normalStep_keepsVent c i
      · exact hsame
    | timeout =>
      rw [AxleMachine.stateStep_timeout hs hv]
      split
      · exact hnormal
      · exact hsame
    | suspect =>
      cases ha : i.active with
      | false => rw [AxleMachine.stateStep_inactive (.inl hs) hv ha]; exact hnormal
      | true => rw [AxleMachine.stateStep_suspect hs hv ha]; exact AxleMachine.suspectStep_keepsVent hs c i
    | slide =>
      cases ha : i.active with
      | false => rw [AxleMachine.stateStep_inactive (.inr (.inl hs)) hv ha]; exact hnormal
      | true => rw [AxleMachine.stateStep_slide hs hv ha]; exact m.slideStep_keepsVent c i
    | recover =>
      cases ha : i.active with
      | false => rw [AxleMachine.stateStep_inactive (.inr (.inr hs)) hv ha]; exact hnormal
      | true => rw [AxleMachine.stateStep_recover hs hv ha]; exact m.recoverStep_keepsVent c i

/-! ### The machine of an axle at an arrival -/

theorem Slide.arrive_machine (u : Slide) (c : Configuration) (mode : Mode) (sp : Tri AxleSpeed) (peers : List Nat)
    (now : Time) (i : AxleId) : (u.arrive c mode sp peers now).machines.get i =
      (u.machines.get i).step c ((u.tracked sp peers now).stepInput mode now (sp.get i)) := by
  rw [Slide.arrive_machines]
  cases i
  all_goals
    unfold Slide.measured Slide.stage4
    simp only [Slide.stage2_machines, Slide.stage1_machines]
    rfl

theorem Slide.active_iff (u : Slide) (mode : Mode) : u.active mode = true ↔ mode ≠ .released ∧ 800 ≤ u.vref := by
  simp [Slide.active]

theorem Slide.slip_eq (u : Slide) (mode : Mode) (a : AxleSpeed) : u.slip mode a =
    if (mode ≠ .released ∧ 800 ≤ u.vref) ∧ a.valid = true then (u.vref - a.v) * 1000 / u.vref else 0 := by
  unfold Slide.slip
  simp only [Bool.and_eq_true, Slide.active_iff]

/-- Protection is active at an arrival that leaves the state `t` (R41). -/
def State.Protects (s t : State) : Prop := s.demand.mode ≠ .released ∧ 800 ≤ t.slide.vref

/-- An axle's relative slip by the Vref and the speed that an arrival leaves (R41). -/
def State.slipOf (t : State) (i : AxleId) : Nat :=
  (t.slide.vref - (t.acq.axles.get i).v) * 1000 / t.slide.vref

/-- What the machine of an axle is stepped on, in the terms of the state `t` that an arrival leaves: the axle is
valid unless its monitor has found a fault (R13). -/
structure AxleStep.Reads (x : AxleStep) (s t : State) (dt : Nat) (fault : Bool) (i : AxleId) : Prop where
  machine : t.slide.machines.get i = (((s.slide.machines.get i).begun x.q).stateStep s.config x).valved
  valid : x.valid = !fault
  active : x.active = true ↔ s.Protects t
  released : x.released = true ↔ s.demand.mode = .released
  standstill : x.standstill = t.slide.standstill
  dv : x.dv = (t.acq.axles.get i).dv
  now : x.now = (s.advance dt).now
  slip : s.Protects t → fault = false → x.q = t.slipOf i
  noSlip : ¬(s.Protects t ∧ fault = false) → x.q = 0

theorem State.SpeedSetArrived.reads {s t : State} {dt : Nat} {faults : Tri Bool}
    (h : s.SpeedSetArrived t dt faults) (i : AxleId) : ∃ x : AxleStep, x.Reads s t dt (faults.get i) i := by
  have hvalid : (t.acq.axles.get i).valid = !faults.get i := by
    rw [h.axles, Acquisition.window_axle]
    rfl
  have hv : (s.slide.tracked t.acq.axles (eligibleVrefs s.peers.entries s.config.group) (s.advance dt).now).vref =
      t.slide.vref := by
    rw [h.slide, Slide.arrive_vref, Slide.tracked_frame]
    rfl
  have hs : (s.slide.tracked t.acq.axles (eligibleVrefs s.peers.entries s.config.group) (s.advance dt).now).standstill =
      t.slide.standstill := by
    rw [h.slide, Slide.arrive_standstill]
  have hm := congrArg (fun u : Slide => u.machines.get i) h.slide
  rw [Slide.arrive_machine, AxleMachine.step_eq] at hm
  generalize Slide.tracked _ _ _ _ = u at hv hs hm
  have hq := u.slip_eq s.demand.mode (t.acq.axles.get i)
  rw [hv, hvalid] at hq
  have hact := u.active_iff s.demand.mode
  rw [hv] at hact
  exact ⟨_, hm, hvalid, hact, beq_iff_eq, hs, rfl, rfl, fun ha hf => hq.trans (if_pos ⟨ha, by rw [hf]; rfl⟩),
    fun hn => hq.trans (if_neg fun hc => hn ⟨hc.1, (Bool.not_eq_true' _).mp hc.2⟩)⟩

section
variable {x : AxleStep} {s t : State} {dt : Nat} {fault : Bool} {i : AxleId} (h : x.Reads s t dt fault i)
include h

theorem AxleStep.Reads.lastQ : (t.slide.machines.get i).lastQ = x.q := by
  rw [h.machine]
  exact (AxleMachine.stateStep_keepsVent _ _ _).1

theorem AxleStep.Reads.vent
    (hn : (t.slide.machines.get i).state ≠ .slide ∨ (s.slide.machines.get i).state ≠ .suspect) :
    (t.slide.machines.get i).vent =
      (s.slide.machines.get i).vent + (if (s.slide.machines.get i).state = .slide then 20 else 0) := by
  rw [h.machine] at hn ⊢
  exact (AxleMachine.stateStep_keepsVent _ _ _).2 hn

end

/-! ### The tables -/

/-- Settles O12: the machine of the axle is stepped on what `AxleStep.Reads` says, by the rule that applies to its state
(`AxleMachine.stateStep_fault` to `AxleMachine.stateStep_recover`) and that rule's rows. -/
theorem axleMachinesStepByTables : Obligations.AxleMachinesStepByTables := by
  intro dt f₁ f₂ f₃ i s hr hd fault m c now
  obtain ⟨t, ht, ha⟩ := exec_speedWindowExpiry_arrived hr hd f₁ f₂ f₃
  obtain ⟨x, hx⟩ := ha.reads i
  refine ⟨t, ht, ?_⟩
  intro n active q dv
  have hn : n = ((m.begun x.q).stateStep c x).valved := hx.machine
  have hnow : x.now = now := hx.now
  have hlast : n.lastQ = if active ∧ fault = false then q else 0 := by
    refine hx.lastQ.trans ?_
    split
    · rename_i hc; exact hx.slip hc.1 hc.2
    · rename_i hc; exact hx.noSlip hc
  have hvent : n.state ≠ .slide ∨ m.state ≠ .suspect → n.vent = m.vent + (if m.state = .slide then 20 else 0) := hx.vent
  have hvalid : fault = false → x.valid = true := fun hf => hx.valid.trans (congrArg not hf)
  refine ⟨hlast, hvent, fun hf => ?_, fun hf hm => ?_, fun hf hact => ?_, fun hf hact => ?_, ?_, ?_⟩
  · -- a monitor fault (R43)
    have hv : x.valid = false := hx.valid.trans (congrArg not hf)
    by_cases hm : m.state = .fault
    · rw [hn, AxleMachine.stateStep_fault (m := m.begun x.q) hm, AxleMachine.faultStep_invalid hv]
      exact ⟨hm, rfl, fun hs => by simp [hm] at hs⟩
    · rw [hn, AxleMachine.stateStep_invalid (m := m.begun x.q) hm hv]
      exact ⟨rfl, rfl, fun _ => rfl⟩
  · -- FAULT with a valid speed (R43)
    have hv := hvalid hf
    rw [hn, AxleMachine.stateStep_fault (m := m.begun x.q) hm, ← hnow]
    refine ⟨fun hr => ?_, fun r hr hl => ?_, fun r hr hl => ?_⟩
    · rw [AxleMachine.faultStep_starts (m := m.begun x.q) hv hr]
      exact ⟨hm, rfl⟩
    · rw [AxleMachine.faultStep_runs (m := m.begun x.q) hv hr, if_neg (not_le.mpr hl)]
      exact ⟨hm, hr⟩
    · rw [AxleMachine.faultStep_runs (m := m.begun x.q) hv hr, if_pos hl]
      rfl
  · -- protection inactive (R44)
    have hv := hvalid hf
    have hac : x.active = false := by
      rw [← Bool.not_eq_true, hx.active]
      exact hact
    refine ⟨fun hm => ?_, fun hm he => ?_, fun hm h₁ h₂ => ?_, fun hm => ?_⟩
    · rw [hn, AxleMachine.stateStep_inactive (m := m.begun x.q) hm hv hac]
      exact ⟨rfl, rfl⟩
    · rw [hn, AxleMachine.stateStep_timeout (m := m.begun x.q) hm hv,
        if_pos ⟨hac, he.imp hx.released.mpr hx.standstill.trans⟩]
      exact ⟨rfl, rfl⟩
    · have he : ¬(x.active = false ∧ (x.released = true ∨ x.standstill = true)) := by
        rintro ⟨-, hrel | hst⟩
        · exact h₁ (hx.released.mp hrel)
        · exact absurd (hst.symm.trans (hx.standstill.trans h₂)) (by decide)
      rw [hn, AxleMachine.stateStep_timeout (m := m.begun x.q) hm hv, if_neg he]
      exact hm
    · rw [hn, AxleMachine.stateStep_normal (m := m.begun x.q) hm hv, hac]
      exact hm
  · -- protection active (R45 to R48)
    have hv := hvalid hf
    have hac : x.active = true := hx.active.mpr hact
    have hq : x.q = q := hx.slip hact hf
    have hdv : x.dv = dv := hx.dv
    clear_value n q dv now
    subst hq hdv hnow hn
    have hnorm := fun hm : m.state = .normal => AxleMachine.stateStep_normal (m := m.begun x.q) (c := c) hm hv
    have hsus := fun hm : m.state = .suspect => AxleMachine.stateStep_suspect (m := m.begun x.q) (c := c) hm hv hac
    have hsl := fun hm : m.state = .slide => AxleMachine.stateStep_slide (m := m.begun x.q) (c := c) hm hv hac
    have hrec := fun hm : m.state = .recover => AxleMachine.stateStep_recover (m := m.begun x.q) (c := c) hm hv hac
    have hvent : m.state = .slide → (m.begun x.q).vent = m.vent + 20 := fun hm => congrArg (m.vent + ·) (if_pos hm)
    refine ⟨fun hm h => ?_, fun hm h h' => ?_, fun hm h => ?_, fun hm h h' => ?_, fun hm h h' hk => ?_,
      fun hm h h' hk => ?_, fun hm h h' hb => ?_, fun hm h h' hb => ?_, fun hm h h' hb hk => ?_,
      fun hm h h' hb hk => ?_,
      fun hm h => ?_, fun hm h h' => ?_, fun hm h h' => ?_, fun hm => ?_, fun hm h => ?_, fun hm h h' => ?_,
      fun hm h h' => ?_, fun hm h h' hk => ?_, fun hm h h' hk => ?_⟩
    · rw [hnorm hm, if_pos hac, AxleMachine.normalStep_enters h]
      exact ⟨rfl, rfl, rfl, rfl⟩
    · rw [hnorm hm, if_pos hac, AxleMachine.normalStep_stays h h']
      exact hm
    · rw [hsus hm, AxleMachine.suspectStep_high h]
      exact ⟨rfl, rfl, rfl⟩
    · rw [hsus hm, AxleMachine.suspectStep_middle h h']
      split <;> exact ⟨rfl, rfl⟩
    · rw [hsus hm, AxleMachine.suspectStep_middle h h', if_pos (show 5 ≤ (m.begun x.q).high + 1 from hk)]
      exact ⟨rfl, rfl, rfl⟩
    · rw [hsus hm, AxleMachine.suspectStep_middle h h', if_neg (show ¬5 ≤ (m.begun x.q).high + 1 from not_le.mpr hk)]
      exact hm
    · rw [hsus hm, AxleMachine.suspectStep_braking h h' hb]
      exact ⟨hm, rfl, rfl⟩
    · rw [hsus hm, AxleMachine.suspectStep_calm h h' hb]
      split <;> exact ⟨rfl, rfl⟩
    · rw [hsus hm, AxleMachine.suspectStep_calm h h' hb,
        if_neg (show ¬2 ≤ (m.begun x.q).calm + 1 from not_le.mpr hk)]
      exact hm
    · rw [hsus hm, AxleMachine.suspectStep_calm h h' hb, if_pos (show 2 ≤ (m.begun x.q).calm + 1 from hk)]
      rfl
    · rw [← hvent hm] at h
      rw [hsl hm, AxleMachine.slideStep_expired h]
      rfl
    · rw [← hvent hm] at h
      rw [hsl hm, AxleMachine.slideStep_venting h, if_pos h']
      exact ⟨rfl, rfl⟩
    · rw [← hvent hm] at h
      rw [hsl hm, AxleMachine.slideStep_venting h, if_neg (not_lt.mpr h')]
      exact hm
    · rw [AxleMachine.stateStep_timeout (m := m.begun x.q) hm hv, if_neg (by simp [hac])]
      exact hm
    · rw [hrec hm, AxleMachine.recoverStep_high h]
      exact ⟨rfl, rfl⟩
    · rw [hrec hm, AxleMachine.recoverStep_middle h h']
      exact ⟨hm, rfl⟩
    · rw [hrec hm, AxleMachine.recoverStep_low h h']
      split <;> rfl
    · rw [hrec hm, AxleMachine.recoverStep_low h h',
        if_neg (show ¬c.tRec ≤ ((m.begun x.q).recover + 1) * 20 from not_le.mpr hk)]
      exact hm
    · rw [hrec hm, AxleMachine.recoverStep_low h h', if_pos (show c.tRec ≤ ((m.begun x.q).recover + 1) * 20 from hk)]
      exact ⟨rfl, rfl⟩
  · rw [hn]
    exact (Bool.or_assoc _ _ _).symm
  · rw [hn]; rfl

end Sys2Proof.Machine
end

section
/-! SUPPORT. Stages 5 and 6 of a speed set arrival: the adhesion factor falls with the SLIDE entries and recovers in
quiet (R52, R53, R56). -/

namespace Sys2Proof.Machine

/-! ### The stages -/

theorem reducedBy_eq_iterate (amin n a : Nat) : reducedBy amin n a = (fun a => max amin (a - a / 8))^[n] a := by
  induction n generalizing a with
  | zero => rfl
  | succ n ih => exact ih _

/-- AL after the factor has become `a` (R52, R56). -/
def Slide.limitAt (u : Slide) (c : Configuration) (a : Nat) : Nat :=
  if a = u.a then u.al else c.abase * a / 1000

theorem Slide.stage5_none (u : Slide) (c : Configuration) (now : Time) : u.stage5 c [] now = u := rfl

theorem Slide.stage5_entries (u : Slide) (c : Configuration) {es : List AxleChange} (h : es ≠ []) (now : Time) :
    u.stage5 c es now = { u with
      a := reducedBy c.amin es.length u.a, al := u.limitAt c (reducedBy c.amin es.length u.a)
      lastSlide := some now, slideCut := true } :=
  if_neg (by simpa using h)

/-- The condition of R56: no axle in SUSPECT, SLIDE or RECOVER, and no SLIDE entry less than 2000 ms back. -/
def Slide.Recovers (u : Slide) (now : Time) : Prop :=
  (∀ i, (u.machines.get i).state ≠ .suspect ∧ (u.machines.get i).state ≠ .slide ∧ (u.machines.get i).state ≠ .recover) ∧
    ∀ l, u.lastSlide = some l → 2000 ≤ since now l

theorem AxleState.doubtful_eq_false (a : AxleState) :
    a.doubtful = false ↔ a ≠ .suspect ∧ a ≠ .slide ∧ a ≠ .recover := by
  cases a <;> decide

theorem Slide.quiet_iff (u : Slide) : u.quiet = true ↔ ∀ i, (u.machines.get i).state.doubtful = false := by
  constructor
  · intro h i
    cases i <;> simp_all [Slide.quiet, Tri.toList, Tri.get]
  · intro h
    simpa [Slide.quiet, Tri.toList, Tri.get] using ⟨h .one, h .two, h .three⟩

/-- No SLIDE entry lies less than 2000 ms back (R56). -/
def Slide.calm (u : Slide) (now : Time) : Bool :=
  match u.lastSlide with
  | none => true
  | some l => decide (2000 ≤ since now l)

theorem Slide.calm_iff (u : Slide) (now : Time) :
    u.calm now = true ↔ ∀ l, u.lastSlide = some l → 2000 ≤ since now l := by
  unfold Slide.calm
  cases u.lastSlide <;> simp

theorem Slide.stage6_eq (u : Slide) (c : Configuration) (now : Time) : u.stage6 c now =
    if (u.quiet && u.calm now) = true then
      { u with a := min 1000 (u.a + c.recStep), al := u.limitAt c (min 1000 (u.a + c.recStep)) }
    else u := rfl

theorem Slide.recovers_iff (u : Slide) (now : Time) : (u.quiet && u.calm now) = true ↔ u.Recovers now := by
  simp only [Slide.Recovers, Bool.and_eq_true, Slide.quiet_iff, AxleState.doubtful_eq_false, Slide.calm_iff]

/-- Stage 6 raises the factor under the condition of R56. -/
theorem Slide.stage6_recovers {u : Slide} {now : Time} (h : u.Recovers now) (c : Configuration) : u.stage6 c now =
    { u with a := min 1000 (u.a + c.recStep), al := u.limitAt c (min 1000 (u.a + c.recStep)) } :=
  (u.stage6_eq c now).trans (if_pos ((u.recovers_iff now).mpr h))

/-- Otherwise it leaves the unit. -/
theorem Slide.stage6_stands {u : Slide} {now : Time} (h : ¬u.Recovers now) (c : Configuration) : u.stage6 c now = u :=
  (u.stage6_eq c now).trans (if_neg (mt (u.recovers_iff now).mp h))

/-! ### The SLIDE entries of an arrival -/

/-- An axle enters SLIDE at an arrival. -/
abbrev State.EntersSlide (s : State) (i : AxleId) : Prop :=
  (s.slide.machines.get i).state ≠ .slide ∧ (s.slideArrived.machines.get i).state = .slide

theorem State.axleChange_enters (s : State) (i : AxleId) :
    (s.axleChange i).enters .slide = true ↔ s.EntersSlide i := AxleChange.enters_iff _ _

theorem State.mem_slideChanges (s : State) (ch : AxleChange) : ch ∈ s.slideChanges ↔ ∃ i, s.axleChange i = ch := by
  rw [State.slideChanges_eq]
  constructor
  · intro h
    simp only [List.mem_cons, List.not_mem_nil, or_false] at h
    rcases h with rfl | rfl | rfl <;> exact ⟨_, rfl⟩
  · rintro ⟨i, rfl⟩
    cases i <;> simp

theorem State.slideEntries_ne_nil (s : State) : slideEntries s.slideChanges ≠ [] ↔ ∃ i, s.EntersSlide i := by
  unfold slideEntries
  rw [ne_eq, List.filter_eq_nil_iff]
  simp [State.mem_slideChanges, State.axleChange_enters]

/-- How many axles enter SLIDE. -/
theorem State.slideEntries_length (s : State) :
    (slideEntries s.slideChanges).length = (if s.EntersSlide .one then 1 else 0) +
      (if s.EntersSlide .two then 1 else 0) + (if s.EntersSlide .three then 1 else 0) := by
  unfold slideEntries
  rw [← List.countP_eq_length_filter, State.slideChanges_eq]
  simp only [List.countP_cons, List.countP_nil, State.axleChange_enters]
  omega

/-! ### The unit after an arrival -/

/-- Stages 1 to 4 leave the adhesion factor and limit, the time of the last SLIDE entry and the slide-cut flag. -/
theorem State.slideMeasured_keeps (s : State) : s.slideMeasured.a = s.slide.a ∧
    (∀ a, s.slideMeasured.limitAt s.config a = s.slide.limitAt s.config a) ∧
    s.slideMeasured.lastSlide = s.slide.lastSlide ∧ s.slideMeasured.slideCut = s.slide.slideCut := by
  unfold State.slideMeasured Slide.measured Slide.stage4
  rw [Slide.stage2_frame]
  exact ⟨rfl, fun _ => rfl, rfl, rfl⟩

/-- The stages after the fifth leave Vref and the machines. -/
theorem State.slideReduced_keeps (s : State) :
    s.slideReduced.vref = s.slideArrived.vref ∧ s.slideReduced.machines = s.slideArrived.machines := by
  rw [State.slideArrived_vref, State.slideArrived_machines]
  exact Slide.stage5_keeps _ _ _ _

/-- With SLIDE entries the factor is reduced once for each, the slide-cut flag and the time of the last entry are set,
and nothing recovers (R52, R53). -/
theorem State.slideArrived_entries {s : State} (h : ∃ i, s.EntersSlide i) :
    s.slideArrived.slideCut = true ∧ s.slideArrived.lastSlide = some s.now ∧
      s.slideArrived.a = reducedBy s.config.amin (slideEntries s.slideChanges).length s.slide.a ∧
      s.slideArrived.al = s.slide.limitAt s.config s.slideArrived.a := by
  obtain ⟨ha, hal, -, -⟩ := s.slideMeasured_keeps
  have hr : s.slideReduced = _ := s.slideMeasured.stage5_entries s.config (s.slideEntries_ne_nil.mpr h) s.now
  obtain ⟨i, -, hi⟩ := h
  obtain ⟨-, hm⟩ := s.slideReduced_keeps
  rw [← hm] at hi
  have hs : s.slideArrived = s.slideReduced.stage7 :=
    congrArg Slide.stage7 (Slide.stage6_sliding hi s.config s.now)
  rw [hs, hr, ha, hal]
  exact ⟨rfl, rfl, rfl, rfl⟩

/-- Without one the factor recovers by R56, and the flag and the time of the last entry stand. -/
theorem State.slideArrived_noEntry {s : State} (h : ¬∃ i, s.EntersSlide i) :
    s.slideArrived.slideCut = s.slide.slideCut ∧ s.slideArrived.lastSlide = s.slide.lastSlide ∧
      (s.slideMeasured.Recovers s.now → s.slideArrived.a = min 1000 (s.slide.a + s.config.recStep)) ∧
      (¬s.slideMeasured.Recovers s.now → s.slideArrived.a = s.slide.a) ∧
      s.slideArrived.al = s.slide.limitAt s.config s.slideArrived.a := by
  obtain ⟨ha, hal, hlast, hcut⟩ := s.slideMeasured_keeps
  have hr : s.slideReduced = s.slideMeasured := by
    unfold State.slideReduced
    rw [not_not.mp (mt s.slideEntries_ne_nil.mp h), Slide.stage5_none]
  have hs : s.slideArrived = (s.slideMeasured.stage6 s.config s.now).stage7 := by
    rw [← hr]
    rfl
  by_cases hrec : s.slideMeasured.Recovers s.now
  · rw [hs, Slide.stage6_recovers hrec, ha, hal]
    exact ⟨hcut, hlast, fun _ => rfl, fun hn => absurd hrec hn, rfl⟩
  · have hstay : s.slide.limitAt s.config s.slide.a = s.slide.al := if_pos rfl
    rw [hs, Slide.stage6_stands hrec]
    refine ⟨hcut, hlast, fun hy => absurd hy hrec, fun _ => ha, ?_⟩
    show s.slideMeasured.al = s.slide.limitAt s.config s.slideMeasured.a
    rw [← hal]
    exact (if_pos rfl).symm

/-- Settles O13: the SLIDE entries counted (`State.slideEntries_length`), and the unit after an arrival with one
(`State.slideArrived_entries`) and without (`State.slideArrived_noEntry`). -/
theorem slideEntryReducesAdhesion : Obligations.SlideEntryReducesAdhesion := by
  intro dt f₁ f₂ f₃ s hr hd
  obtain ⟨x, t, hx, ht, -, hsl, hold⟩ := exec_speedWindowExpiry_arrival hr hd f₁ f₂ f₃
  refine ⟨t, ht, ?_⟩
  intro now enters n quiet recovers
  have hnow : x.now = now := congrArg reading hx.clock
  have hconf : x.config = s.config := hx.config
  have hn : n = (slideEntries x.slideChanges).length := by
    rw [State.slideEntries_length]
    unfold State.EntersSlide
    rw [← hsl, hold]
  have hpos : 0 < n ↔ ∃ i, x.EntersSlide i := by
    rw [hn, List.length_pos_iff, State.slideEntries_ne_nil]
  have hrec : x.slideMeasured.Recovers x.now ↔ recovers := by
    obtain ⟨-, -, hlast, -⟩ := x.slideMeasured_keeps
    rw [Slide.Recovers, ← State.slideArrived_machines, ← hsl, hlast, hold, hnow]
  have hal : t.slide.al = x.slide.limitAt x.config t.slide.a := by
    rw [hsl]
    by_cases h : ∃ i, x.EntersSlide i
    · obtain ⟨-, -, -, hal⟩ := State.slideArrived_entries h
      exact hal
    · obtain ⟨-, -, -, -, hal⟩ := State.slideArrived_noEntry h
      exact hal
  refine ⟨fun h => ?_, fun h => ?_, ?_⟩
  · obtain ⟨hcut, hlast, ha, -⟩ := State.slideArrived_entries (hpos.mp h)
    rw [hsl, hcut, hlast, ha, ← hn, hnow, hconf, hold, reducedBy_eq_iterate]
    exact ⟨rfl, rfl, rfl⟩
  · obtain ⟨hcut, hlast, hup, hstay, -⟩ := State.slideArrived_noEntry (mt hpos.mpr (by omega))
    rw [hsl, hcut, hlast, ← hrec, ← hold, ← hconf]
    exact ⟨rfl, rfl, hup, hstay⟩
  · rw [hal, hconf, hold]
    rfl

end Sys2Proof.Machine
end

section
/-! SUPPORT. The slide notice at its two ends: handed over at a speed set arrival (R54, R75), and taken at the peer
table (R92, R93). -/

namespace Sys2Proof.Machine

/-! ### The messages of stages 4 and 5 at the line -/

/-- Messages that are event records or triggers leave the line while no trigger hands over a mark. -/
theorem State.deliverAll_records_unmarked {ms : List Message}
    (h : ∀ m ∈ ms, (∃ source detail, m = .event source detail) ∨ ∃ x, m = .trigger x) (s : State) :
    State.Unmarked s (s.deliverAll ms) := by
  induction ms generalizing s with
  | nil => exact (State.SameLine.refl s).unmarked id
  | cons m ms ih =>
    refine .trans ?_ (ih (fun z hz => h z (by simp [hz])) (s.deliver m))
    rcases h m (by simp) with ⟨source, detail, rfl⟩ | ⟨x, rfl⟩
    · exact (s.logEvent_quiet source detail).unmarked (State.logEvent_line _ _ _)
        (congrArg Counters.urgentDiscarded (State.logEvent_counters _ _ _))
    · exact s.raise_unmarked x

theorem stage4Messages_records (chs : List AxleChange) (vref : Nat) : ∀ m ∈ stage4Messages chs vref,
    (∃ source detail, m = .event source detail) ∨ ∃ x, m = .trigger x := by
  intro m hm
  rcases List.mem_append.mp hm with hm | hm
  · obtain ⟨ch, -, hc⟩ := List.mem_flatMap.mp hm
    refine .inr ?_
    unfold AxleChange.trigger at hc
    split at hc
    · exact ⟨_, List.mem_singleton.mp hc⟩
    · split at hc
      · exact ⟨_, List.mem_singleton.mp hc⟩
      · cases hc
  · obtain ⟨ch, -, hc⟩ := List.mem_flatMap.mp hm
    refine .inl ?_
    unfold AxleChange.record at hc
    split at hc
    · cases hc
    · exact ⟨_, _, List.mem_singleton.mp hc⟩

theorem State.afterStage4_unmarked (s : State) : State.Unmarked s s.afterStage4 := by
  have hx : State.Unmarked s { s with slide := s.slideMeasured } := State.SameLine.unmarked ⟨rfl, rfl, rfl⟩ id
  exact hx.trans (State.deliverAll_records_unmarked (stage4Messages_records _ _) _)

/-! ### The notice of stage 5 (R54) -/

/-- An axle enters SLIDE and no other one was in SLIDE or RECOVER before. -/
def State.HandsNotice (s : State) : Prop :=
  (∃ i, s.EntersSlide i) ∧ ∀ i, ¬s.EntersSlide i →
    (s.slide.machines.get i).state ≠ .slide ∧ (s.slide.machines.get i).state ≠ .recover

/-- The payload of the notice, with the values that the arrival leaves. -/
def State.noticePayload (s : State) : List Byte :=
  slideNoticeBytes s.slideArrived.al s.slideArrived.a (slidingAxles s.slideArrived) s.slideArrived.vref

theorem AxleState.sliding_eq_false (a : AxleState) : a.sliding = false ↔ a ≠ .slide ∧ a ≠ .recover := by
  cases a <;> decide

/-- The test that stage 5 makes of the other axles. -/
theorem State.othersQuiet_iff (s : State) :
    ((s.slideChanges.filter fun ch => !ch.enters .slide).all fun ch => !ch.old.state.sliding) = true ↔
      ∀ i, ¬s.EntersSlide i →
        (s.slide.machines.get i).state ≠ .slide ∧ (s.slide.machines.get i).state ≠ .recover := by
  simp only [List.all_eq_true, List.mem_filter, State.mem_slideChanges, Bool.not_eq_true', and_imp,
    forall_exists_index, forall_apply_eq_imp_iff, AxleState.sliding_eq_false, ← State.axleChange_enters,
    Bool.not_eq_true]
  exact Iff.rfl

/-- What stage 5 hands over: the notice where an axle enters SLIDE and no other one was sliding, then its triggers. -/
theorem stage5Messages_notice (u : Slide) (chs : List AxleChange) : stage5Messages u chs =
    (if slideEntries chs ≠ [] ∧
        ((chs.filter fun ch => !ch.enters .slide).all fun ch => !ch.old.state.sliding) = true then
      [Message.urgent .slideNotice (slideNoticeBytes u.al u.a (slidingAxles u) u.vref)]
    else []) ++ (slideTriggers u chs).map Message.trigger := by
  have ht : (slideEntries chs).map (fun ch => ch.slideEntry u) = (slideTriggers u chs).map Message.trigger := by
    rw [slideTriggers, List.map_map]
    rfl
  rw [← ht]
  unfold stage5Messages
  by_cases he : slideEntries chs = []
  · simp [he]
  · simp [he]

theorem State.handsNotice_iff (s : State) : s.HandsNotice ↔ slideEntries s.slideChanges ≠ [] ∧
    ((s.slideChanges.filter fun ch => !ch.enters .slide).all fun ch => !ch.old.state.sliding) = true := by
  rw [State.slideEntries_ne_nil, State.othersQuiet_iff]
  rfl

/-- Where the notice is handed over, the stages after the fifth leave its values. -/
theorem State.noticePayload_eq {s : State} (h : s.HandsNotice) : s.noticePayload =
    slideNoticeBytes s.slideReduced.al s.slideReduced.a (slidingAxles s.slideReduced) s.slideReduced.vref := by
  obtain ⟨⟨i, -, hi⟩, -⟩ := h
  obtain ⟨ha, hal⟩ := State.slideArrived_sliding hi
  obtain ⟨hv, hm⟩ := s.slideReduced_keeps
  unfold State.noticePayload slidingAxles
  rw [ha, hal, hv, hm]

/-! ### An arrival at the line (R54, R75) -/

/-- Stages 6 and 7, after the triggers of stage 5, leave the line. -/
theorem State.afterStage5_unmarked (s : State) : State.Unmarked s.afterStage5 s.speedArrival := by
  have hx : State.Unmarked s.afterStage5 { s.afterStage5 with slide := s.slideArrived } :=
    State.SameLine.unmarked ⟨rfl, rfl, rfl⟩ id
  rw [State.speedArrival_eq]
  exact hx.trans ((State.recordSpeeds_quiet _).unmarked rfl rfl)

theorem State.slideTriggers_unmarked (s x : State) :
    State.Unmarked x (x.deliverAll ((slideTriggers s.slideReduced s.slideChanges).map Message.trigger)) := by
  refine State.deliverAll_unmarked (fun m hm => ?_) x
  obtain ⟨z, -, rfl⟩ := List.mem_map.mp hm
  exact ⟨z, rfl⟩

/-- Without a notice an arrival leaves the line. -/
theorem State.speedArrival_unmarked {s : State} (h : ¬s.HandsNotice) : State.Unmarked s s.speedArrival := by
  have hx : State.Unmarked s.afterStage4 { s.afterStage4 with slide := s.slideReduced } :=
    State.SameLine.unmarked ⟨rfl, rfl, rfl⟩ id
  refine ((s.afterStage4_unmarked.trans hx).trans ?_).trans s.afterStage5_unmarked
  unfold State.afterStage5
  rw [stage5Messages_notice, if_neg (mt s.handsNotice_iff.mpr h)]
  exact s.slideTriggers_unmarked _

/-- With one, the notice is all that it does to the line, and outside ACTIVE the notice is discarded. -/
theorem State.speedArrival_hands {s : State} (h : s.HandsNotice) (hn : s.NoMarks) :
    s.speedArrival.NoMarks ∧ s.speedArrival.line = (s.handUrgent .slideNotice s.noticePayload).line ∧
      (s.line.state ≠ .active →
        s.speedArrival.counters.urgentDiscarded = countedOnce s.counters.urgentDiscarded) := by
  obtain ⟨h₄, -, hl₄, hd₄⟩ := s.afterStage4_unmarked hn
  let x : State := { s.afterStage4 with slide := s.slideReduced }
  have hxn : x.NoMarks := h₄
  have hxl : x.line = s.line := hl₄
  have hxd : x.counters.urgentDiscarded = s.counters.urgentDiscarded := hd₄
  have h₅ : State.Unmarked (x.handUrgent .slideNotice s.noticePayload) s.speedArrival := by
    refine .trans ?_ s.afterStage5_unmarked
    unfold State.afterStage5
    rw [stage5Messages_notice, if_pos (s.handsNotice_iff.mp h), ← State.noticePayload_eq h]
    exact s.slideTriggers_unmarked _
  obtain ⟨hm, -, hl, hd⟩ := h₅ (State.handUrgent_noMarks hxn _ _)
  refine ⟨hm, hl.trans (State.handUrgent_line_congr hxl _ _), fun ha => ?_⟩
  rw [hd, State.handUrgent_inactive (by rw [hxl]; exact ha), ← hxd]
  exact (State.bump_get _ .urgentDiscarded .urgentDiscarded).trans (if_pos rfl)

/-- In ACTIVE, with room in the queue, an urgent entry joins it as its newest (R75). -/
theorem State.handUrgent_joins {s : State} (ha : s.line.state = .active) (hl : s.line.queue.length < 4)
    (kind : FrameKind) (payload : List Byte) :
    (s.handUrgent kind payload).line.queue = s.line.queue ++ [newFrame kind payload] := by
  unfold State.handUrgent
  rw [if_neg (not_not.mpr ha), if_pos hl]

/-- What the expiry of a speed window does before and after the arrival leaves the line. -/
theorem State.windowExpires_unmarked (s : State) (faults : Tri Bool) :
    let x : State := { s with acq := s.acq.window faults s.handleLevel s.clock s.now s.stamp }
    State.Unmarked s x ∧ State.Unmarked x.speedArrival (s.windowExpires faults) := by
  intro x
  refine ⟨State.SameLine.unmarked ⟨rfl, rfl, rfl⟩ id, ?_⟩
  have hw : s.windowExpires faults =
      if x.speedArrival.slide.standstill = s.slide.standstill then x.speedArrival
      else x.speedArrival.standstillChanged := rfl
  rw [hw]
  split
  · exact (State.SameLine.refl _).unmarked id
  · rw [State.standstillChanged_frame]
    exact State.SameLine.unmarked ⟨rfl, rfl, rfl⟩ id

/-- SPEED_WINDOW_EXPIRY at its time, seen at the line from the state `x` in which the speed set arrives. -/
theorem exec_speedWindowExpiry_line {s : State} {dt : Nat} (hr : s.runPhase = .running)
    (hd : s.acq.windowDue ≤ s.clock + dt) (f₁ f₂ f₃ : Bool) : ∃ x t,
      exec (.speedWindowExpiry dt f₁ f₂ f₃) s = .next t ∧ t.slide = x.slideArrived ∧ x.slide = s.slide ∧
      State.Unmarked s x ∧ State.Unmarked x.speedArrival t := by
  have hs : State.Unmarked s (s.advance dt) := State.SameLine.unmarked ⟨rfl, rfl, rfl⟩ id
  obtain ⟨hx, hw⟩ := (s.advance dt).windowExpires_unmarked ⟨f₁, f₂, f₃⟩
  obtain ⟨-, hsl⟩ := (s.advance dt).windowExpires_quiet ⟨f₁, f₂, f₃⟩
  exact ⟨_, _, exec_speedWindowExpiry_running hr hd f₁ f₂ f₃,
    (State.recordChannels_delivers _ _).slide.trans hsl, rfl, hs.trans hx, hw.trans (State.recordChannels_unmarked _ _)⟩

/-- The line after a speed window's expiry, whose arrival in `x` does or does not hand over a notice. -/
theorem State.expiry_line {s x t : State} (hx : State.Unmarked s x) (ht : State.Unmarked x.speedArrival t)
    (hn : s.NoMarks) :
    (x.HandsNotice → t.line = (s.handUrgent .slideNotice x.noticePayload).line ∧
      (s.line.state ≠ .active → t.counters.urgentDiscarded = countedOnce s.counters.urgentDiscarded)) ∧
    (¬x.HandsNotice → t.line = s.line ∧ t.counters.urgentDiscarded = s.counters.urgentDiscarded) := by
  obtain ⟨hxn, -, hxl, hxd⟩ := hx hn
  refine ⟨fun h => ?_, fun h => ?_⟩
  · obtain ⟨hy, hyl, hyd⟩ := State.speedArrival_hands h hxn
    obtain ⟨-, -, htl, htd⟩ := ht hy
    refine ⟨htl.trans (hyl.trans (State.handUrgent_line_congr hxl _ _)), fun ha => ?_⟩
    rw [htd, hyd (by rw [hxl]; exact ha), hxd]
  · obtain ⟨-, -, htl, htd⟩ := ((State.speedArrival_unmarked h).trans ht) hxn
    exact ⟨htl.trans hxl, htd.trans hxd⟩

/-! ### A notice at the peer table (R85, R92, R93) -/

theorem seqCheck_duplicate (seq : BitVec 8) : seqCheck (some seq) seq = .duplicate := by
  unfold seqCheck
  simp

theorem seqCheck_stale {last seq : BitVec 8} (h : 128 ≤ (seq - last).toNat) : seqCheck (some last) seq = .stale := by
  unfold seqCheck
  dsimp only
  rw [if_neg (by omega), if_pos h]

theorem seqCheck_inOrder {last seq : BitVec 8} (hne : seq ≠ last) (h : (seq - last).toNat < 128) :
    seqCheck (some last) seq = .inOrder (seq - last).toNat := by
  have h₀ : (seq - last).toNat ≠ 0 := fun hz => hne (by bv_omega)
  unfold seqCheck
  dsimp only
  rw [if_neg h₀, if_neg (by omega)]

section
variable {e : PeerEntry} {now : Time} {seq : BitVec 8} {al : Nat}

/-- An entry in SILENT or ABSENT takes no notice. -/
theorem PeerEntry.hear_apart (h : e.state = .silent ∨ e.state = .absent) (slideAl : Option Nat) :
    e.hear now seq slideAl = (e, []) := by
  unfold PeerEntry.hear
  rcases h with h | h <;> rw [h]

variable (h : e.state = .joining ∨ e.state = .live ∨ e.state = .unruly)
include h

theorem PeerEntry.hear_duplicate (hs : seqCheck e.lastSeq seq = .duplicate) (slideAl : Option Nat) :
    e.hear now seq slideAl = (e, [.count .duplicates]) := by
  unfold PeerEntry.hear
  rcases h with h | h | h <;> simp only [h, hs]

theorem PeerEntry.hear_stale (hs : seqCheck e.lastSeq seq = .stale) (slideAl : Option Nat) :
    e.hear now seq slideAl = (e, [.count .staleFrames]) := by
  unfold PeerEntry.hear
  rcases h with h | h | h <;> simp only [h, hs]

/-- A slide notice in order counts as hearing and lowers the last statement. -/
theorem PeerEntry.hear_slideNotice {diff : Nat} (hs : seqCheck e.lastSeq seq = .inOrder diff) :
    e.hear now seq (some al) =
      ({ e.ordered seq diff with heard := some now, last := e.last.map fun v => lowered v al }, []) := by
  unfold PeerEntry.hear
  rcases h with h | h | h <;> simp only [h, hs] <;> rfl

end

theorem hearArrival_none {es : List PeerEntry} {addr : Nat} (h : findPeer es addr = none) (now : Time)
    (seq : BitVec 8) (slideAl : Option Nat) : hearArrival now addr seq slideAl es = (es, []) := by
  unfold hearArrival
  rw [h]

theorem hearArrival_some {es : List PeerEntry} {addr : Nat} {e : PeerEntry} (h : findPeer es addr = some e)
    (now : Time) (seq : BitVec 8) (slideAl : Option Nat) : hearArrival now addr seq slideAl es =
      (setPeer es (e.hear now seq slideAl).1, (e.hear now seq slideAl).2) := by
  unfold hearArrival
  rw [h]

/-! ### The reception of a slide notice -/

/-- A notice has reached the peer table: the table is as `r` has it, `r`'s count is counted, and messages alone have
changed the rest. -/
structure State.TableTakes (s t : State) (r : List PeerEntry × List Message) : Prop where
  peers : t.peers = { s.peers with entries := r.1 }
  frame : t.SameButMessages { s with peers := { s.peers with entries := r.1 } }
  counted : ∀ i, r.2 = [.count i] → t.counters.get i = countedOnce (s.counters.get i)

/-- Another station's slide notice at the table, and copied to the mirror channels. -/
theorem State.takeFrame_slideNotice (s : State) {f : GoodFrame} (hk : f.kind = .slideNotice)
    (hf : f.source ≠ s.address) :
    s.TableTakes (s.takeFrame f) (hearArrival s.now f.source f.seq (some (be16At f.payload 0)) s.peers.entries) := by
  have ht : s.takeFrame f = (s.peerHear f (some (be16At f.payload 0))).mirror f.source false f.body f.check := by
    unfold State.takeFrame State.dispatch
    rw [if_neg hf, hk]
  have hd := (s.withPeers_delivers
    (hearArrival s.now f.source f.seq (some (be16At f.payload 0)) s.peers.entries)).trans
    (State.mirror_delivers _ f.source false f.body f.check)
  rw [ht]
  refine ⟨hd.peers, hd.sameButMessages, fun i hi => ?_⟩
  rw [State.mirror_counters, State.peerHear, State.withPeers, hi]
  exact (State.bump_get _ i i).trans (if_pos rfl)

/-- The channel-state records that close the event leave table and counters. -/
theorem State.TableTakes.recorded {s t : State} {r : List PeerEntry × List Message} (h : s.TableTakes t r)
    (before : State) : s.TableTakes (before.recordChannels t) r := by
  obtain ⟨rec, hrec, -⟩ := before.recordChannels_frame t
  rw [hrec]
  exact ⟨h.peers, h.frame, h.counted⟩

/-- RECEIVE_COMPLETION of another station's slide notice in the running part. -/
theorem exec_receiveCompletion_slideNotice {s : State} {frame : List Byte} {f : GoodFrame} (hr : s.runPhase = .running)
    (htx : s.line.tx = .idle) (hl : s.line.state ≠ .off) (hc : classify frame 0 = .good f) (hk : f.kind = .slideNotice)
    (hf : f.source ≠ s.address) (dt : Nat) : ∃ t, exec (.receiveCompletion dt frame 0) s = .next t ∧
      (s.advance dt).TableTakes t
        (hearArrival (s.advance dt).now f.source f.seq (some (be16At f.payload 0)) s.peers.entries) := by
  obtain ⟨hp, hs, hn⟩ := ((s.advance dt).afterReception.takeFrame_slideNotice hk hf).recorded (s.advance dt)
  exact ⟨_, exec_receiveCompletion_good hr htx hl hc dt, hp, hs.trans rfl, hn⟩

/-- Settles O14: at the sender the line after the arrival (`State.expiry_line`, `State.handUrgent_joins`), at the receiver
the peer table (`exec_receiveCompletion_slideNotice`) by the entry's state and the order of the sequence numbers. -/
theorem slideNoticeIsSentAndTaken : Obligations.SlideNoticeIsSentAndTaken := by
  refine ⟨fun dt f₁ f₂ f₃ s hr hd => ?_, fun dt frame f s hr htx hl hc hk hf => ?_⟩
  · obtain ⟨x, t, ht, hsl, hold, hx, hw⟩ := exec_speedWindowExpiry_line hr hd f₁ f₂ f₃
    refine ⟨t, ht, ?_⟩
    intro enters hands bit notice
    have hh : hands ↔ x.HandsNotice := by
      unfold State.HandsNotice State.EntersSlide
      rw [← hsl, hold]
    have hnew : newFrame .slideNotice x.noticePayload = notice := by
      unfold State.noticePayload
      rw [← hsl]
      rfl
    refine ⟨fun ha hq hm => ?_, fun ha => ?_⟩
    · obtain ⟨hyes, hno⟩ := State.expiry_line hx hw (hm.imp_right .inr)
      refine ⟨fun h => ?_, fun h => ?_⟩
      · obtain ⟨hline, -⟩ := hyes (hh.mp h)
        rw [hline, State.handUrgent_joins ha hq, hnew]
      · obtain ⟨hline, -⟩ := hno (mt hh.mpr h)
        rw [hline]
    · obtain ⟨hyes, hno⟩ := State.expiry_line hx hw (.inr (.inl ha))
      refine ⟨?_, fun h => ?_, fun h => ?_⟩
      · by_cases h : x.HandsNotice
        · obtain ⟨hline, -⟩ := hyes h
          rw [hline, State.handUrgent_inactive ha, State.bump_line]
        · obtain ⟨hline, -⟩ := hno h
          rw [hline]
      · obtain ⟨-, hcount⟩ := hyes (hh.mp h)
        exact hcount ha
      · obtain ⟨-, hcount⟩ := hno (mt hh.mpr h)
        exact hcount
  · obtain ⟨t, ht, hp, hs, hn⟩ := exec_receiveCompletion_slideNotice hr htx hl hc hk hf dt
    have hes := congrArg PeerTable.entries hp
    dsimp only at hes
    refine ⟨t, ht, ?_, fun hnone => ?_, fun e he => ⟨fun hst => ?_, fun last hst hlast => ⟨fun hq => ?_, fun hq => ?_,
      fun hne hq => ?_⟩⟩⟩
    · rw [hes]
      exact hs
    · rw [hp, hearArrival_none hnone]
      rfl
    · rw [hes, hearArrival_some he, PeerEntry.hear_apart hst]
    · have hseq : seqCheck e.lastSeq f.seq = .duplicate := by rw [hlast, hq]; exact seqCheck_duplicate last
      have hr := hearArrival_some he (s.advance dt).now f.seq (some (be16At f.payload 0))
      rw [PeerEntry.hear_duplicate hst hseq] at hr
      exact ⟨by rw [hes, hr], hn .duplicates (by rw [hr])⟩
    · have hseq : seqCheck e.lastSeq f.seq = .stale := by rw [hlast]; exact seqCheck_stale hq
      have hr := hearArrival_some he (s.advance dt).now f.seq (some (be16At f.payload 0))
      rw [PeerEntry.hear_stale hst hseq] at hr
      exact ⟨by rw [hes, hr], hn .staleFrames (by rw [hr])⟩
    · have hseq : seqCheck e.lastSeq f.seq = .inOrder (f.seq - last).toNat := by
        rw [hlast]
        exact seqCheck_inOrder hne hq
      rw [hes, hearArrival_some he, PeerEntry.hear_slideNotice hst hseq]
      rfl

end Sys2Proof.Machine
end

section
/-! SUPPORT. The state of the line under every command: outside the reset sequence OFF is neither left nor entered, and
CLASHED is not left (R67, R70). -/

namespace Sys2Proof.Machine

/-- What may follow a line state outside the reset sequence (R67, R70). -/
def LineState.LeadsTo (old new : LineState) : Prop := (new = .off ↔ old = .off) ∧ (old = .clashed → new = .clashed)

theorem LineState.LeadsTo.of_eq {old new : LineState} (h : new = old) : old.LeadsTo new := by
  rw [h]
  exact ⟨Iff.rfl, id⟩

theorem LineState.LeadsTo.trans {a b c : LineState} (h : a.LeadsTo b) (h' : b.LeadsTo c) : a.LeadsTo c :=
  ⟨h'.1.trans h.1, h'.2 ∘ h.2⟩

/-- The states in service lead to every state but OFF. -/
theorem LineState.LeadsTo.of_service {old new : LineState} (h : old = .listening ∨ old = .active ∨ old = .isolated)
    (hn : new ≠ .off) : old.LeadsTo new := by
  rcases h with rfl | rfl | rfl <;> exact ⟨by simpa using hn, by simp⟩

/-! ### Deliveries and the Store Engine leave the line's state -/

theorem State.Delivers.lineState {s t : State} (h : State.Delivers s t) : t.line.state = s.line.state := by rw [h.line]

theorem State.Brakes.lineState {s t : State} (h : State.Brakes s t) : t.line.state = s.line.state :=
  h.delivers.lineState

@[simp] theorem State.bump_lineState (s : State) (i : CounterId) : (s.bump i).line.state = s.line.state :=
  (State.bump_delivers s i).lineState

@[simp] theorem State.bumpN_lineState (s : State) (i : CounterId) (n : Nat) :
    (s.bumpN i n).line.state = s.line.state := (State.bumpN_delivers n s i).lineState

@[simp] theorem State.deliver_lineState (s : State) (m : Message) : (s.deliver m).line.state = s.line.state :=
  (State.deliver_delivers s m).lineState

@[simp] theorem State.startTest_lineState (s : State) : s.startTest.line.state = s.line.state :=
  (State.startTest_delivers s).lineState

@[simp] theorem State.dropAndTest_lineState (s : State) : s.dropAndTest.line.state = s.line.state :=
  ((State.dropEntry_delivers s).trans (State.startTest_delivers _)).lineState

@[simp] theorem State.closeIncident_lineState (s : State) (truncated : Bool) :
    (s.closeIncident truncated).line.state = s.line.state := (State.closeIncident_delivers s truncated).lineState

@[simp] theorem State.reErase_lineState (s : State) (job : StoreJob) : (s.reErase job).line.state = s.line.state := by
  unfold State.reErase
  split <;> rfl

@[simp] theorem State.retryOrDrop_lineState (s : State) (job : StoreJob) :
    (s.retryOrDrop job).line.state = s.line.state := by
  unfold State.retryOrDrop
  split
  · split <;> simp
  · simp

@[simp] theorem State.programNext_lineState (s : State) (job : StoreJob) :
    (s.programNext job).line.state = s.line.state := by
  unfold State.programNext State.commit
  split
  · split <;> rfl
  · rfl

@[simp] theorem State.storeComplete_lineState (s : State) (job : StoreJob) :
    (s.storeComplete job).line.state = s.line.state := by
  unfold State.storeComplete
  split
  · rfl
  · simp

@[simp] theorem State.slotFailed_lineState (s : State) (job : StoreJob) :
    (s.slotFailed job).line.state = s.line.state := by simp [State.slotFailed]

theorem State.slotErased_lineState (s : State) (cleanup : Bool) (job : StoreJob) (ok : Bool) :
    (s.slotErased cleanup job ok).line.state = s.line.state := by
  unfold State.slotErased State.cleanupFailed
  cases cleanup <;> cases ok <;> simp

theorem State.slotEraseEvent_lineState (s : State) (r : FlashResult) :
    (s.slotEraseEvent r).line.state = s.line.state := by
  unfold State.slotEraseEvent
  split
  · exact State.slotErased_lineState _ _ _ _
  · exact State.slotErased_lineState _ _ _ _
  · rfl

theorem State.bodyEvent_lineState (s : State) (r : FlashResult) : (s.bodyEvent r).line.state = s.line.state := by
  unfold State.bodyEvent State.bodyProgrammed
  split
  · split <;> simp
  · rfl

theorem State.headerEvent_lineState (s : State) (r : FlashResult) : (s.headerEvent r).line.state = s.line.state := by
  unfold State.headerEvent State.headerProgrammed State.commitFailed
  split
  · split <;> simp
  · rfl

theorem State.grantFlash_lineState (s : State) : s.grantFlash.line.state = s.line.state := by
  unfold State.grantFlash
  split <;> rfl

theorem State.scanReadEvent_lineState (s : State) (ok : Bool) : (s.scanReadEvent ok).line.state = s.line.state := by
  unfold State.scanReadEvent State.scanRead
  split
  · dsimp only
    split
    · rfl
    · simp
  · rfl

theorem State.eraseAllEvent_lineState (s : State) (r : FlashResult) :
    (s.eraseAllEvent r).line.state = s.line.state := by
  unfold State.eraseAllEvent State.erasedOne
  split
  · dsimp only
    split
    · rfl
    · simp
  · rfl

theorem State.warningCeases_lineState (s : State) : s.warningCeases.line.state = s.line.state := by
  unfold State.warningCeases
  dsimp only
  split
  · split <;> simp
  · rfl

theorem State.warningStands_lineState (s : State) : s.warningStands.line.state = s.line.state := by
  simp [State.warningStands]

/-! ### The Service Port leaves the line's state -/

@[simp] theorem State.respond_lineState (s : State) (c : Command) (code : Code) (v : List Byte) :
    (s.respond c code v).line.state = s.line.state := rfl

theorem State.request_lineState {α : Type} (s : State) (c : Command) (operand : Option α) (serve : α → State → State)
    (h : ∀ x s, (serve x s).line.state = s.line.state) : (s.request c operand serve).line.state = s.line.state := by
  unfold State.request
  dsimp only
  split
  · rfl
  · split
    · rfl
    · exact h _ _

@[simp] theorem State.configDone_lineState (s : State) (ok : Bool) : (s.configDone ok).line.state = s.line.state := by
  unfold State.configDone State.endConfig
  cases ok <;> simp

theorem State.configStep_lineState (s : State) (job : ConfigJob) (ok : Bool) :
    (s.configStep job ok).line.state = s.line.state := by
  unfold State.configStep
  split
  · split
    · simp
    · rfl
  · simp

theorem State.configEraseEvent_lineState (s : State) (r : FlashResult) :
    (s.configEraseEvent r).line.state = s.line.state := by
  unfold State.configEraseEvent
  split
  · exact State.configStep_lineState _ _ _
  · rfl

theorem State.configProgramEvent_lineState (s : State) (r : FlashResult) :
    (s.configProgramEvent r).line.state = s.line.state := by
  unfold State.configProgramEvent
  split
  · exact State.configStep_lineState _ _ _
  · rfl

theorem State.incidentReadEvent_lineState (s : State) (ok : Bool) :
    (s.incidentReadEvent ok).line.state = s.line.state := by
  unfold State.incidentReadEvent State.incidentRead
  split
  · dsimp only
    split <;> rfl
  · rfl

theorem State.servePeer_lineState (addr : Nat) (s : State) : (s.servePeer addr).line.state = s.line.state := by
  unfold State.servePeer
  split <;> rfl

theorem State.serveIncident_lineState (r : IncidentRange) (s : State) :
    (s.serveIncident r).line.state = s.line.state := by
  unfold State.serveIncident
  split
  · rfl
  · split <;> rfl

theorem State.serveTrigger_lineState (s : State) : s.serveTrigger.line.state = s.line.state := by
  simp [State.serveTrigger]

theorem State.serveClear_lineState (c : Nat) (s : State) : (s.serveClear c).line.state = s.line.state := by
  unfold State.serveClear
  split
  · rfl
  · repeat' split
    all_goals rfl

theorem State.serveErase_lineState (s : State) : s.serveErase.line.state = s.line.state := by
  unfold State.serveErase
  split
  · rfl
  · split <;> rfl

@[simp] theorem State.finishImage_lineState (s : State) (image : List Byte) :
    (s.finishImage image).line.state = s.line.state := by
  unfold State.finishImage
  dsimp only
  repeat' split
  all_goals rfl

theorem State.serveChunk_lineState (c : Chunk) (s : State) : (s.serveChunk c).line.state = s.line.state := by
  unfold State.serveChunk
  split
  · rfl
  · split
    · rfl
    · split
      · simp
      · rfl

theorem State.serveRestart_lineState (s : State) : s.serveRestart.line.state = s.line.state := by
  unfold State.serveRestart
  split <;> rfl

theorem State.takeUnknown_lineState (s : State) (code : Byte) : (s.takeUnknown code).line.state = s.line.state := by
  unfold State.takeUnknown
  split <;> rfl

/-- A request leaves the line's state, whatever its command. -/
theorem State.takeRequest_lineState (s : State) (code : Byte) (p : List Byte) :
    (s.takeRequest code p).line.state = s.line.state := by
  unfold State.takeRequest
  split
  · exact State.request_lineState _ _ _ _ fun _ _ => rfl
  · exact State.request_lineState _ _ _ _ fun _ _ => rfl
  · exact State.request_lineState _ _ _ _ State.servePeer_lineState
  · exact State.request_lineState _ _ _ _ fun _ _ => rfl
  · exact State.request_lineState _ _ _ _ State.serveIncident_lineState
  · exact State.request_lineState _ _ _ _ fun _ _ => rfl
  · exact State.request_lineState _ _ _ _ fun _ _ => rfl
  · exact State.request_lineState _ _ _ _ fun _ s => s.serveTrigger_lineState
  · exact State.request_lineState _ _ _ _ State.serveClear_lineState
  · exact State.request_lineState _ _ _ _ fun _ s => s.serveErase_lineState
  · exact State.request_lineState _ _ _ _ State.serveChunk_lineState
  · exact State.request_lineState _ _ _ _ fun _ s => s.serveRestart_lineState
  · exact State.takeUnknown_lineState s code

@[simp] theorem State.setReceiver_lineState (s : State) (r : Receiver × Heard) :
    (s.setReceiver r).line.state = s.line.state := by
  unfold State.setReceiver
  dsimp only
  split
  · rfl
  · simp
  · exact State.takeRequest_lineState _ _ _

theorem State.hearByte_lineState (s : State) (b : LinkByte) : (s.hearByte b).line.state = s.line.state := by
  simp [State.hearByte]

theorem State.responseSent_lineState (s : State) : s.responseSent.line.state = s.line.state := by
  unfold State.responseSent
  split
  · rfl
  · obtain ⟨out, h⟩ := s.sendHead_eq
    rw [h]

/-! ### The Line Unit -/

@[simp] theorem State.enterRoutine_lineState (s : State) (f : TxFrame) :
    (s.enterRoutine f).line.state = s.line.state := by
  unfold State.enterRoutine
  split
  · rfl
  · split
    · dsimp only
      split <;> simp
    · simp

@[simp] theorem State.queueStatement_lineState (s : State) : s.queueStatement.line.state = s.line.state :=
  State.enterRoutine_lineState s _

@[simp] theorem State.makeDue_lineState (s : State) : s.makeDue.line.state = s.line.state := by
  unfold State.makeDue
  split
  · split
    · exact State.queueStatement_lineState s
    · rfl
  · rfl

theorem State.earlyTest_lineState (s : State) : s.earlyTest.line.state = s.line.state := by
  unfold State.earlyTest
  split
  · rfl
  · split
    · exact State.makeDue_lineState s
    · rfl

theorem State.listenEnds_lineState (s : State) : s.listenEnds.line.state = .active := by
  simp [State.listenEnds]

theorem State.probeSent_lineState (s : State) : s.probeSent.line.state = .active := by
  simp [State.probeSent]

theorem State.emptyClasses_lineState (s : State) : s.emptyClasses.line.state = s.line.state := by
  simp [State.emptyClasses]

theorem State.isolate_lineState (s : State) (kind : FrameKind) (why : Abandon) :
    (s.isolate kind why).line.state = .isolated := by
  simp [State.isolate, State.emptyClasses_lineState]

/-- An abandonment isolates an active line at most. -/
theorem State.abandoned_leads (s : State) (kind : FrameKind) (why : Abandon) :
    s.line.state.LeadsTo (s.abandoned kind why).line.state := by
  unfold State.abandoned
  split
  · exact .of_eq rfl
  · split
    · rename_i ha
      dsimp only
      split
      · rw [State.isolate_lineState]
        exact .of_service (.inr (.inl ha)) (by simp)
      · exact .of_eq rfl
    · exact .of_eq rfl

/-- A clash takes a line in service to CLASHED at most. -/
theorem State.clash_leads (s : State) (f : GoodFrame) : s.line.state.LeadsTo (s.clash f).line.state := by
  unfold State.clash
  dsimp only
  split
  · rename_i h
    refine .of_service h.2 ?_
    simp [State.emptyClasses_lineState]
  · exact .of_eq (by simp)

theorem Line.setHead_state (l : Line) (c : TxClass) (f : TxFrame) : (l.setHead c f).state = l.state := by
  cases c <;> rfl

theorem State.startAttempt_lineState (s : State) (c : TxClass) : (s.startAttempt c).line.state = s.line.state := by
  unfold State.startAttempt
  split
  · rfl
  · exact Line.setHead_state _ _ _

theorem State.collide_leads (s : State) (c : TxClass) : s.line.state.LeadsTo (s.collide c).line.state := by
  unfold State.collide
  split
  · exact .of_eq rfl
  · dsimp only
    split
    · exact .of_eq ((Line.setHead_state _ _ _).trans (State.bump_lineState _ _))
    · refine .trans (.of_eq ?_) (State.abandoned_leads _ _ _)
      exact (Line.leave_state _ _).trans (by simp)

theorem State.lateCollide_leads (s : State) (c : TxClass) : s.line.state.LeadsTo (s.lateCollide c).line.state := by
  unfold State.lateCollide
  split
  · exact .of_eq rfl
  · refine .trans (.of_eq ?_) (State.abandoned_leads _ _ _)
    exact (Line.leave_state _ _).trans (by simp)

theorem State.jamEnds_lineState (s : State) (c : Option TxClass) : (s.jamEnds c).line.state = s.line.state := by
  unfold State.jamEnds
  dsimp only
  split
  · rfl
  · split
    · rfl
    · split
      · exact State.bump_lineState _ _
      · exact Line.setHead_state _ _ _

theorem State.sendDone_leads (s : State) (c : TxClass) : s.line.state.LeadsTo (s.sendDone c).line.state := by
  unfold State.sendDone
  split
  · exact .of_eq rfl
  · dsimp only
    split
    · rename_i hi
      rw [State.probeSent_lineState]
      exact .of_service (.inr (.inr hi)) (by simp)
    · refine .of_eq ?_
      rw [State.mirror_line]
      exact (Line.leave_state _ _).trans (State.bump_lineState _ _)

theorem State.waitEnds_lineState (s : State) (c : TxClass) : (s.waitEnds c).line.state = s.line.state := by
  unfold State.waitEnds
  split
  · rfl
  · split
    · exact Line.setHead_state _ _ _
    · rfl

/-! ### Receptions, the peer table and the Blending Unit -/

theorem State.withPeers_lineState (s : State) (r : List PeerEntry × List Message) :
    (s.withPeers r).line.state = s.line.state := (State.withPeers_delivers s r).lineState

theorem State.ageingExpires_lineState (s : State) : s.ageingExpires.line.state = s.line.state := by
  unfold State.ageingExpires State.agePeers
  exact State.withPeers_lineState _ _

theorem State.dispatch_lineState (s : State) (f : GoodFrame) : (s.dispatch f).line.state = s.line.state := by
  unfold State.dispatch
  split
  · exact State.withPeers_lineState s _
  · exact State.withPeers_lineState s _
  · exact (State.withPeers_lineState _ _).trans (s.takeNotice_brakes f).lineState
  · exact (State.withPeers_lineState _ _).trans (s.raise_delivers _).lineState

theorem State.takeFrame_leads (s : State) (f : GoodFrame) : s.line.state.LeadsTo (s.takeFrame f).line.state := by
  unfold State.takeFrame
  split
  · unfold State.ownAddressFrame
    split
    · exact (s.clash_leads f).trans (.of_eq (State.takeNotice_brakes _ f).lineState)
    · exact s.clash_leads f
  · rw [State.mirror_line]
    exact .of_eq (s.dispatch_lineState f)

theorem State.receive_leads (s : State) (frame : List Byte) (extra : Nat) :
    s.line.state.LeadsTo (s.receive frame extra).line.state := by
  unfold State.receive
  dsimp only
  split
  · exact .of_eq (State.bump_lineState _ _)
  · exact .of_eq (State.bump_lineState _ _)
  · exact .of_eq (State.bump_lineState _ _)
  · exact State.takeFrame_leads { s with line := { s.line with lastActivityEnd := some s.clock } } _

theorem State.windowExpires_lineState (s : State) (faults : Tri Bool) :
    (s.windowExpires faults).line.state = s.line.state := by
  obtain ⟨u, timer, h⟩ := s.windowExpires_spec faults
  exact h.lineState

theorem State.linkCheck_lineState (s : State) : s.linkCheck.line.state = s.line.state := by
  unfold State.linkCheck
  exact (State.deliverAll_delivers _ _).lineState

theorem State.controlCycle_lineState (s : State) : s.controlCycle.line.state = s.line.state := by
  unfold State.controlCycle
  dsimp only
  have he := State.earlyTest_lineState { s with demand := { s.demand with cycleDue := s.demand.cycleDue + 20000 } }
  generalize State.earlyTest _ = x at he
  have hl : x.linkCheck.line.state = x.line.state := x.linkCheck_lineState
  have ho (z : State) : z.outputStage.line.state = z.line.state := z.outputStage_delivers.lineState
  have hm (z : State) : z.evaluateMode.line.state = z.line.state := z.evaluateMode_delivers.lineState
  have hb (z : State) : z.recordBlend.line.state = z.line.state := z.recordBlend_delivers.lineState
  rw [hb, hm, ho, State.sharingStage_line, State.computeDemand_line, hl, he]

/-! ### Every command -/

/-- An event leads the line's state as its work does. -/
theorem State.event_leads {work : State → State} (hw : ∀ s : State, s.line.state.LeadsTo (work s).line.state)
    (s : State) (dt : Nat) : s.line.state.LeadsTo (s.event dt work).line.state :=
  State.event_keeps (P := fun t => s.line.state.LeadsTo t.line.state) (fun _ _ h => h)
    (fun _ _ hd h => h.trans (.of_eq hd.lineState)) (fun t h => h.trans (hw t)) s dt (.of_eq rfl)

/-- The same for an event taken under a condition. -/
theorem State.eventIf_leads {cond : State → Bool} {work : State → State}
    (hw : ∀ s : State, cond s = true → s.line.state.LeadsTo (work s).line.state) (s : State) (dt : Nat) :
    s.line.state.LeadsTo (s.eventIf dt cond work).line.state :=
  State.eventIf_keeps (P := fun t => s.line.state.LeadsTo t.line.state) (fun _ _ h => h)
    (fun _ _ hd h => h.trans (.of_eq hd.lineState)) (fun t hc h => h.trans (hw t hc)) s dt (.of_eq rfl)

theorem State.hearBytes_leads (bs : List LinkByte) (s : State) :
    s.line.state.LeadsTo (s.hearBytes bs).line.state := by
  induction bs generalizing s with
  | nil => exact .of_eq rfl
  | cons b bs ih => exact (State.event_leads (fun s => .of_eq (s.hearByte_lineState b)) s b.wait).trans (ih _)

/-- A command that is neither the reset sequence's nor a service request. -/
theorem exec_other_leads {c : Instr} (hc : resetCommand c = false) (hq : requestOf c = none) (s : State) :
    ∃ t, exec c s = .next t ∧ s.line.state.LeadsTo t.line.state := by
  cases c
  case reset | configImageReadCompletion | restartResponseSent => cases hc
  case readStatus | readPeers | readPeer | listIncidents | readIncident | readCounters | clearCounters | trigger |
      clearChannel | eraseIncidents | writeConfig | restart => cases hq
  all_goals refine ⟨_, rfl, ?_⟩
  case scanCompletion => exact State.eventIf_leads (fun s _ => .of_eq s.scanCompletes_brakes.lineState) _ _
  case toothPulse =>
    refine State.event_leads (fun s => ?_) _ _
    exact .of_eq rfl
  case speedWindowExpiry => exact State.eventIf_leads (fun s _ => .of_eq (s.windowExpires_lineState _)) _ _
  case controlCycle => exact State.eventIf_leads (fun s _ => .of_eq s.controlCycle_lineState) _ _
  case noticeRepeatExpiry => exact State.eventIf_leads (fun s _ => .of_eq s.repeatNotice_brakes.lineState) _ _
  case exitTimerExpiry => exact State.eventIf_leads (fun s _ => .of_eq s.exitCheck_brakes.lineState) _ _
  case statusReplyArrival => exact State.event_leads (fun s => .of_eq (s.statusArrival_brakes _).lineState) _ _
  case receiveCompletion => exact State.eventIf_leads (fun s _ => s.receive_leads _ _) _ _
  case listenTimerExpiry =>
    refine State.eventIf_leads (fun s hl => ?_) _ _
    rw [State.listenEnds_lineState]
    refine .of_service (.inl ?_) (by simp)
    simp only [Bool.and_eq_true, beq_iff_eq] at hl
    exact hl.1
  case statementTimerExpiry =>
    refine State.eventIf_leads (fun s _ => ?_) _ _
    exact .of_eq (State.makeDue_lineState { s with line := { s.line with statementDue := none } })
  case dueStatementQueued => exact State.eventIf_leads (fun s _ => .of_eq s.queueStatement_lineState) _ _
  case holdTimerExpiry =>
    refine State.eventIf_leads (fun s _ => ?_) _ _
    exact .of_eq rfl
  case attemptStart =>
    refine State.event_leads (fun s => .of_eq ?_) _ _
    unfold State.tryAttempt
    split
    · rfl
    · exact s.startAttempt_lineState _
  case collision =>
    refine State.event_leads (fun s => ?_) _ _
    unfold State.collisionEvent
    split
    · split
      · exact s.collide_leads _
      · exact .of_eq rfl
    · exact .of_eq rfl
    · exact .of_eq rfl
  case jamEnd =>
    refine State.event_leads (fun s => .of_eq ?_) _ _
    unfold State.jamEvent
    split
    · split
      · exact s.jamEnds_lineState _
      · rfl
    · rfl
    · rfl
  case backoffWaitEnd => exact State.event_leads (fun s => .of_eq (s.waitEnds_lineState _)) _ _
  case lateCollision =>
    refine State.event_leads (fun s => ?_) _ _
    unfold State.lateEvent
    split
    · split
      · exact s.lateCollide_leads _
      · exact .of_eq rfl
    · exact .of_eq rfl
    · exact .of_eq rfl
  case frameSent =>
    refine State.event_leads (fun s => ?_) _ _
    unfold State.sentEvent
    split
    · split
      · exact s.sendDone_leads _
      · exact .of_eq rfl
    · exact .of_eq rfl
    · exact .of_eq rfl
  case ageingTimerExpiry =>
    refine State.eventIf_leads (fun s _ => ?_) _ _
    exact .of_eq s.ageingExpires_lineState
  case windowTimerExpiry => exact State.eventIf_leads (fun s _ => .of_eq (s.closeIncident_lineState _)) _ _
  case powerFailWarningStanding =>
    split
    · exact State.event_leads (fun s => .of_eq s.warningStands_lineState) _ _
    · exact .of_eq rfl
  case powerFailWarningCeases =>
    split
    · exact State.event_leads (fun s => .of_eq s.warningCeases_lineState) _ _
    · exact .of_eq rfl
  case scanReadCompletion => exact State.event_leads (fun s => .of_eq (s.scanReadEvent_lineState _)) _ _
  case flashInterfaceGrant => exact .of_eq (State.grantFlash_lineState _)
  case slotEraseCompletion => exact State.event_leads (fun s => .of_eq (s.slotEraseEvent_lineState _)) _ _
  case bodyProgramCompletion => exact State.event_leads (fun s => .of_eq (s.bodyEvent_lineState _)) _ _
  case headerProgramCompletion => exact State.event_leads (fun s => .of_eq (s.headerEvent_lineState _)) _ _
  case eraseAllCompletion => exact State.event_leads (fun s => .of_eq (s.eraseAllEvent_lineState _)) _ _
  case configEraseCompletion => exact State.event_leads (fun s => .of_eq (s.configEraseEvent_lineState _)) _ _
  case configProgramCompletion => exact State.event_leads (fun s => .of_eq (s.configProgramEvent_lineState _)) _ _
  case incidentReadCompletion => exact State.event_leads (fun s => .of_eq (s.incidentReadEvent_lineState _)) _ _
  case serviceFrameError => exact State.hearBytes_leads _ _
  case requestTimeout =>
    exact (State.hearBytes_leads _ _).trans (State.event_leads (fun s => .of_eq (s.setReceiver_lineState _)) _ _)
  case unknownCommand => exact State.eventIf_leads (fun s _ => .of_eq (s.takeUnknown_lineState _)) _ _
  case pressureConversionCompletion =>
    refine State.event_leads (fun s => .of_eq ?_) _ _
    unfold State.convert
    dsimp only
    split <;> rfl
  case handleInputEdge => exact .of_eq rfl
  case serviceResponseSent => exact State.event_leads (fun s => .of_eq s.responseSent_lineState) _ _

/-- A command that is not the reset sequence's neither leaves nor enters OFF, and does not leave CLASHED. -/
theorem exec_leads {c : Instr} (hc : resetCommand c = false) {s t : State} (h : exec c s = .next t) :
    s.line.state.LeadsTo t.line.state := by
  cases hq : requestOf c with
  | some q =>
    obtain ⟨dt, code, p⟩ := q
    cases h.symm.trans (exec_request c dt code p s hq)
    exact State.event_leads (fun s => .of_eq (s.takeRequest_lineState code p)) s dt
  | none =>
    obtain ⟨u, hu, hl⟩ := exec_other_leads hc hq s
    cases h.symm.trans hu
    exact hl

/-! ### The urgent queue, the peer table and the counters over a step -/

/-- A configuration in range has a roster of at most 15 addresses without repeats (R175). -/
theorem configInRange_roster {c : Configuration} (h : configInRange c = true) :
    c.roster.length ≤ 15 ∧ distinct c.roster = true := by
  simp only [configInRange, Bool.and_eq_true, decide_eq_true_eq] at h
  tauto

/-- The laws that a step keeps of the line, the peer table and the counters. -/
structure State.KeepsTables (s t : State) : Prop where
  urgent : s.UrgentSound → t.UrgentSound
  peers : s.PeersSound → t.PeersSound
  counters : s.CountersSound → t.CountersSound

theorem State.KeepsTables.refl (s : State) : State.KeepsTables s s := ⟨id, id, id⟩

theorem State.Steady.keepsTables {s t : State} {dt : Nat} (h : State.Steady (s.advance dt) t) : State.KeepsTables s t :=
  ⟨h.urgent, h.peers, fun ⟨hc, hl⟩ => ⟨h.counts hc, h.moves.lost_bounded hl⟩⟩

/-- The units' reset values under a configuration in range keep them. -/
theorem State.keepsTables_of_reset {s t : State} {c : Configuration} (hc : configInRange c = true)
    (hl : t.line = resetLine c t.address) (hp : t.peers = resetPeers c t.address) (hr : t.recorder = resetRecorder c)
    (hn : t.counters = zeroCounters) : State.KeepsTables s t := by
  obtain ⟨hlen, hd⟩ := configInRange_roster hc
  refine ⟨fun _ => ?_, fun _ => ?_, fun _ => ⟨fun i => ?_, ?_⟩⟩
  · unfold State.UrgentSound
    rw [hl]
    exact ⟨Nat.zero_le _, fun _ => rfl⟩
  · rw [State.peersSound_iff, hp]
    exact resetPeers_sound c _ hlen hd
  · rw [hn]
    cases i <;> exact Nat.zero_le _
  · rw [hr]
    exact resetRecorder_lost c

theorem exec_keepsTables {c : Instr} {s t : State} (h : exec c s = .next t) : State.KeepsTables s t := by
  rcases exec_cases c s t h with ⟨dt, hs⟩ | ⟨out, straps, left, rfl⟩ | ⟨ok, rfl⟩
  · exact hs.keepsTables
  · unfold State.beginReset
    dsimp only
    split <;> exact State.keepsTables_of_reset defaultConfig_inRange rfl rfl rfl rfl
  · exact State.keepsTables_of_reset (configFrom_inRange ok s.slotImage) rfl rfl rfl rfl

theorem step_keepsTables {s t : State} (h : step s = .next t) : State.KeepsTables s t := by
  unfold step at h
  split at h
  · cases h
    exact .refl s
  · obtain ⟨hu, hp, hc⟩ := exec_keepsTables h
    exact ⟨hu, hp, hc⟩

/-- Settles O35: what every command keeps of the two tables (`step_keepsTables`), and where it leads the line's state
(`exec_leads`). -/
theorem lineAndPeerTableStaySound : Obligations.LineAndPeerTableStaySound :=
  ⟨fun _ _ hs h => (step_keepsTables h).urgent hs, fun _ _ hs h => (step_keepsTables h).peers hs,
    fun _ _ _ hc h => exec_leads hc h⟩

end Sys2Proof.Machine
end

section
/-! SUPPORT. What a count does by where the counter stands, and CLEAR_COUNTERS (R79, R128, R160, R182). -/

namespace Sys2Proof.Machine

variable {s : State} {i : CounterId}

/-- A counter at its limit stands. -/
theorem State.bump_full (h : 65535 ≤ s.counters.get i) : s.bump i = s := if_neg (by omega)

/-- A count short of the limit changes the counters alone. -/
theorem State.bump_short (h : s.counters.get i < 65534) : s.bump i = { s with counters := (s.bump i).counters } := by
  have hb : s.bump i = { s with counters := s.counters.set i (s.counters.get i + 1) } := by
    unfold State.bump
    dsimp only
    rw [if_pos (by omega), if_neg (by omega)]
  rw [hb]

/-- The count that reaches the limit hands its event record. -/
theorem State.bump_reaches (h : s.counters.get i = 65534) :
    s.bump i = State.logEvent { s with counters := (s.bump i).counters } .saturation (be8 (counterCode i)) := by
  have hb : s.bump i = State.logEvent { s with counters := s.counters.set i (s.counters.get i + 1) } .saturation
      (be8 (counterCode i)) := by
    unfold State.bump
    dsimp only
    rw [if_pos (by omega), if_pos (by omega)]
  rw [hb, State.logEvent_counters]

theorem countedOnce_below {n : Nat} (h : n < 65535) : countedOnce n = n + 1 := if_pos h

/-- Counts at 0 leave every channel's state. -/
theorem State.clearCounters_states (s : State) : s.clearCounters.recorder.states = s.recorder.states := by
  unfold State.clearCounters Recorder.states
  rw [List.map_map]
  rfl

/-- A CLEAR_COUNTERS request taken. -/
theorem State.takeClearCounters_taken (h : s.service.inProgress = none) :
    s.takeClearCounters [] = s.hunt.clearCounters.respond .clearCounters .ok [] := by
  unfold State.takeClearCounters State.request
  dsimp only
  rw [State.hunt_service]
  dsimp only
  rw [h]
  rfl

/-- Settles O50: the bounds over a step (`step_keepsTables`), one count (`State.bump_full`, `State.bump_short`,
`State.bump_reaches`), and CLEAR_COUNTERS (`State.takeClearCounters_taken`). -/
theorem countersSaturateAndClear : Obligations.CountersSaturateAndClear := by
  refine ⟨fun s t hs h => (step_keepsTables h).counters hs, fun s i => ⟨State.bump_full, fun h => ⟨?_, fun j hj => ?_⟩,
    State.bump_short, State.bump_reaches⟩, fun dt s hr hp => ?_⟩
  · rw [State.bump_get, if_pos rfl, countedOnce_below h]
  · rw [State.bump_get, if_neg hj]
  · have ht : (s.advance dt).takeClearCounters [] = (s.advance dt).hunt.clearCounters.respond .clearCounters .ok [] :=
      State.takeClearCounters_taken hp
    have he : s.event dt (fun s => s.takeClearCounters []) = (s.advance dt).takeClearCounters [] :=
      State.event_same hr (by rw [ht]; exact State.clearCounters_states _)
    exact congrArg _ (he.trans ht)

end Sys2Proof.Machine
end

section
/-! SUPPORT. Receptions (R61, R62, R70): the checks in their order, the counters that triggers leave, and a clash of
addresses. -/

namespace Sys2Proof.Machine

/-! ### The checks of a reception (R61) -/

theorem crcGood_iff (bs : List Byte) : crcGood bs = true ↔
    bs.drop (bs.length - 2) = be16 (crc16 (bs.take (bs.length - 2))).toNat := beq_iff_eq

/-- What the form check asks of a frame (R61). -/
def FrameFormed (bs : List Byte) : Prop :=
  ∃ k, frameOfCode (byteAt bs 0) = some k ∧ byteAt bs 4 = payloadLength k ∧ bs.length = 6 + payloadLength k + 2 ∧
    1 ≤ byteAt bs 1 ∧ byteAt bs 1 ≤ 30 ∧ byteAt bs 2 ≤ 7 ∧ byteAt bs 5 = 0

theorem parseFrame_unformed {bs : List Byte} (h : ¬FrameFormed bs) : parseFrame bs = none := by
  unfold parseFrame
  split
  · rfl
  · rename_i k hk
    exact if_neg fun hf => h ⟨k, hk, hf⟩

theorem classify_runt {bs : List Byte} {extra : Nat} (h : bs.length < 11 ∨ extra ≠ 0) : classify bs extra = .runt :=
  if_pos h

theorem classify_whole {bs : List Byte} (h : 11 ≤ bs.length) : classify bs 0 =
    if crcGood bs then (match parseFrame bs with | none => .malformed | some f => .good f) else .crcError :=
  if_neg (by omega)

theorem classify_crcError {bs : List Byte} (h : 11 ≤ bs.length) (hc : ¬crcGood bs = true) :
    classify bs 0 = .crcError := by
  rw [classify_whole h, if_neg hc]

theorem classify_malformed {bs : List Byte} (h : 11 ≤ bs.length) (hc : crcGood bs = true) (hf : ¬FrameFormed bs) :
    classify bs 0 = .malformed := by
  rw [classify_whole h, if_pos hc, parseFrame_unformed hf]

/-- A reception is no event while the transmitter works or the line is OFF. -/
theorem exec_receiveCompletion_closed {s : State} (h : s.line.tx ≠ .idle ∨ s.line.state = .off) (dt : Nat)
    (frame : List Byte) (extra : Nat) : exec (.receiveCompletion dt frame extra) s = .next (s.advance dt) := by
  refine congrArg _ (State.eventIf_not ?_)
  rcases h with h | h <;> simp [State.receives, h]

/-- A reception whose effect is one count. -/
theorem exec_receiveCompletion_counted {s : State} (hr : s.runPhase = .running) (htx : s.line.tx = .idle)
    (hl : s.line.state ≠ .off) {dt extra : Nat} {frame : List Byte} {i : CounterId}
    (h : (s.advance dt).receive frame extra = (s.advance dt).afterReception.bump i) :
    exec (.receiveCompletion dt frame extra) s = .next ((s.advance dt).afterReception.bump i) := by
  have hrec : (s.advance dt).receives = true := by simp [State.receives, htx, hl]
  rw [← h]
  refine congrArg _ (State.eventIf_same hr hrec ?_)
  rw [h, State.bump_states]
  rfl

/-- Settles O27: the check that fails first gives the counter (`classify_runt`, `classify_crcError`,
`classify_malformed`), and the count is the reception's whole effect (`exec_receiveCompletion_counted`). -/
theorem receptionIsCheckedInOrder : Obligations.ReceptionIsCheckedInOrder := by
  intro dt extra frame s hr
  refine ⟨fun h => exec_receiveCompletion_closed h dt frame extra, fun htx hl => ⟨fun h => ?_, fun hn he hc => ?_,
    fun hn he hc hf => ?_⟩⟩
  · refine exec_receiveCompletion_counted hr htx hl ?_
    unfold State.receive
    rw [classify_runt h]
    rfl
  · subst he
    refine exec_receiveCompletion_counted hr htx hl ?_
    unfold State.receive
    rw [classify_crcError hn (mt (crcGood_iff frame).mp hc)]
    rfl
  · subst he
    refine exec_receiveCompletion_counted hr htx hl ?_
    unfold State.receive
    rw [classify_malformed hn ((crcGood_iff frame).mpr hc) hf]
    rfl

/-! ### The counters that a trigger leaves (R79, R160) -/

/-- The counters that taking a trigger may raise: the Recorder's own, and those of the mark's entry in the urgent queue. -/
def triggerCounters : List CounterId :=
  [.ignoredInScanning, .heldOff, .gated, .incidentsLost, .urgentDiscarded, .urgentOverflow]

theorem State.bump_get_other (s : State) {i j : CounterId} (h : j ≠ i) : (s.bump i).counters.get j = s.counters.get j :=
  (s.bump_get i j).trans (if_neg h)

theorem State.bump_get_self (s : State) (i : CounterId) :
    (s.bump i).counters.get i = countedOnce (s.counters.get i) := (s.bump_get i i).trans (if_pos rfl)

theorem State.bumpN_get_other (n : Nat) (s : State) {i j : CounterId} (h : j ≠ i) :
    (s.bumpN i n).counters.get j = s.counters.get j := by
  induction n generalizing s with
  | zero => rfl
  | succ n ih => exact (ih _).trans (s.bump_get_other h)

section
variable {i : CounterId} (hi : i ∉ triggerCounters)
include hi

/-- A count of the list is another counter. -/
theorem State.bump_get_untriggered (s : State) {j : CounterId} (hj : j ∈ triggerCounters) :
    (s.bump j).counters.get i = s.counters.get i := s.bump_get_other fun h => hi (h ▸ hj)

theorem State.startTests_get (n : Nat) (s : State) : (s.startTests n).counters.get i = s.counters.get i := by
  induction n generalizing s with
  | zero => rfl
  | succ n ih =>
    simp only [State.startTests]
    split
    · split
      · rfl
      · exact (ih _).trans (State.bump_get_untriggered hi _ (by decide))
    · rfl

theorem State.handUrgent_get (s : State) (kind : FrameKind) (payload : List Byte) :
    (s.handUrgent kind payload).counters.get i = s.counters.get i := by
  unfold State.handUrgent
  split
  · exact State.bump_get_untriggered hi _ (by decide)
  · split
    · rfl
    · split
      · exact State.bump_get_untriggered hi _ (by decide)
      · exact State.bump_get_untriggered hi _ (by decide)

theorem State.closeIncident_get (s : State) (truncated : Bool) :
    (s.closeIncident truncated).counters.get i = s.counters.get i := by
  unfold State.closeIncident
  split
  · rfl
  · dsimp only
    split
    · exact State.bump_get_untriggered hi _ (by decide)
    · split
      · exact State.startTests_get hi _ _
      · exact State.startTests_get hi _ _

theorem State.openIncident_get (s : State) (x : Trigger) :
    (s.openIncident x).counters.get i = s.counters.get i := by
  unfold State.openIncident
  dsimp only
  split
  · exact State.handUrgent_get hi _ _ _
  · rfl

/-- A trigger leaves every counter outside the list. -/
theorem State.raise_get (s : State) (x : Trigger) : (s.raise x).counters.get i = s.counters.get i := by
  have hb (j : CounterId) (hj : j ∈ triggerCounters) : (s.bump j).counters.get i = s.counters.get i :=
    s.bump_get_untriggered hi hj
  unfold State.raise
  split
  · exact hb _ (by decide)
  · split
    · rfl
    · split
      · exact hb _ (by decide)
      · split
        · exact hb _ (by decide)
        · split
          · rfl
          · split
            · exact hb _ (by decide)
            · split
              · exact (State.closeIncident_get hi _ _).trans (s.openIncident_get hi x)
              · exact s.openIncident_get hi x

/-- So does a notice at the demand section. -/
theorem State.takeNotice_get (s : State) (f : GoodFrame) :
    (s.takeNotice f).counters.get i = s.counters.get i := by
  unfold State.takeNotice
  split
  · rfl
  · refine (State.raise_get hi _ _).trans ?_
    simp [State.enterEmergency]

end

/-! ### A clash (R70) -/

/-- Deliveries leave the whole line while its urgent queue is empty outside ACTIVE. -/
theorem State.Delivers.line_quiet {s t : State} (h : State.Delivers s t) (ha : s.line.state ≠ .active)
    (hq : s.line.queue = []) : t.line = s.line := by
  have hu : s.UrgentSound := ⟨by rw [hq]; exact Nat.zero_le _, fun _ => hq⟩
  have ht : t.line.queue = [] := (h.urgent hu).2 (by rw [h.lineState]; exact ha)
  rw [h.line, ht, ← hq]

@[simp] theorem State.bumpN_line (n : Nat) (s : State) (i : CounterId) : (s.bumpN i n).line = s.line := by
  induction n generalizing s with
  | zero => rfl
  | succ n ih => exact (ih _).trans (s.bump_line i)

/-- The classes emptied and the statement timer stopped (R68, R70). -/
def Line.emptied (l : Line) : Line :=
  { l with queue := [], slot := none, nextStatement := none, statementDue := none, due := false }

theorem State.emptyClasses_line (s : State) : s.emptyClasses.line = s.line.emptied := State.bumpN_line _ _ _

theorem State.emptyClasses_get (s : State) {i : CounterId} (h : i ≠ .urgentDiscarded) :
    s.emptyClasses.counters.get i = s.counters.get i := State.bumpN_get_other _ _ h

/-- A first clash, or one in CLASHED, is counted and leaves the line's state and classes. -/
theorem State.clash_line_counted {s : State} (h : s.line.clashes = 0 ∨ s.line.state = .clashed) (f : GoodFrame) :
    (s.clash f).line = { s.line with clashes := min 2 (s.line.clashes + 1) } := by
  unfold State.clash
  dsimp only
  rw [if_neg, State.bump_line]
  rintro ⟨hc, hs⟩
  rcases h with h | h
  · omega
  · simp [h] at hs

/-- A second clash in service takes the line to CLASHED. -/
theorem State.clash_line_enters {s : State} (h : 1 ≤ s.line.clashes) (ho : s.line.state ≠ .off)
    (hc : s.line.state ≠ .clashed) (f : GoodFrame) : (s.clash f).line =
      { s.line.emptied with
        clashes := min 2 (s.line.clashes + 1), state := .clashed, holdDue := none, listenDue := none } := by
  have hs : s.line.state = .listening ∨ s.line.state = .active ∨ s.line.state = .isolated := by
    cases hl : s.line.state <;> simp_all
  unfold State.clash
  dsimp only
  rw [if_pos ⟨by omega, hs⟩]
  refine ((State.deliver_delivers _ _).line_quiet ?_ ?_).trans ?_
  all_goals simp [State.emptyClasses_line, Line.emptied, State.bump_line]

theorem State.clash_get (s : State) (f : GoodFrame) :
    (s.clash f).counters.get .addressClashes = countedOnce (s.counters.get .addressClashes) := by
  have hb := State.bump_get_self { s with line := { s.line with clashes := min 2 (s.line.clashes + 1) } } .addressClashes
  unfold State.clash
  dsimp only
  split
  · refine (State.raise_get (by decide) _ _).trans ?_
    refine (State.emptyClasses_get _ (by decide)).trans ?_
    rw [State.setLine_counters]
    exact hb
  · exact hb

theorem State.ownAddressFrame_brakes (s : State) (f : GoodFrame) : State.Brakes (s.clash f) (s.ownAddressFrame f) := by
  unfold State.ownAddressFrame
  split
  · exact State.takeNotice_brakes _ f
  · exact .refl _

theorem State.ownAddressFrame_get (s : State) (f : GoodFrame) :
    (s.ownAddressFrame f).counters.get .addressClashes = countedOnce (s.counters.get .addressClashes) := by
  unfold State.ownAddressFrame
  split
  · exact (State.takeNotice_get (by decide) _ f).trans (s.clash_get f)
  · exact s.clash_get f

/-- The reception of a frame with the station's own address: the clash, then what the Blending Unit and messages add. -/
theorem exec_receiveCompletion_own {s : State} {frame : List Byte} {f : GoodFrame} (hr : s.runPhase = .running)
    (htx : s.line.tx = .idle) (hl : s.line.state ≠ .off) (hc : classify frame 0 = .good f) (hf : f.source = s.address)
    (dt : Nat) : ∃ t, exec (.receiveCompletion dt frame 0) s = .next t ∧
      State.Brakes ((s.advance dt).afterReception.clash f) t ∧
      (f.kind ≠ .emergencyNotice → State.Delivers ((s.advance dt).afterReception.clash f) t) ∧
      t.counters.addressClashes = countedOnce s.counters.addressClashes := by
  refine ⟨_, exec_receiveCompletion_good hr htx hl hc dt, ?_⟩
  have htake : (s.advance dt).afterReception.takeFrame f = (s.advance dt).afterReception.ownAddressFrame f := if_pos hf
  have hd := State.recordChannels_delivers (s.advance dt) ((s.advance dt).afterReception.ownAddressFrame f)
  have hg := State.ownAddressFrame_get (s.advance dt).afterReception f
  obtain ⟨r, hframe, -⟩ := State.recordChannels_frame (s.advance dt) ((s.advance dt).afterReception.ownAddressFrame f)
  rw [htake]
  refine ⟨(State.ownAddressFrame_brakes _ f).trans hd.brakes, fun hk => ?_, ?_⟩
  · have hown : (s.advance dt).afterReception.ownAddressFrame f = (s.advance dt).afterReception.clash f := if_neg hk
    rw [hown] at hd ⊢
    exact hd
  · rw [hframe]
    exact hg

/-- The Blending Unit's sections put in the place of those of two states that are the same but for messages. -/
theorem State.SameButMessages.with_blending {u v : State} (h : u.SameButMessages v) (d : Demand) (r : Sharing)
    (o : Outputs) : State.SameButMessages { u with demand := d, sharing := r, outputs := o }
      { v with demand := d, sharing := r, outputs := o } := by
  unfold State.SameButMessages at h ⊢
  exact congrArg (fun x : State => { x with demand := d, sharing := r, outputs := o }) h

/-- Settles O28: the clash's effect on the line (`State.clash_line_counted`, `State.clash_line_enters`) in the event of the
frame's reception (`exec_receiveCompletion_own`). -/
theorem secondClashTakesLineToClashed : Obligations.SecondClashTakesLineToClashed := by
  intro dt frame f s hr htx hl hc hf
  obtain ⟨t, ht, hb, hd, hn⟩ := exec_receiveCompletion_own hr htx hl hc hf dt
  have hx := (s.advance dt).afterReception_talks.trans (State.clash_talks _ f)
  have hcounted := State.clash_line_counted (s := (s.advance dt).afterReception) (f := f)
  have henters := State.clash_line_enters (s := (s.advance dt).afterReception) (f := f)
  generalize (s.advance dt).afterReception.clash f = x at hb hd hx hcounted henters
  have hline : t.line = { x.line with queue := t.line.queue } := hb.delivers.line
  refine ⟨t, ht, ?_, fun hk => ?_, ?_, hn, fun h => ?_, fun h hne => ?_⟩
  · exact hb.delivers.sameButMessages.trans (hx.sameButMessages.with_blending t.demand t.sharing t.outputs)
  · exact ⟨(hd hk).demand.trans hx.demand, (hd hk).outputs.trans hx.outputs, (hd hk).sharing.trans hx.sharing⟩
  · rw [hline]
    by_cases h : s.line.clashes = 0 ∨ s.line.state = .clashed
    · rw [hcounted h]
      rfl
    · rw [henters (Nat.one_le_iff_ne_zero.mpr fun h0 => h (.inl h0)) hl fun h1 => h (.inr h1)]
      rfl
  · rw [hline, hcounted h]
    exact ⟨rfl, rfl, rfl⟩
  · have he := henters h hl hne
    have hq : t.line = x.line := hb.delivers.line_quiet (by simp [he]) (by simp [he, Line.emptied])
    rw [hq, he]
    exact ⟨rfl, rfl, rfl, rfl, rfl, rfl, rfl⟩

end Sys2Proof.Machine
end

section
/-! SUPPORT. The urgent queue (R75, R76) and the start of an attempt (R60, R71). -/

namespace Sys2Proof.Machine

/-! ### An urgent entry handed over (R75, R76) -/

section
variable {new : TxFrame}

theorem replaceIn_none {l : List TxFrame} (h : ∀ g ∈ l, replaceable new.kind g.kind = false) : replaceIn new l = none := by
  induction l with
  | nil => rfl
  | cons g l ih =>
    rw [replaceIn, if_neg (by simp [h g]), ih fun x hx => h x (by simp [hx])]
    rfl

/-- The first entry that may be replaced is replaced in its place. -/
theorem replaceIn_first {before behind : List TxFrame} {f : TxFrame}
    (h : ∀ g ∈ before, replaceable new.kind g.kind = false) (hf : replaceable new.kind f.kind = true) :
    replaceIn new (before ++ f :: behind) = some (before ++ new.inPlaceOf f :: behind) := by
  induction before with
  | nil => rw [List.nil_append, replaceIn, if_pos hf]; rfl
  | cons g before ih =>
    rw [List.cons_append, replaceIn, if_neg (by simp [h g]), ih fun x hx => h x (by simp [hx])]
    rfl

/-- How many entries at the head of the urgent queue are in transmission. -/
def sentCount (inTx : Bool) : Nat := if inTx then 1 else 0

/-- The candidates are the entries behind the one in transmission (R76). -/
theorem replaceInQueue_eq (inTx : Bool) (l : List TxFrame) : replaceInQueue inTx new l =
    (replaceIn new (l.drop (sentCount inTx))).map (l.take (sentCount inTx) ++ ·) := by
  cases l with
  | nil => cases inTx <;> rfl
  | cons f l =>
    cases inTx with
    | true => rfl
    | false => exact Option.map_id'.symm

end

theorem State.handUrgent_room {s : State} (ha : s.line.state = .active) (hl : s.line.queue.length < 4)
    (kind : FrameKind) (payload : List Byte) : s.handUrgent kind payload =
      { s with line := { s.line with queue := s.line.queue ++ [newFrame kind payload] } } :=
  (if_neg (by simp [ha])).trans (if_pos hl)

section
variable {s : State} (ha : s.line.state = .active) (hl : 4 ≤ s.line.queue.length) {kind : FrameKind}
  {payload : List Byte}
include ha hl

/-- A full queue takes the entry in the place that `replaceInQueue` gives, and counts. -/
theorem State.handUrgent_placed {q : List TxFrame}
    (h : replaceInQueue (s.line.tx.carries .urgent) (newFrame kind payload) s.line.queue = some q) :
    s.handUrgent kind payload = State.bump { s with line := { s.line with queue := q } } .urgentOverflow := by
  unfold State.handUrgent
  rw [if_neg (by simp [ha]), if_neg (by omega), h]

theorem State.handUrgent_replaces {before behind : List TxFrame} {f : TxFrame}
    (hq : s.line.queue = before ++ f :: behind) (hs : sentCount (s.line.tx.carries .urgent) ≤ before.length)
    (hf : replaceable kind f.kind = true)
    (hb : ∀ g ∈ before.drop (sentCount (s.line.tx.carries .urgent)), replaceable kind g.kind = false) :
    s.handUrgent kind payload = State.bump { s with line := { s.line with
      queue := before ++ (newFrame kind payload).inPlaceOf f :: behind } } .urgentOverflow := by
  have hr := replaceIn_first (new := newFrame kind payload) (behind := behind) hb hf
  refine State.handUrgent_placed ha hl ?_
  rw [replaceInQueue_eq, hq, List.drop_append_of_le_length hs, hr, List.take_append_of_le_length hs, Option.map_some,
    ← List.append_assoc, List.take_append_drop]

theorem State.handUrgent_lost
    (hb : ∀ g ∈ s.line.queue.drop (sentCount (s.line.tx.carries .urgent)), replaceable kind g.kind = false) :
    s.handUrgent kind payload = s.bump .urgentOverflow := by
  unfold State.handUrgent
  rw [if_neg (by simp [ha]), if_neg (by omega), replaceInQueue_eq, replaceIn_none hb]
  rfl

end

/-- R76 by kind. -/
theorem replaceable_iff {new : FrameKind} (h : new ≠ .statement) (old : FrameKind) : replaceable new old = true ↔
    if new = .emergencyNotice then old ≠ .emergencyNotice else old = .slideNotice := by
  cases new with
  | statement => exact absurd rfl h
  | slideNotice => simp [replaceable]
  | emergencyNotice => simp [replaceable]
  | incidentMark => simp [replaceable]

/-- Settles O31: outside ACTIVE (`State.handUrgent_inactive`), with room (`State.handUrgent_room`), in an older entry's
place (`State.handUrgent_replaces`), and with none to replace (`State.handUrgent_lost`). -/
theorem urgentEntryJoinsReplacesOrIsLost : Obligations.UrgentEntryJoinsReplacesOrIsLost := by
  intro kind payload s hk
  have hno (g : FrameKind) (h : ¬if kind = .emergencyNotice then g ≠ .emergencyNotice else g = .slideNotice) :
      replaceable kind g = false := by
    rw [← Bool.not_eq_true, replaceable_iff hk]
    exact h
  refine ⟨fun ha => State.handUrgent_inactive ha _ _, fun ha hl => State.handUrgent_room ha hl _ _,
    fun ha hl => ⟨fun before f behind hq hs hf hb => ?_, fun hb => ?_⟩⟩
  · exact State.handUrgent_replaces ha hl hq hs ((replaceable_iff hk _).mpr hf) fun g hg => hno _ (hb g hg)
  · exact State.handUrgent_lost ha hl fun g hg => hno _ (hb g hg)

/-! ### The start of an attempt (R60, R71) -/

/-- The transmitter and the line stand ready for an attempt (R71). -/
structure State.MayAttempt (s : State) : Prop where
  tx : s.line.tx = .idle
  state : s.line.state = .active ∨ s.line.state = .isolated
  gap : ∀ e, s.line.lastActivityEnd = some e → e + 192 ≤ s.clock

theorem State.MayAttempt.attemptClass {s : State} (h : s.MayAttempt) {f : TxFrame}
    (hf : s.line.head s.line.nextClass = some f) :
    s.attemptClass = if f.wait = none then some s.line.nextClass else none := by
  have hg : s.gapPassed = true := by
    unfold State.gapPassed
    split
    · rfl
    · rename_i t ht
      exact decide_eq_true (h.gap t ht)
  unfold State.attemptClass
  rw [if_pos ⟨h.tx, h.state, hg⟩, hf]

/-- Nothing starts while the head of the class that R71 chooses waits. -/
theorem State.MayAttempt.waits {s : State} (h : s.MayAttempt) {f : TxFrame}
    (hf : s.line.head s.line.nextClass = some f) (hw : f.wait ≠ none) : s.tryAttempt = s := by
  have hc : s.attemptClass = none := by
    rw [h.attemptClass hf, if_neg hw]
  unfold State.tryAttempt
  rw [hc]

/-- The attempt of the head of that class. -/
theorem State.MayAttempt.starts {s : State} (h : s.MayAttempt) {f : TxFrame}
    (hf : s.line.head s.line.nextClass = some f) (hw : f.wait = none) :
    s.tryAttempt = { s with line := { s.line.setHead s.line.nextClass (s.line.numbered f) with
      tx := .sending s.line.nextClass s.clock
      nextSeq := if f.seq = none then s.line.nextSeq + 1 else s.line.nextSeq
      frameOut := s.ownFrame (s.line.numbered f) } } := by
  have hc : s.attemptClass = some s.line.nextClass := by
    rw [h.attemptClass hf, if_pos hw]
  unfold State.tryAttempt
  rw [hc]
  dsimp only
  unfold State.startAttempt
  rw [hf]
  cases hs : f.seq <;> simp [hs]

theorem Line.nextClass_urgent {l : Line} {f : TxFrame} {rest : List TxFrame} (h : l.queue = f :: rest) :
    l.nextClass = .urgent ∧ l.head .urgent = some f := by
  simp [Line.nextClass, Line.head, h]

theorem Line.nextClass_routine {l : Line} (h : l.queue = []) : l.nextClass = .routine := by
  simp [Line.nextClass, h]

/-- ATTEMPT_START of the running part. -/
theorem exec_attemptStart_running {s : State} (hr : s.runPhase = .running) (dt : Nat) :
    exec (.attemptStart dt) s = .next (s.advance dt).tryAttempt := by
  refine congrArg _ (State.event_same hr ?_)
  unfold State.tryAttempt State.startAttempt
  split
  · rfl
  · split <;> rfl

/-- Settles O32: the class by `Line.nextClass_urgent` and `Line.nextClass_routine`, then the attempt
(`State.MayAttempt.starts`) or the wait (`State.MayAttempt.waits`). -/
theorem attemptTakesUrgentHeadFirst : Obligations.AttemptTakesUrgentHeadFirst := by
  intro dt s hr htx hst hgap
  have h : (s.advance dt).MayAttempt := ⟨htx, hst, hgap⟩
  have hurgent {f rest} (hq : s.line.queue = f :: rest) := Line.nextClass_urgent (l := (s.advance dt).line) hq
  refine ⟨fun f rest hq hw => ?_, fun f rest hq hw => ?_, fun f hq hf hw => ?_⟩
  · obtain ⟨hc, hh⟩ := hurgent hq
    rw [exec_attemptStart_running hr, h.waits (hc ▸ hh) hw]
  · obtain ⟨hc, hh⟩ := hurgent hq
    rw [exec_attemptStart_running hr, h.starts (hc ▸ hh) hw, hc]
    simp only [Line.setHead, State.advance_line, hq, List.tail_cons]
    rfl
  · have hc := Line.nextClass_routine (l := (s.advance dt).line) hq
    rw [exec_attemptStart_running hr, h.starts (f := f) (by rw [hc]; exact hf) hw, hc]
    rfl

end Sys2Proof.Machine
end

section
/-! SUPPORT. Collisions, jams and waits (R68, R69, R72, R73), and the end of an attempt (R74). -/

namespace Sys2Proof.Machine

/-! ### An abandonment (R68, R69) -/

theorem State.bump_clock (s : State) (i : CounterId) : (s.bump i).clock = s.clock := (s.bump_delivers i).clock

theorem State.recordChannels_line (b s : State) : (State.recordChannels b s).line = s.line := by
  obtain ⟨r, hframe, -⟩ := State.recordChannels_frame b s
  rw [hframe]

theorem State.recordChannels_counters (b s : State) : (State.recordChannels b s).counters = s.counters := by
  obtain ⟨r, hframe, -⟩ := State.recordChannels_frame b s
  rw [hframe]

section
variable {s : State} (kind : FrameKind) (why : Abandon)

/-- A first and a second abandonment in ACTIVE count. -/
theorem State.abandoned_counted (ha : s.line.state = .active) (ht : s.line.trouble < 2) :
    s.abandoned kind why = { s with line := { s.line with trouble := s.line.trouble + 1 } } := by
  have hm : min 3 (s.line.trouble + 1) = s.line.trouble + 1 := by omega
  unfold State.abandoned
  rw [if_neg (by simp [ha]), if_pos ha]
  dsimp only
  rw [if_neg (by omega), hm]

/-- The third takes the line to ISOLATED with both classes emptied and the hold timer started. -/
theorem State.abandoned_line_isolates (ha : s.line.state = .active) (ht : 2 ≤ s.line.trouble) :
    (s.abandoned kind why).line = { s.line.emptied with
      state := .isolated, trouble := 3, hold := 2000, holdDue := some (s.clock + 2000000) } := by
  have hm : min 3 (s.line.trouble + 1) = 3 := by omega
  unfold State.abandoned
  rw [if_neg (by simp [ha]), if_pos ha]
  dsimp only
  rw [if_pos (by omega), hm]
  refine ((State.deliver_delivers _ _).line_quiet ?_ ?_).trans ?_
  all_goals simp [State.emptyClasses_line, Line.emptied]

/-- In ISOLATED the hold doubles. -/
theorem State.abandoned_held (hi : s.line.state = .isolated) : s.abandoned kind why = { s with line := { s.line with
    hold := min 16000 (2 * s.line.hold), holdDue := some (s.clock + min 16000 (2 * s.line.hold) * 1000) } } := if_pos hi

/-- In every line state the transmitter and the end of the last activity stay. -/
theorem State.abandoned_tx : (s.abandoned kind why).line.tx = s.line.tx ∧
    (s.abandoned kind why).line.lastActivityEnd = s.line.lastActivityEnd := by
  by_cases hi : s.line.state = .isolated
  · rw [State.abandoned_held kind why hi]
    exact ⟨rfl, rfl⟩
  · by_cases ha : s.line.state = .active
    · by_cases ht : s.line.trouble < 2
      · rw [State.abandoned_counted kind why ha ht]
        exact ⟨rfl, rfl⟩
      · rw [State.abandoned_line_isolates kind why ha (by omega)]
        exact ⟨rfl, rfl⟩
    · have hs : s.abandoned kind why = s := (if_neg hi).trans (if_neg ha)
      rw [hs]
      exact ⟨rfl, rfl⟩

theorem State.abandoned_get {i : CounterId} (hi : i ∉ triggerCounters) :
    (s.abandoned kind why).counters.get i = s.counters.get i := by
  have hd : i ≠ .urgentDiscarded := fun h => hi (h ▸ by decide)
  unfold State.abandoned
  split
  · rfl
  · split
    · dsimp only
      split
      · refine (State.raise_get hi _ _).trans ((State.emptyClasses_get _ hd).trans ?_)
        rw [State.setLine_counters]
      · rfl
    · rfl

end

/-! ### A collision in the window (R72) -/

section
variable {s : State} {c : TxClass} {f : TxFrame} (hf : s.line.head c = some f)
include hf

/-- Before the tenth collision the frame stays at the head of its class. -/
theorem State.collide_jams (hk : f.k + 1 < 10) : s.collide c = State.bump { s with line :=
    { s.line.setHead c { f with k := f.k + 1 } with tx := .jamming (some c) (s.clock + 128) } } .collisions := by
  unfold State.collide
  rw [hf]
  dsimp only
  rw [if_pos hk, State.bump_withLine, State.bump_line]

/-- The tenth abandons it. -/
theorem State.collide_abandons (hk : 10 ≤ f.k + 1) : s.collide c = State.abandoned
    { (s.bump .collisions).bump .excessiveCollisions with
      line := { s.line.leave c with tx := .jamming none (s.clock + 128) } } f.kind .excessive := by
  unfold State.collide
  rw [hf]
  dsimp only
  rw [if_neg (by omega), State.bump_line, State.bump_line]

theorem State.lateCollide_abandons : s.lateCollide c = State.abandoned
    { s.bump .lateCollisions with
      line := { s.line.leave c with tx := .idle, lastActivityEnd := some s.clock } } f.kind .late := by
  unfold State.lateCollide
  rw [hf]
  dsimp only
  rw [State.bump_line]

end

/-- The counters of a tenth collision: each once, and nothing of the abandonment is among them. -/
theorem State.collide_get {s : State} {c : TxClass} {f : TxFrame} (hf : s.line.head c = some f) (hk : 10 ≤ f.k + 1) :
    (s.collide c).counters.collisions = countedOnce s.counters.collisions ∧
    (s.collide c).counters.excessiveCollisions = countedOnce s.counters.excessiveCollisions := by
  rw [State.collide_abandons hf hk]
  constructor
  · have h : ((s.bump .collisions).bump .excessiveCollisions).counters.get .collisions =
        countedOnce (s.counters.get .collisions) :=
      (State.bump_get_other _ (by decide)).trans (s.bump_get_self .collisions)
    exact (State.abandoned_get _ _ (i := .collisions) (by decide)).trans h
  · have h : ((s.bump .collisions).bump .excessiveCollisions).counters.get .excessiveCollisions =
        countedOnce (s.counters.get .excessiveCollisions) :=
      (State.bump_get_self _ _).trans (congrArg countedOnce (s.bump_get_other (by decide)))
    exact (State.abandoned_get _ _ (i := .excessiveCollisions) (by decide)).trans h

theorem State.lateCollide_get {s : State} {c : TxClass} {f : TxFrame} (hf : s.line.head c = some f) :
    (s.lateCollide c).counters.lateCollisions = countedOnce s.counters.lateCollisions := by
  rw [State.lateCollide_abandons hf]
  exact (State.abandoned_get _ _ (i := .lateCollisions) (by decide)).trans (s.bump_get_self .lateCollisions)

/-! ### The end of a jam and of a wait (R72, R73) -/

/-- The wait drawn from the advanced register for a frame's attempts, in slot times of 256 µs (R73). -/
def drawnWait (reg : BitVec 16) (k : Nat) (c : TxClass) (clock : Nat) : Option Nat :=
  if backoffDraw reg k c = 0 then none else some (clock + backoffDraw reg k c * 256)

/-- The line after a jam's end: the register advanced, and the frame with the wait drawn from it. -/
def Line.drawn (l : Line) (c : TxClass) (f : TxFrame) (clock : Nat) : Line :=
  { l.setHead c { f with wait := drawnWait (backoffStep l.backoff) f.k c clock } with
    tx := .idle, lastActivityEnd := some clock, backoff := backoffStep l.backoff }

section
variable {s : State} {f : TxFrame}

/-- The frame drawn keeps its place, unless a next statement waits for it. -/
theorem State.jamEnds_draws {c : TxClass} (hf : s.line.head c = some f)
    (h : c = .urgent ∨ s.line.nextStatement = none) :
    s.jamEnds (some c) = { s with line := s.line.drawn c f s.clock } := by
  unfold State.jamEnds
  dsimp only
  rw [hf]
  cases c with
  | urgent => rfl
  | routine =>
    have hn : s.line.nextStatement = none := h.resolve_left (by simp)
    simp only [Line.setHead, Line.drawn, hn]
    rfl

/-- A next statement takes the place of the collided one, with its number, attempts and wait (R77). -/
theorem State.jamEnds_supersedes {n : TxFrame} (hf : s.line.slot = some f) (hn : s.line.nextStatement = some n) :
    s.jamEnds (some .routine) = State.bump { s with line := { s.line.drawn .routine f s.clock with
      slot := some { n with
        seq := f.seq, k := f.k, wait := drawnWait (backoffStep s.line.backoff) f.k .routine s.clock }
      nextStatement := none } } .superseded := by
  unfold State.jamEnds
  dsimp only [Line.head]
  rw [hf]
  simp only [Line.setHead, Line.drawn, hn]
  rfl

end

theorem exec_jamEnd_running {s : State} {dt stop : Nat} {c : Option TxClass} (hr : s.runPhase = .running)
    (htx : s.line.tx = .jamming c stop) (h : stop ≤ s.clock + dt)
    (hs : ((s.advance dt).jamEnds c).recorder.states = s.recorder.states) :
    exec (.jamEnd dt) s = .next ((s.advance dt).jamEnds c) := by
  have hw : (s.advance dt).jamEvent = (s.advance dt).jamEnds c := by
    unfold State.jamEvent
    rw [State.advance_line, htx]
    exact if_pos h
  rw [← hw] at hs ⊢
  exact congrArg _ (State.event_same hr hs)

theorem exec_backoffWaitEnd_running {s : State} {dt wait : Nat} {c : TxClass} {f : TxFrame} (hr : s.runPhase = .running)
    (hf : s.line.head c = some f) (hw : f.wait = some wait) (h : wait ≤ s.clock + dt) :
    exec (.backoffWaitEnd dt c) s = .next
      { s.advance dt with line := s.line.setHead c { f with wait := none } } := by
  have hd : (s.advance dt).timerDue f.wait = true := by
    rw [hw]
    exact decide_eq_true h
  have he : (s.advance dt).waitEnds c = { s.advance dt with line := s.line.setHead c { f with wait := none } } := by
    unfold State.waitEnds
    rw [State.advance_line, hf]
    exact if_pos hd
  rw [← he]
  exact congrArg _ (State.event_same hr (by rw [he]; rfl))

/-- Settles O33: a collision (`State.collide_jams`, `State.collide_abandons`), the end of its jam
(`State.jamEnds_draws`, `State.jamEnds_supersedes`) and the end of the wait (`exec_backoffWaitEnd_running`). -/
theorem collisionsJamAndWait : Obligations.CollisionsJamAndWait := by
  refine ⟨fun dt start c f s hr htx hw hf => ⟨fun hk => ?_, fun hk => ?_⟩, fun dt stop c f s hr htx hw hf => ?_,
    fun dt stop s hr htx hw => ?_, fun dt wait c f s hr hf hw h => exec_backoffWaitEnd_running hr hf hw h⟩
  · have hc := State.collide_jams (s := s.advance dt) hf hk
    have hs : ((s.advance dt).collide c).recorder.states = (s.advance dt).recorder.states := by
      rw [hc, State.bump_states]
    rw [exec_collision_running hr htx hw, State.recordChannels_same _ _ hs, hc]
    rfl
  · refine ⟨_, exec_collision_running hr htx hw, ?_⟩
    have hc := State.collide_abandons (s := s.advance dt) hf hk
    have hg := State.collide_get (s := s.advance dt) hf hk
    have hsame := (State.recordChannels_delivers (s.advance dt) ((s.advance dt).collide c)).talks
    have hb := ((s.advance dt).collide_talks c).trans hsame
    simp only [State.recordChannels_line, State.recordChannels_counters]
    refine ⟨hg.1, hg.2, ?_, hb.sameButMessages, fun ha ht => ?_, fun ha ht => ?_, fun hi => ?_⟩
    · rw [hc]
      exact (State.abandoned_tx _ _).1
    · rw [hc, State.abandoned_counted _ _ ((Line.leave_state _ c).trans ha) (by rw [Line.leave_trouble]; exact ht)]
      simp [Line.leave_trouble]
    · rw [hc, State.abandoned_line_isolates _ _ ((Line.leave_state _ c).trans ha) (by rw [Line.leave_trouble]; exact ht)]
      simp [Line.emptied, State.bump_clock]
    · rw [hc, State.abandoned_held _ _ ((Line.leave_state _ c).trans hi)]
      have hh : (s.line.leave c).hold = s.line.hold := by cases c <;> rfl
      have hl : (s.line.leave c).state = .isolated := (Line.leave_state _ c).trans hi
      simp [State.bump_clock, hh, hl]
  · intro b reg r f' ended
    refine ⟨fun h => ?_, fun n hc hn => ?_⟩
    · have hj := State.jamEnds_draws (s := s.advance dt) hf h
      rw [exec_jamEnd_running hr htx hw (by rw [hj]; rfl), hj]
      cases c <;> rfl
    · subst hc
      have hj := State.jamEnds_supersedes (s := s.advance dt) hf hn
      rw [exec_jamEnd_running hr htx hw (by rw [hj, State.bump_states]; rfl), hj]
      rfl
  · exact exec_jamEnd_running hr htx hw rfl

/-! ### A clean attempt and a late collision (R74) -/

/-- The line once the frame at the head of a class has been sent, in the class's state before. -/
def Line.sent (l : Line) (c : TxClass) (f : TxFrame) (clock : Nat) (now : Time) : Line :=
  { l.leave c with
    tx := .idle, lastActivityEnd := some clock, trouble := 0
    lastSentEnd := if f.kind = .statement then some now else l.lastSentEnd }

section
variable {s : State} {c : TxClass} {f : TxFrame} (hf : s.line.head c = some f)
include hf

/-- The state in which a frame has been sent and copied, before a probe's return to ACTIVE. -/
theorem State.sendDone_mirrors : ∃ x : State,
    x.line = s.line.sent c f s.clock s.now ∧ x.clock = s.clock ∧
      x.counters.get .framesSent = countedOnce (s.counters.get .framesSent) ∧
      s.sendDone c = if s.line.state = .isolated then x.probeSent else x := by
  unfold State.sendDone
  rw [hf]
  refine ⟨_, ?_, ?_, ?_, rfl⟩
  · have hl : (s.line.leave c).lastSentEnd = s.line.lastSentEnd := by cases c <;> rfl
    simp only [State.mirror_line, State.bump_line, hl, Line.sent]
  · simp [State.bump_clock]
  · simpa using s.bump_get_self .framesSent

theorem State.sendDone_get : (s.sendDone c).counters.framesSent = countedOnce s.counters.framesSent := by
  obtain ⟨x, -, -, hn, hx⟩ := State.sendDone_mirrors hf
  rw [hx]
  split
  · exact (congrArg (Counters.get · .framesSent) (x.setLine_counters .active .probeSent)).trans hn
  · exact hn

/-- A probe returns the line to ACTIVE. -/
theorem State.sendDone_line_probe (hi : s.line.state = .isolated) : (s.sendDone c).line =
    { s.line.sent c f s.clock s.now with
      state := .active, activeSince := some s.now, hold := 2000, holdDue := none
      statementDue := s.line.lastQueuedAt.map (· + 100000), queuedInActive := false } := by
  obtain ⟨x, hl, hc, -, hx⟩ := State.sendDone_mirrors hf
  have hq : (s.line.sent c f s.clock s.now).lastQueuedAt = s.line.lastQueuedAt := by cases c <;> rfl
  have hnow : x.now = s.now := congrArg reading hc
  rw [hx, if_pos hi]
  simp only [State.probeSent, State.setLine_line, hl, hq, hnow]

theorem State.sendDone_line (hi : s.line.state ≠ .isolated) :
    (s.sendDone c).line = s.line.sent c f s.clock s.now := by
  obtain ⟨x, hl, -, -, hx⟩ := State.sendDone_mirrors hf
  rw [hx, if_neg hi, hl]

end

/-- FRAME_SENT at the end of the frame's time. -/
theorem exec_frameSent_running {s : State} {dt start : Nat} {c : TxClass} {f : TxFrame} (hr : s.runPhase = .running)
    (htx : s.line.tx = .sending c start) (hf : s.line.head c = some f)
    (h : start + (f.payload.length + 8) * 32 ≤ s.clock + dt) : exec (.frameSent dt) s =
      .next (State.recordChannels (s.advance dt) ((s.advance dt).sendDone c)) := by
  have he : (s.advance dt).attemptEnd c start ≤ s.clock + dt := by
    rw [State.attemptEnd, State.advance_line, hf]
    exact h
  have hw : (s.advance dt).sentEvent = (s.advance dt).sendDone c := by
    unfold State.sentEvent
    rw [State.advance_line, htx]
    exact if_pos he
  rw [← hw]
  exact congrArg _ (State.event_running hr)

/-- Settles O34: the clean attempt (`State.sendDone_line`, `State.sendDone_line_probe`) and the late collision, an
abandonment without a jam (`State.lateCollide_abandons`). -/
theorem attemptEndsSentOrLate : Obligations.AttemptEndsSentOrLate := by
  intro dt start c f s hr htx hf
  refine ⟨fun h => ⟨_, exec_frameSent_running hr htx hf h, ?_⟩, fun h => ⟨_, exec_lateCollision_running hr htx h, ?_⟩⟩
  · have hb := ((s.advance dt).sendDone_talks c).trans
      (State.recordChannels_delivers (s.advance dt) ((s.advance dt).sendDone c)).talks
    have hplain := State.sendDone_line (s := s.advance dt) hf
    have hprobe := State.sendDone_line_probe (s := s.advance dt) hf
    have hg := State.sendDone_get (s := s.advance dt) hf
    simp only [State.recordChannels_line, State.recordChannels_counters]
    by_cases hi : s.line.state = .isolated
    · rw [hprobe hi]
      exact ⟨hg, rfl, rfl, rfl, hb.sameButMessages, rfl, rfl, rfl, rfl, fun hn => absurd hi hn,
        fun _ => ⟨rfl, rfl, rfl, rfl⟩⟩
    · have hd : (s.line.leave c).statementDue = s.line.statementDue := by cases c <;> rfl
      rw [hplain hi]
      exact ⟨hg, rfl, rfl, rfl, hb.sameButMessages, rfl, rfl, rfl, rfl, fun _ => ⟨Line.leave_state _ c, hd⟩,
        fun hn => absurd hn hi⟩
  · have hb := ((s.advance dt).lateCollide_talks c).trans
      (State.recordChannels_delivers (s.advance dt) ((s.advance dt).lateCollide c)).talks
    have hc := State.lateCollide_abandons (s := s.advance dt) hf
    have hg := State.lateCollide_get (s := s.advance dt) hf
    simp only [State.recordChannels_line, State.recordChannels_counters]
    refine ⟨hg, ?_, ?_, hb.sameButMessages, fun ha ht => ?_, fun ha ht => ?_⟩
    · rw [hc]
      exact (State.abandoned_tx _ _).1
    · rw [hc]
      exact (State.abandoned_tx _ _).2
    · rw [hc, State.abandoned_counted _ _ ((Line.leave_state _ c).trans ha) (by rw [Line.leave_trouble]; exact ht)]
      simp [Line.leave_trouble]
    · rw [hc, State.abandoned_line_isolates _ _ ((Line.leave_state _ c).trans ha) (by rw [Line.leave_trouble]; exact ht)]

end Sys2Proof.Machine
end

section
/-! SUPPORT. Statements built, queued and placed (R67, R69, R77, R78, R107). -/

namespace Sys2Proof.Machine

/-! ### The routine slot (R77) -/

/-- A statement entered in the routine slot: into an empty slot, behind a statement in transmission, or else in the
place of the one that waits (R77). -/
def Line.entered (l : Line) (f : TxFrame) : Line :=
  match l.slot with
  | none => { l with slot := some f }
  | some old =>
    if l.tx.carries .routine then { l with nextStatement := some f } else { l with slot := some (f.inPlaceOf old) }

/-- Whether the statement entered takes the place of one never sent, which counts (R77). -/
def Line.supersedes (l : Line) : Bool := l.slot.isSome && (l.nextStatement.isSome || !l.tx.carries .routine)

/-- One count where a condition holds. -/
def State.bumpIf (s : State) (b : Bool) (i : CounterId) : State := if b then s.bump i else s

section
variable (s : State) (b : Bool) (i : CounterId)

theorem State.bumpIf_line : (s.bumpIf b i).line = s.line := by
  cases b
  · rfl
  · exact s.bump_line i

theorem State.bumpIf_withLine (l : Line) : { s.bumpIf b i with line := l } = State.bumpIf { s with line := l } b i := by
  cases b
  · rfl
  · exact s.bump_withLine i l

theorem State.bumpIf_states : (s.bumpIf b i).recorder.states = s.recorder.states := by
  cases b
  · rfl
  · exact s.bump_states i

theorem State.bumpIf_get_self :
    (s.bumpIf b i).counters.get i = if b then countedOnce (s.counters.get i) else s.counters.get i := by
  cases b
  · rfl
  · exact s.bump_get_self i

theorem State.bumpIf_frame : { s.bumpIf b i with counters := s.counters, recorder := s.recorder } = s := by
  cases b
  · rfl
  · obtain ⟨c, r, hb, -⟩ := s.bump_frame i
    show { s.bump i with counters := s.counters, recorder := s.recorder } = s
    rw [hb]

end

section
variable {l : Line} (f : TxFrame)

theorem Line.entered_empty (h : l.slot = none) : l.entered f = { l with slot := some f } ∧ l.supersedes = false := by
  simp [Line.entered, Line.supersedes, h]

theorem Line.entered_waiting {old : TxFrame} (h : l.slot = some old) (hc : l.tx.carries .routine = false) :
    l.entered f = { l with slot := some (f.inPlaceOf old) } ∧ l.supersedes = true := by
  simp [Line.entered, Line.supersedes, h, hc]

theorem Line.entered_behind {old : TxFrame} (h : l.slot = some old) (hc : l.tx.carries .routine = true) :
    l.entered f = { l with nextStatement := some f } ∧ l.supersedes = l.nextStatement.isSome := by
  simp [Line.entered, Line.supersedes, h, hc]

/-- The statement changes the slot and the next statement alone. -/
theorem Line.entered_frame :
    l.entered f = { l with slot := (l.entered f).slot, nextStatement := (l.entered f).nextStatement } := by
  unfold Line.entered
  split
  · rfl
  · split <;> rfl

end

theorem State.enterRoutine_eq (s : State) (f : TxFrame) :
    s.enterRoutine f = State.bumpIf { s with line := s.line.entered f } s.line.supersedes .superseded := by
  unfold State.enterRoutine
  split
  · rename_i hs
    obtain ⟨he, hn⟩ := Line.entered_empty f hs
    rw [he, hn]
    rfl
  · rename_i old hs
    split
    · rename_i hc
      obtain ⟨he, hn⟩ := Line.entered_behind f hs hc
      rw [he, hn]
      rfl
    · rename_i hc
      obtain ⟨he, hn⟩ := Line.entered_waiting f hs (Bool.eq_false_iff.mpr hc)
      rw [he, hn]
      rfl

/-- The statement of this moment as a frame (R107). -/
def State.freshStatement (s : State) : TxFrame := newFrame .statement (statementBytes s.buildStatement)

/-- The line once a statement is queued (R78). -/
def Line.queued (l : Line) (f : TxFrame) (v : Statement) (clock : Nat) : Line :=
  { l.entered f with
    due := false, statementDue := some (clock + 100000), lastQueued := some v, lastQueuedAt := some clock
    queuedInActive := true }

theorem State.queueStatement_eq (s : State) : s.queueStatement =
    State.bumpIf { s with line := s.line.queued s.freshStatement s.buildStatement s.clock } s.line.supersedes
      .superseded := by
  have h := State.bumpIf_withLine { s with line := s.line.entered s.freshStatement } s.line.supersedes .superseded
    (s.line.queued s.freshStatement s.buildStatement s.clock)
  rw [← h]
  unfold State.queueStatement
  dsimp only
  rw [State.enterRoutine_eq, State.bumpIf_line]
  rfl

theorem State.queueStatement_states (s : State) : s.queueStatement.recorder.states = s.recorder.states := by
  rw [State.queueStatement_eq, State.bumpIf_states]

/-- The statement timer itself is no input of the work at its expiry. -/
theorem State.queueStatement_timer (s : State) (d : Option Nat) :
    State.queueStatement { s with line := { s.line with statementDue := d } } = s.queueStatement := by
  have hq (f : TxFrame) (v : Statement) : Line.queued { s.line with statementDue := d } f v s.clock =
      s.line.queued f v s.clock := by
    unfold Line.queued Line.entered
    dsimp only
    split
    · rfl
    · split <;> rfl
  rw [State.queueStatement_eq, State.queueStatement_eq, ← hq]
  rfl

/-! ### The timers (R67, R69, R78) -/

theorem State.spaced_iff (s : State) : s.spaced = true ↔ s.BothIntervalsPassed := by
  unfold State.spaced State.BothIntervalsPassed
  cases s.line.lastQueuedAt <;> cases s.line.lastSentEnd <;> simp

theorem State.listenEnds_states (s : State) : s.listenEnds.recorder.states = s.recorder.states := by
  unfold State.listenEnds
  dsimp only
  rw [State.queueStatement_states]
  simp only [State.setLine, State.logEvent, Recorder.logEvent_states]

section
variable {s : State} {dt : Nat} (hr : s.runPhase = .running)
include hr

theorem exec_listenTimerExpiry_running {due : Nat} (hl : s.line.state = .listening) (hd : s.line.listenDue = some due)
    (h : due ≤ s.clock + dt) : exec (.listenTimerExpiry dt) s = .next (s.advance dt).listenEnds := by
  refine congrArg _ (State.eventIf_same hr ?_ (State.listenEnds_states _))
  simp [hl, hd, State.timerDue, h]

theorem exec_holdTimerExpiry_running {due : Nat} (hl : s.line.state = .isolated) (hd : s.line.holdDue = some due)
    (h : due ≤ s.clock + dt) : exec (.holdTimerExpiry dt) s = .next (s.advance dt).placeProbe := by
  refine congrArg _ (State.eventIf_same hr ?_ rfl)
  simp [hl, hd, State.timerDue, h]

section
variable (ha : s.line.state = .active)
include ha

/-- The statement timer within a spacing interval leaves the statement due. -/
theorem exec_statementTimerExpiry_early {due : Nat} (hd : s.line.statementDue = some due) (h : due ≤ s.clock + dt)
    (hb : ¬(s.advance dt).BothIntervalsPassed) : exec (.statementTimerExpiry dt) s =
      .next { s.advance dt with line := { s.line with statementDue := none, due := true } } := by
  have hs : (s.advance dt).spaced = false := by
    rw [← Bool.not_eq_true, State.spaced_iff]
    exact hb
  have hw : (s.advance dt).statementTimer =
      { s.advance dt with line := { s.line with statementDue := none, due := true } } :=
    (if_pos ha).trans (if_neg (Bool.eq_false_iff.mp hs))
  rw [← hw]
  refine congrArg _ (State.eventIf_same hr ?_ (by rw [hw]; rfl))
  simp [ha, hd, State.timerDue, h]

/-- After both it queues one. -/
theorem exec_statementTimerExpiry_spaced {due : Nat} (hd : s.line.statementDue = some due) (h : due ≤ s.clock + dt)
    (hb : (s.advance dt).BothIntervalsPassed) :
    exec (.statementTimerExpiry dt) s = .next (s.advance dt).queueStatement := by
  have hw : (s.advance dt).statementTimer = (s.advance dt).queueStatement :=
    ((if_pos ha).trans (if_pos ((State.spaced_iff _).mpr hb))).trans (State.queueStatement_timer _ _)
  rw [← hw]
  refine congrArg _ (State.eventIf_same hr ?_ (by rw [hw]; exact State.queueStatement_states _))
  simp [ha, hd, State.timerDue, h]

/-- A statement that stayed due is queued. -/
theorem exec_dueStatementQueued_spaced (hd : s.line.due = true) (hb : (s.advance dt).BothIntervalsPassed) :
    exec (.dueStatementQueued dt) s = .next (s.advance dt).queueStatement := by
  refine congrArg _ (State.eventIf_same hr ?_ (State.queueStatement_states _))
  simp [ha, hd, (State.spaced_iff _).mpr hb]

end
end

/-- At the end of LISTENING the line enters ACTIVE with a statement in the slot. -/
theorem State.listenEnds_eq {s : State} (hl : s.line.state = .listening) (hn : s.line.slot = none) : s.listenEnds =
    { s with
      line := { s.line with
        state := .active, activeSince := some s.now, listenDue := none, slot := some s.freshStatement, due := false
        statementDue := some (s.clock + 100000), lastQueued := some s.buildStatement, lastQueuedAt := some s.clock
        queuedInActive := true }
      recorder := s.recorder.logEvent s.now .line (be8 1 ++ be8 2 ++ be8 6) } := by
  unfold State.listenEnds
  dsimp only
  rw [State.queueStatement_eq]
  simp only [State.setLine, State.logEvent, Line.queued, Line.entered, Line.supersedes, hn, hl]
  rfl

/-- Settles O29: the timers' events (`exec_listenTimerExpiry_running` and its neighbours) do the work of
`State.listenEnds_eq`, `State.placeProbe` and `State.queueStatement_eq`, with the slot's cases of `Line.entered`. -/
theorem statementsAreBuiltQueuedAndPlaced : Obligations.StatementsAreBuiltQueuedAndPlaced := by
  intro dt s hr now v fresh
  refine ⟨fun due h hl hd hn => ?_, fun due h hl hd => exec_holdTimerExpiry_running hr hl hd h, fun ha => ?_⟩
  · rw [exec_listenTimerExpiry_running hr hl hd h, State.listenEnds_eq (s := s.advance dt) hl hn]
    rfl
  · refine ⟨fun ⟨d, hd, h⟩ hb => exec_statementTimerExpiry_early hr ha hd h hb, fun hb => ?_⟩
    have hf : (s.advance dt).freshStatement = fresh := rfl
    refine ⟨_, fun ⟨d, hd, h⟩ => exec_statementTimerExpiry_spaced hr ha hd h hb,
      fun hd => exec_dueStatementQueued_spaced hr ha hd hb, ?_⟩
    have hline : (s.advance dt).queueStatement.line = s.line.queued fresh v now := by
      rw [State.queueStatement_eq, State.bumpIf_line]
      rfl
    have hcount : (s.advance dt).queueStatement.counters.superseded =
        if s.line.supersedes then countedOnce s.counters.superseded else s.counters.superseded := by
      rw [State.queueStatement_eq]
      exact State.bumpIf_get_self _ _ .superseded
    refine ⟨?_, ?_, fun hn => ?_, fun old ho hc => ?_, fun old ho hc => ?_⟩
    · rw [hline, Line.queued, Line.entered_frame]
    · have hb := State.bumpIf_frame { s.advance dt with line := (s.advance dt).line.queued fresh v now }
        s.line.supersedes .superseded
      rw [State.queueStatement_eq]
      exact congrArg (fun x : State => { x with line := s.line }) hb
    · obtain ⟨he, hs⟩ := Line.entered_empty fresh hn
      refine ⟨?_, ?_, ?_⟩
      · rw [hline, Line.queued, he]
      · rw [hline, Line.queued, he]
      · rw [State.queueStatement_eq, State.advance_line, hs]
        rfl
    · obtain ⟨he, hs⟩ := Line.entered_waiting fresh ho hc
      rw [hcount, hs, hline, Line.queued, he]
      exact ⟨rfl, rfl, rfl⟩
    · obtain ⟨he, hs⟩ := Line.entered_behind fresh ho hc
      rw [hcount, hs, hline, Line.queued, he]
      exact ⟨ho, rfl, rfl⟩

end Sys2Proof.Machine
end

section
/-! SUPPORT. Fields that read back as they were written: frames (R60, R189, section 12.2) and records of the flash (R162,
R164, section 12.6). -/

namespace Sys2Proof.Machine

/-! ### Fields of bytes -/

section
variable (a b : Byte) (l : List Byte)

@[simp] theorem be16At_cons_zero : be16At (a :: b :: l) 0 = a.toNat * 256 + b.toNat := rfl
@[simp] theorem be16At_cons_succ (i : Nat) : be16At (a :: l) (i + 1) = be16At l i := rfl

end

theorem be8_eq (v : Nat) : be8 v = [BitVec.ofNat 8 v] := by
  simp [be8, beBytes]

theorem be16_eq (v : Nat) : be16 v = [BitVec.ofNat 8 (v / 256), BitVec.ofNat 8 v] := by
  simp [be16, beBytes]

theorem be32_eq (v : Nat) : be32 v =
    [BitVec.ofNat 8 (v / 16777216), BitVec.ofNat 8 (v / 65536), BitVec.ofNat 8 (v / 256), BitVec.ofNat 8 v] := by
  simp [be32, beBytes]

theorem ofNat8_toNat {v : Nat} (h : v < 256) : (BitVec.ofNat 8 v).toNat = v := by
  simp [h]

/-- The two bytes of a number below 65536 give it back. -/
theorem be16_value {v : Nat} (h : v < 65536) :
    (BitVec.ofNat 8 (v / 256)).toNat * 256 + (BitVec.ofNat 8 v).toNat = v := by
  simp only [BitVec.toNat_ofNat]
  omega

/-- A four-byte field at any offset, once its four bytes are there. -/
theorem be32At_eq {bs : List Byte} {i v : Nat} (h : (bs.drop i).take 4 = be32 v) (hv : v < 4294967296) :
    be32At bs i = v := by
  have hget (k : Nat) (hk : k < 4) : bs.getD (i + k) 0 = (be32 v).getD k 0 := by
    rw [← h]
    simp [List.getD_eq_getElem?_getD, hk]
  have h0 := hget 0 (by omega)
  have h1 := hget 1 (by omega)
  have h2 := hget 2 (by omega)
  have h3 := hget 3 (by omega)
  simp only [be32_eq, List.getD_cons_zero, List.getD_cons_succ, Nat.add_zero] at h0 h1 h2 h3
  simp only [be32At, be16At, byteAt, Nat.add_assoc, Nat.reduceAdd, h0, h1, h2, h3, BitVec.toNat_ofNat]
  omega

/-! ### A frame received (R60, R61) -/

theorem splitCheck_withCrc16 (bs : List Byte) : splitCheck (withCrc16 bs) = (bs, be16 (crc16 bs).toNat) := by
  have hl : (withCrc16 bs).length - 2 = bs.length := by simp [withCrc16, be16_eq]
  rw [splitCheck, hl]
  simp [withCrc16]

theorem crcGood_withCrc16 (bs : List Byte) : crcGood (withCrc16 bs) = true := by
  rw [crcGood, splitCheck_withCrc16]
  exact beq_self_eq_true _

theorem classify_good {bs : List Byte} {f : GoodFrame} (h : 11 ≤ bs.length) (hc : crcGood bs = true)
    (hf : parseFrame bs = some f) : classify bs 0 = .good f := by
  rw [classify_whole h, if_pos hc, hf]

section
variable {kind : FrameKind} {source group : Nat} {seq : BitVec 8} {payload : List Byte}
  (hp : payload.length = payloadLength kind) (h1 : 1 ≤ source) (h30 : source ≤ 30) (hg : group ≤ 7)
include hp h1 h30 hg

/-- A frame with its check word passes the form check, and its fields read back. -/
theorem parseFrame_withCrc16 : parseFrame (withCrc16 (frameBody kind source group seq payload)) =
    some { kind := kind, source := source, group := group, seq := seq, payload := payload
           body := frameBody kind source group seq payload
           check := be16 (crc16 (frameBody kind source group seq payload)).toNat } := by
  have hcode : frameOfCode (byteAt (withCrc16 (frameBody kind source group seq payload)) 0) = some kind := by
    cases kind <;> rfl
  have hb {n : Nat} (h : n < 256) : n % 256 = n := Nat.mod_eq_of_lt h
  have hlen : payloadLength kind < 256 := by cases kind <;> decide
  have hform : byteAt (withCrc16 (frameBody kind source group seq payload)) 1 = source ∧
      byteAt (withCrc16 (frameBody kind source group seq payload)) 2 = group ∧
      byteAt (withCrc16 (frameBody kind source group seq payload)) 4 = payloadLength kind ∧
      byteAt (withCrc16 (frameBody kind source group seq payload)) 5 = 0 ∧
      (withCrc16 (frameBody kind source group seq payload)).length = 6 + payloadLength kind + 2 := by
    simp [withCrc16, frameBody, be8_eq, be16_eq, byteAt, hp]
    omega
  obtain ⟨hs, hgr, hl, hz, hall⟩ := hform
  unfold parseFrame
  rw [hcode]
  dsimp only
  rw [hs, hgr, if_pos ⟨hl, hall, h1, h30, hg, hz⟩, splitCheck_withCrc16]
  rfl

theorem classify_withCrc16 : ∃ f, classify (withCrc16 (frameBody kind source group seq payload)) 0 = .good f ∧
    f.kind = kind ∧ f.source = source ∧ f.group = group ∧ f.seq = seq ∧ f.payload = payload := by
  have hl : 11 ≤ (withCrc16 (frameBody kind source group seq payload)).length := by
    have : 3 ≤ payloadLength kind := by cases kind <;> decide
    simp [withCrc16, frameBody, be8_eq, be16_eq, hp]
    omega
  exact ⟨_, classify_good hl (crcGood_withCrc16 _) (parseFrame_withCrc16 hp h1 h30 hg), rfl, rfl, rfl, rfl, rfl⟩

end

/-- A statement's fields read back from its payload (R189). -/
theorem parseStatement_statementBytes {v : Statement}
    (h : ∀ n ∈ [v.d, v.ce, v.fx, v.al, v.vref, v.ecmd, v.fcmd, v.u], n < 65536) :
    parseStatement (statementBytes v) = v := by
  simp only [List.mem_cons, List.not_mem_nil, or_false, forall_eq_or_imp, forall_eq] at h
  obtain ⟨hd, hce, hfx, hal, hvref, hecmd, hfcmd, hu⟩ := h
  simp only [parseStatement, statementBytes, be16_eq, List.cons_append, List.nil_append, be16At_cons_succ,
    be16At_cons_zero, List.getD_cons_succ, List.getD_cons_zero, be16_value hd, be16_value hce, be16_value hfx,
    be16_value hal, be16_value hvref, be16_value hecmd, be16_value hfcmd, be16_value hu]

/-! ### A record found by the scan (R162, R164) -/

theorem Memory.writeBytes_append {d : Byte} (xs ys : List Byte) (m : Memory) (a : Nat) :
    Memory.writeBytes d m a (xs ++ ys) = Memory.writeBytes d (Memory.writeBytes d m a xs) (a + xs.length) ys := by
  induction xs generalizing m a with
  | nil => rfl
  | cons x xs ih =>
    rw [List.cons_append, Memory.writeBytes, Memory.writeBytes, ih, List.length_cons, Nat.add_assoc,
      Nat.add_comm 1 xs.length]

/-- Two spans written one after the other read back apart. -/
theorem Memory.readBytes_spans {d : Byte} {m : Memory} (h : Memory.wf d m = true) (a : Nat) (xs ys : List Byte) :
    Memory.readBytes d (Memory.writeBytes d m a (xs ++ ys)) a xs.length = xs ∧
      Memory.readBytes d (Memory.writeBytes d m a (xs ++ ys)) (a + xs.length) ys.length = ys := by
  have hx : Memory.wf d (Memory.writeBytes d m a xs) = true := Memory.wf_writeBytes h
  rw [Memory.writeBytes_append]
  refine ⟨?_, Memory.readBytes_writeBytes hx⟩
  rw [Memory.readBytes_writeBytes_disjoint hx (.inl le_rfl), Memory.readBytes_writeBytes h]

theorem firstCause_lt (i : Incident) : firstCause i < 256 := by
  unfold firstCause
  cases i.causes.head? with
  | none => decide
  | some e =>
    show causeCode e.cause < 256
    cases e.cause <;> decide

/-- Bit 3 of a record's flags is RETAINED (section 12.6). -/
theorem retained_bit : ∀ truncated absent overflowed retained refused : Bool,
    (BitVec.ofNat 8 (truncated.toNat + 2 * absent.toNat + 4 * overflowed.toNat + 8 * retained.toNat +
      16 * refused.toNat)).getLsbD 3 = retained := by decide

section
variable (e : PendingEntry) (retained refused : Bool) (body : List Byte)

theorem recordHeader_length : (recordHeader e retained refused body).length = headerSize := rfl

/-- A record's header reads back field by field. -/
theorem recordHeader_fields (hn : e.incident.number < 4294967296) (hb : body.length < 4294967296) :
    be32At (recordHeader e retained refused body) 0 = e.incident.number ∧
    be32At (recordHeader e retained refused body) 12 = body.length ∧
    ((recordHeader e retained refused body).getD 16 0).getLsbD 3 = retained ∧
    byteAt (recordHeader e retained refused body) 17 = firstCause e.incident ∧
    be32At (recordHeader e retained refused body) 20 =
      (crc32 ((recordHeader e retained refused body).take 20 ++ body)).toNat := by
  have ht : (recordHeader e retained refused body).take 20 = recordHeaderFields e retained refused body.length := rfl
  have hflags : (recordHeader e retained refused body).getD 16 0 = BitVec.ofNat 8 (e.incident.truncated.toNat +
      2 * e.tracesAbsent.toNat + 4 * e.incident.overflowed.toNat + 8 * retained.toNat + 16 * refused.toNat) := by
    simp only [recordHeader, recordHeaderFields, be32_eq, be8_eq, List.cons_append, List.nil_append,
      List.getD_cons_succ, List.getD_cons_zero]
  have hcause : (recordHeader e retained refused body).getD 17 0 = BitVec.ofNat 8 (firstCause e.incident) := by
    simp only [recordHeader, recordHeaderFields, be32_eq, be8_eq, List.cons_append, List.nil_append,
      List.getD_cons_succ, List.getD_cons_zero]
  refine ⟨be32At_eq rfl hn, be32At_eq rfl hb, ?_, ?_, ?_⟩
  · rw [hflags, retained_bit]
  · rw [byteAt, hcause]
    exact ofNat8_toNat (firstCause_lt _)
  · rw [ht]
    exact be32At_eq rfl (BitVec.isLt _)

end

/-- A record written whole to a slot is found VALID by the scan. -/
theorem scanLine_written {flash : Memory} (h : Memory.wf 0xFF flash = true) (slot : Nat) (e : PendingEntry)
    (retained refused : Bool) {body : List Byte} (hs : 24 + body.length ≤ 65536)
    (hn : e.incident.number < 4294967296) :
    scanLine (Memory.writeBytes 0xFF flash (slotAddress slot) (recordHeader e retained refused body ++ body)) slot =
      .valid e.incident.number retained (firstCause e.incident) body.length := by
  obtain ⟨hhead, hbody⟩ := Memory.readBytes_spans h (slotAddress slot) (recordHeader e retained refused body) body
  rw [recordHeader_length] at hhead hbody
  obtain ⟨hnum, hsize, hret, hcause, hcrc⟩ := recordHeader_fields e retained refused body hn (by omega)
  unfold scanLine
  dsimp only
  rw [hhead, hsize, if_pos (by exact hs), hbody, if_pos hcrc, hnum, hret, hcause]

/-- Settles O60: a statement's frame reads back by `classify_withCrc16` and `parseStatement_statementBytes`, a record by
`scanLine_written`. -/
theorem framesAndRecordsReadBack : Obligations.FramesAndRecordsReadBack := by
  refine ⟨fun source group seq v h1 h30 hg hv => ?_,
    fun flash slot e retained refused body hwf hs hn => scanLine_written hwf slot e retained refused hs hn⟩
  obtain ⟨f, hf, hk, hsrc, hgr, hseq, hp⟩ :=
    classify_withCrc16 (kind := .statement) (seq := seq) (payload := statementBytes v) rfl h1 h30 hg
  exact ⟨f, hf, hk, hsrc, hgr, hseq, hp ▸ parseStatement_statementBytes hv⟩

end Sys2Proof.Machine
end

section
/-! SUPPORT. What a record offered to some channels leaves of the others (R130, R135 to R140): a channel with the bytes of
its blocks, said once as `Recorder.Leaves`. A record must fit a block for that; the relations carry this as the
proposition `fits`. -/

namespace Sys2Proof.Machine

/-! ### One record written -/

section
variable {ch : Channel} {c : Nat} {r : TraceRecord} {key : Bool} {bytes : List Byte} {m m' : Memory}

theorem Channel.header_length : (ch.header c).length = 16 := rfl

/-- What becomes of the channel does not depend on the memory. -/
theorem Channel.put_channel (m m' : Memory) : (ch.put c r key bytes m).1 = (ch.put c r key bytes m').1 := by
  unfold Channel.put
  split <;> rfl

theorem Channel.put_kind : (ch.put c r key bytes m).1.kind = ch.kind := by
  unfold Channel.put
  split <;> rfl

/-- Bytes outside the current block stand. -/
theorem Channel.put_outside (hm : Memory.wf 0 m = true) (hl : ch.used + bytes.length ≤ 496) {x : Nat}
    (hx : ∀ b, ch.current = some b → x < 512 * b ∨ 512 * b + 512 ≤ x) :
    Memory.read 0 (ch.put c r key bytes m).2 x = Memory.read 0 m x := by
  unfold Channel.put
  split
  · rfl
  · rename_i b hb
    have hout := hx b hb
    dsimp only
    rw [Memory.read_writeBytes (Memory.wf_writeBytes hm), Memory.read_writeBytes hm, Channel.header_length,
      if_neg (by unfold blockAddress; omega), if_neg (by unfold blockAddress; omega)]

/-- Where two memories agree they agree after the same bytes are put in. -/
theorem Channel.put_read_congr (hm : Memory.wf 0 m = true) (hm' : Memory.wf 0 m' = true) {x : Nat}
    (hx : Memory.read 0 m x = Memory.read 0 m' x) :
    Memory.read 0 (ch.put c r key bytes m).2 x = Memory.read 0 (ch.put c r key bytes m').2 x := by
  unfold Channel.put
  split
  · exact hx
  · dsimp only
    rw [Memory.read_writeBytes (Memory.wf_writeBytes hm), Memory.read_writeBytes hm,
      Memory.read_writeBytes (Memory.wf_writeBytes hm'), Memory.read_writeBytes hm', hx]

theorem Channel.openBlock_kind (t : Time) : (ch.openBlock t).kind = ch.kind := by
  unfold Channel.openBlock
  split <;> rfl

/-- A new current block is one of the holding's, and nothing stands in it. -/
theorem Channel.openBlock_current (t : Time) {b : Nat} (h : (ch.openBlock t).current = some b) :
    b ∈ ch.holding ∧ ((ch.openBlock t).used = 0 ∨ ch.holding = []) := by
  have hb : b ∈ (ch.openBlock t).holding := by
    unfold Channel.holding
    rw [h]
    simp
  refine ⟨(ch.openBlock_holding t).subset hb, ?_⟩
  unfold Channel.openBlock Channel.holding
  split
  · exact .inl rfl
  · exact .inl rfl
  · rename_i he hf
    exact .inr (by rw [hf, he]; rfl)

/-- A record goes into the current block where it fits, and else, as a key record, into a new one (R139, R140). -/
theorem Channel.writeRecord_cases (ch : Channel) (c : Nat) (r : TraceRecord) :
    (∃ key bytes, ch.used + bytes.length ≤ 496 ∧ ∀ m, ch.writeRecord c r m = ch.put c r key bytes m) ∨
      ∀ m, ch.writeRecord c r m = (ch.openBlock r.time).put c r true (keyBytes r) m := by
  unfold Channel.writeRecord
  dsimp only
  generalize (if ch.needsKey r = true then keyBytes r else otherBytes ch r) = bytes
  by_cases h : (ch.current.isSome && decide (ch.used + bytes.length ≤ 496)) = true
  · have hfit := (Bool.and_eq_true_iff.mp h).2
    exact .inl ⟨_, bytes, of_decide_eq_true hfit, fun m => if_pos h⟩
  · exact .inr fun m => if_neg h

theorem Channel.writeRecord_channel (m m' : Memory) : (ch.writeRecord c r m).1 = (ch.writeRecord c r m').1 := by
  rcases ch.writeRecord_cases c r with ⟨key, bytes, -, h⟩ | h
  · rw [h, h, Channel.put_channel]
  · rw [h, h, Channel.put_channel]

theorem Channel.writeRecord_kind : (ch.writeRecord c r m).1.kind = ch.kind := by
  rcases ch.writeRecord_cases c r with ⟨key, bytes, -, h⟩ | h
  · rw [h, Channel.put_kind]
  · rw [h, Channel.put_kind, Channel.openBlock_kind]

/-- A record that fits a block is written into a block of the holding. -/
theorem Channel.writeRecord_outside (hm : Memory.wf 0 m = true) (hl : (keyBytes r).length ≤ 496) {x : Nat}
    (hx : ∀ b ∈ ch.holding, x < 512 * b ∨ 512 * b + 512 ≤ x) :
    Memory.read 0 (ch.writeRecord c r m).2 x = Memory.read 0 m x := by
  rcases ch.writeRecord_cases c r with ⟨key, bytes, hfit, h⟩ | h
  · rw [h]
    refine Channel.put_outside hm hfit fun b hb => hx b ?_
    unfold Channel.holding
    simp [hb]
  · rw [h]
    cases hc : (ch.openBlock r.time).current with
    | none =>
      unfold Channel.put
      rw [hc]
    | some b =>
      obtain ⟨hb, hu | he⟩ := Channel.openBlock_current r.time hc
      · refine Channel.put_outside hm (by rw [hu, Nat.zero_add]; exact hl) fun b' hb' => ?_
        rw [hc, Option.some.injEq] at hb'
        exact hb' ▸ hx b hb
      · simp [he] at hb

theorem Channel.writeRecord_read_congr (hm : Memory.wf 0 m = true) (hm' : Memory.wf 0 m' = true) {x : Nat}
    (hx : Memory.read 0 m x = Memory.read 0 m' x) :
    Memory.read 0 (ch.writeRecord c r m).2 x = Memory.read 0 (ch.writeRecord c r m').2 x := by
  rcases ch.writeRecord_cases c r with ⟨key, bytes, -, h⟩ | h
  · rw [h, h, Channel.put_read_congr hm hm' hx]
  · rw [h, h, Channel.put_read_congr hm hm' hx]

end

/-! ### One offer -/

section
variable {r r' : Recorder} {c : Nat} {rec : TraceRecord}

theorem Recorder.offer_chan_other {c' : Nat} (h : c' ≠ c) : (r.offer c' rec).1.chans[c]? = r.chans[c]? := by
  rcases r.offer_cases c' rec with he | ⟨ch, ch', m, -, he, -⟩
  · rw [he]
  · rw [he]
    exact List.getElem?_set_ne h

/-- Bytes outside the channel's holding stand. -/
theorem Recorder.offer_outside (hm : Memory.wf 0 r.blocks = true) (hl : (keyBytes rec).length ≤ 496) {x : Nat}
    (hx : ∀ ch, r.chans[c]? = some ch → ∀ b ∈ ch.holding, x < 512 * b ∨ 512 * b + 512 ≤ x) :
    Memory.read 0 (r.offer c rec).1.blocks x = Memory.read 0 r.blocks x := by
  unfold Recorder.offer
  split
  · rfl
  · rename_i ch hc
    split
    · rfl
    · exact Channel.writeRecord_outside hm hl (hx ch hc)
    · split <;> rfl

/-- What an offer makes of a channel depends on the channel alone. -/
theorem Recorder.offer_chan_congr (h : r.chans[c]? = r'.chans[c]?) :
    (r.offer c rec).1.chans[c]? = (r'.offer c rec).1.chans[c]? := by
  have hset (ch ch' : Channel) (hc : r'.chans[c]? = some ch) :
      (r.chans.set c ch')[c]? = (r'.chans.set c ch')[c]? := by
    have hr := (List.getElem?_eq_some_iff.mp (h.trans hc)).1
    have hr' := (List.getElem?_eq_some_iff.mp hc).1
    rw [List.getElem?_set_self hr, List.getElem?_set_self hr']
  unfold Recorder.offer
  rw [h]
  split
  · exact h
  · rename_i ch hc
    split
    · exact h
    · dsimp only
      rw [Channel.writeRecord_channel r.blocks r'.blocks]
      exact hset ch _ hc
    · split
      · exact hset ch _ hc
      · exact h

/-- And what it makes of a byte on the channel and that byte. -/
theorem Recorder.offer_read_congr (h : r.chans[c]? = r'.chans[c]?) (hm : Memory.wf 0 r.blocks = true)
    (hm' : Memory.wf 0 r'.blocks = true) {x : Nat} (hx : Memory.read 0 r.blocks x = Memory.read 0 r'.blocks x) :
    Memory.read 0 (r.offer c rec).1.blocks x = Memory.read 0 (r'.offer c rec).1.blocks x := by
  unfold Recorder.offer
  rw [h]
  split
  · exact hx
  · split
    · exact hx
    · exact Channel.writeRecord_read_congr hm hm' hx
    · split <;> exact hx

/-- A channel offered a record keeps its kind and, but for their order, its blocks. -/
theorem Recorder.offer_chan_keeps {ch : Channel} (h : r.chans[c]? = some ch) :
    ∃ ch', (r.offer c rec).1.chans[c]? = some ch' ∧ ch'.kind = ch.kind ∧ ch'.holding.Perm ch.holding := by
  have hlt := (List.getElem?_eq_some_iff.mp h).1
  unfold Recorder.offer
  rw [h]
  dsimp only
  split
  · exact ⟨ch, h, rfl, .refl _⟩
  · exact ⟨_, List.getElem?_set_self hlt, Channel.writeRecord_kind, (Channel.writeRecord_spec _ _ _ _).1⟩
  · split
    · exact ⟨_, List.getElem?_set_self hlt, rfl, .refl _⟩
    · exact ⟨ch, h, rfl, .refl _⟩

end

/-! ### A channel left with the bytes of its blocks -/

/-- No two channels hold the same block (R130). -/
theorem Recorder.Partition.disjoint {r : Recorder} (h : r.Partition) {c c' : Nat} (hne : c ≠ c') {ch ch' : Channel}
    (hc : r.chans[c]? = some ch) (hc' : r.chans[c']? = some ch') {b : Nat} (hb : b ∈ ch.holding) : b ∉ ch'.holding := by
  have hnd : (r.chans.flatMap Channel.holding).Nodup := by
    have hall : r.blockList.Nodup := h.nodup_iff.mpr List.nodup_range
    exact ((List.nodup_append.mp (List.nodup_append.mp hall).1).2).1
  have hpair := (List.nodup_flatMap.mp hnd).2
  obtain ⟨hi, rfl⟩ := List.getElem?_eq_some_iff.mp hc
  obtain ⟨hj, rfl⟩ := List.getElem?_eq_some_iff.mp hc'
  rcases Nat.lt_or_gt_of_ne hne with hlt | hlt
  · exact fun hb' => List.pairwise_iff_getElem.mp hpair c c' hi hj hlt hb hb'
  · exact fun hb' => List.pairwise_iff_getElem.mp hpair c' c hj hi hlt hb' hb

/-- Channel `c` stands with the bytes of its blocks, the latter if the records in between fit a block. -/
structure Recorder.Leaves (c : Nat) (fits : Prop) (r t : Recorder) : Prop where
  moves : Recorder.Moves r t
  chan : t.chans[c]? = r.chans[c]?
  bytes : fits → r.Partition → Memory.wf 0 r.blocks = true → ∀ ch, r.chans[c]? = some ch → ∀ b ∈ ch.holding,
    ∀ i, i < 512 → Memory.read 0 t.blocks (512 * b + i) = Memory.read 0 r.blocks (512 * b + i)

/-- Channel `c` is not one of event records. -/
def Recorder.NotLog (c : Nat) (r : Recorder) : Prop := ∀ ch, r.chans[c]? = some ch → ch.kind ≠ .eventLog

section
variable {c : Nat} {fits : Prop}

theorem Recorder.Moves.partition {r t : Recorder} (h : Recorder.Moves r t) (hp : r.Partition) : t.Partition :=
  h.blockList.trans hp

theorem Recorder.Leaves.refl (r : Recorder) : Recorder.Leaves c fits r r := ⟨.refl r, rfl, fun _ _ _ _ _ _ _ _ _ => rfl⟩

theorem Recorder.Leaves.trans {r s t : Recorder} (h : Recorder.Leaves c fits r s) (h' : Recorder.Leaves c fits s t) :
    Recorder.Leaves c fits r t :=
  ⟨h.moves.trans h'.moves, h'.chan.trans h.chan, fun hf hp hm ch hc b hb i hi =>
    (h'.bytes hf (h.moves.partition hp) (h.moves.wf_blocks hm) ch (h.chan.trans hc) b hb i hi).trans
      (h.bytes hf hp hm ch hc b hb i hi)⟩

theorem Recorder.Leaves.notLog {r t : Recorder} (h : Recorder.Leaves c fits r t) (hn : r.NotLog c) : t.NotLog c :=
  fun ch hc => hn ch (h.chan.symm.trans hc)

/-- A change of the parts that hold no blocks. -/
theorem Recorder.Leaves.of_notes (r : Recorder) (p : Peaks) (st : RecorderState) (cap : Option Incident)
    (h : Option Time) : Recorder.Leaves c fits r (r.withNotes p st cap h) :=
  ⟨.notes r p st cap h, rfl, fun _ _ _ _ _ _ _ _ _ => rfl⟩

/-- An offer to another channel. -/
theorem Recorder.offer_leaves {c' : Nat} (hne : c' ≠ c) {rec : TraceRecord} (hl : fits → (keyBytes rec).length ≤ 496)
    (r : Recorder) : Recorder.Leaves c fits r (r.offer c' rec).1 := by
  refine ⟨.offer r c' rec, Recorder.offer_chan_other hne, fun hf hp hm ch hc b hb i hi => ?_⟩
  refine Recorder.offer_outside hm (hl hf) fun ch' hc' b' hb' => ?_
  have hbb : b ≠ b' := fun h => hp.disjoint hne.symm hc hc' hb (h ▸ hb')
  omega

/-- Channel `c` has been offered a record, and stands otherwise. -/
def Recorder.Offered (c : Nat) (fits : Prop) (rec : TraceRecord) (r t : Recorder) : Prop :=
  ∃ r', Recorder.Leaves c fits r r' ∧ Recorder.Leaves c fits (r'.offer c rec).1 t

section
variable {rec : TraceRecord} {r s t : Recorder}

theorem Recorder.Leaves.thenOffered (h : Recorder.Leaves c fits r s) (h' : Recorder.Offered c fits rec s t) :
    Recorder.Offered c fits rec r t := by
  obtain ⟨r', h₁, h₂⟩ := h'
  exact ⟨r', h.trans h₁, h₂⟩

theorem Recorder.Offered.thenLeaves (h : Recorder.Offered c fits rec r s) (h' : Recorder.Leaves c fits s t) :
    Recorder.Offered c fits rec r t := by
  obtain ⟨r', h₁, h₂⟩ := h
  exact ⟨r', h₁, h₂.trans h'⟩

theorem Recorder.Offered.notLog (h : Recorder.Offered c fits rec r t) (hn : r.NotLog c) : t.NotLog c := by
  obtain ⟨r', h₁, h₂⟩ := h
  refine h₂.notLog fun ch hc => ?_
  cases hr : r'.chans[c]? with
  | none =>
    have hsame : (r'.offer c rec).1 = r' := by
      unfold Recorder.offer
      rw [hr]
    rw [hsame, hr] at hc
    exact absurd hc (by simp)
  | some old =>
    obtain ⟨ch', hch, hk, -⟩ := Recorder.offer_chan_keeps (rec := rec) hr
    rw [hch, Option.some.injEq] at hc
    rw [← hc, hk]
    exact h₁.notLog hn old hr

/-- The channel stands as the offer at the start leaves it. -/
theorem Recorder.Offered.chan (h : Recorder.Offered c fits rec r t) : t.chans[c]? = (r.offer c rec).1.chans[c]? := by
  obtain ⟨r', h₁, h₂⟩ := h
  exact h₂.chan.trans (Recorder.offer_chan_congr h₁.chan)

/-- And so do the bytes of its blocks. -/
theorem Recorder.Offered.bytes (h : Recorder.Offered c fits rec r t) (hf : fits) (hp : r.Partition)
    (hm : Memory.wf 0 r.blocks = true) {ch : Channel} (hc : r.chans[c]? = some ch) {b : Nat} (hb : b ∈ ch.holding)
    {i : Nat} (hi : i < 512) :
    Memory.read 0 t.blocks (512 * b + i) = Memory.read 0 (r.offer c rec).1.blocks (512 * b + i) := by
  obtain ⟨r', h₁, h₂⟩ := h
  have hp' := h₁.moves.partition hp
  have hm' := h₁.moves.wf_blocks hm
  have ho := Recorder.Moves.offer r' c rec
  obtain ⟨ch', hch, -, hperm⟩ := Recorder.offer_chan_keeps (rec := rec) (h₁.chan.trans hc)
  rw [h₂.bytes hf (ho.partition hp') (ho.wf_blocks hm') ch' hch b (hperm.symm.subset hb) i hi]
  exact Recorder.offer_read_congr h₁.chan hm' hm (h₁.bytes hf hp hm ch hc b hb i hi)

end

/-! ### An offer to every channel of a choice -/

/-- One channel's turn in `Recorder.offerAll`. -/
def offerStep (sel : Channel → Bool) (rec : TraceRecord) (acc : Recorder × List Nat) (c : Nat) : Recorder × List Nat :=
  if ((acc.1.chans[c]?).map sel).getD false then
    ((acc.1.offer c rec).1, if (acc.1.offer c rec).2 then acc.2 ++ [c] else acc.2)
  else acc

theorem Recorder.offerAll_eq (sel : Channel → Bool) (rec : TraceRecord) (r : Recorder) :
    r.offerAll sel rec = (List.range 8).foldl (offerStep sel rec) (r, []) := rfl

section
variable {sel : Channel → Bool} {rec : TraceRecord} (hl : fits → (keyBytes rec).length ≤ 496)
include hl

theorem offerStep_leaves {acc : Recorder × List Nat} {c' : Nat}
    (h : c' ≠ c ∨ ∀ ch, acc.1.chans[c]? = some ch → sel ch = false) :
    Recorder.Leaves c fits acc.1 (offerStep sel rec acc c').1 := by
  unfold offerStep
  split
  · rename_i hs
    refine Recorder.offer_leaves (fun he => ?_) hl acc.1
    rcases h with h | h
    · exact h he
    · subst he
      cases hc : acc.1.chans[c']? with
      | none => simp [hc] at hs
      | some ch => simp [hc, h ch hc] at hs
  · exact .refl _

theorem foldl_offerStep_leaves (cs : List Nat) (acc : Recorder × List Nat)
    (h : c ∉ cs ∨ ∀ ch, acc.1.chans[c]? = some ch → sel ch = false) :
    Recorder.Leaves c fits acc.1 (cs.foldl (offerStep sel rec) acc).1 := by
  induction cs generalizing acc with
  | nil => exact .refl _
  | cons c' cs ih =>
    have hstep : Recorder.Leaves c fits acc.1 (offerStep sel rec acc c').1 :=
      offerStep_leaves hl (h.imp_left fun hn he => hn (by simp [he]))
    refine hstep.trans (ih _ ?_)
    exact h.imp (fun hn hm => hn (by simp [hm])) fun hn ch hc => hn ch (hstep.chan.symm.trans hc)

/-- A channel that is not chosen stands. -/
theorem Recorder.offerAll_leaves {r : Recorder} (h : ∀ ch, r.chans[c]? = some ch → sel ch = false) :
    Recorder.Leaves c fits r (r.offerAll sel rec).1 :=
  foldl_offerStep_leaves hl _ (r, []) (.inr h)

/-- A chosen one is offered the record. -/
theorem Recorder.offerAll_offered {r : Recorder} {ch : Channel} (hc : c < 8) (h : r.chans[c]? = some ch)
    (hs : sel ch = true) : Recorder.Offered c fits rec r (r.offerAll sel rec).1 := by
  obtain ⟨l₁, l₂, hcs⟩ := List.append_of_mem (List.mem_range.mpr hc)
  have hnd : (l₁ ++ c :: l₂).Nodup := hcs ▸ List.nodup_range
  have h₁ : c ∉ l₁ := fun hm => (List.nodup_append.mp hnd).2.2 c hm c (by simp) rfl
  have h₂ : c ∉ l₂ := (List.nodup_cons.mp (List.nodup_append.mp hnd).2.1).1
  rw [Recorder.offerAll_eq, hcs, List.foldl_append, List.foldl_cons]
  have hbefore := foldl_offerStep_leaves (sel := sel) (c := c) hl l₁ (r, []) (.inl h₁)
  generalize l₁.foldl (offerStep sel rec) (r, []) = acc at hbefore ⊢
  have hturn : (offerStep sel rec acc c).1 = (acc.1.offer c rec).1 := by
    have hsome : acc.1.chans[c]? = some ch := hbefore.chan.trans h
    unfold offerStep
    rw [if_pos (by simp [hsome, hs])]
  have hafter := foldl_offerStep_leaves (sel := sel) (c := c) hl l₂ (offerStep sel rec acc c) (.inl h₂)
  rw [hturn] at hafter
  exact ⟨acc.1, hbefore, hafter⟩

end

/-! ### Event records and traces -/

theorem Recorder.foldl_leaves {β : Type} {f : Recorder → β → Recorder}
    (h : ∀ r b, r.NotLog c → Recorder.Leaves c fits r (f r b)) (bs : List β) (r : Recorder) (hn : r.NotLog c) :
    Recorder.Leaves c fits r (bs.foldl f r) := by
  induction bs generalizing r with
  | nil => exact .refl r
  | cons b bs ih => exact (h r b hn).trans (ih _ ((h r b hn).notLog hn))

theorem eventRecord_length (t : Time) (source : Nat) (detail : List Byte) :
    (keyBytes (eventRecord t source detail)).length = detail.length + 7 := by
  simp [keyBytes, eventRecord, be8_eq, be32_eq]

theorem Recorder.NotLog.unchosen {r : Recorder} (h : r.NotLog c) {ch : Channel} (hc : r.chans[c]? = some ch) :
    ofKind .eventLog ch = false := beq_eq_false_iff_ne.mpr (h ch hc)

theorem Recorder.log_leaves (n : Nat) {r : Recorder} (h : r.NotLog c) (t : Time) (source : Nat) {detail : List Byte}
    (hl : fits → detail.length ≤ 489) : Recorder.Leaves c fits r (Recorder.log n t source detail r) := by
  induction n generalizing source detail r with
  | zero => exact .refl r
  | succ n ih =>
    have ho : Recorder.Leaves c fits r (r.offerAll (ofKind .eventLog) (eventRecord t source detail)).1 :=
      Recorder.offerAll_leaves (fun hf => by rw [eventRecord_length]; have := hl hf; omega) fun _ hc => h.unchosen hc
    exact ho.trans (Recorder.foldl_leaves (fun r k hr => ih hr _ fun _ => by simp [be8_eq]) _ _ (ho.notLog h))

/-- An event record leaves a channel that is not one of event records. -/
theorem Recorder.logEvent_leaves {r : Recorder} (h : r.NotLog c) (t : Time) (source : EventSource) {detail : List Byte}
    (hl : fits → detail.length ≤ 489) : Recorder.Leaves c fits r (r.logEvent t source detail) :=
  Recorder.log_leaves 9 h t _ hl

section
variable {sel : Channel → Bool} {rec : TraceRecord} (hl : fits → (keyBytes rec).length ≤ 496) {r : Recorder}
  (hn : r.NotLog c)
include hl hn

/-- A trace record leaves a channel that it is not meant for. -/
theorem Recorder.trace_leaves (h : ∀ ch, r.chans[c]? = some ch → sel ch = false) :
    Recorder.Leaves c fits r (r.trace sel rec) := by
  have ho := Recorder.offerAll_leaves hl h
  exact ho.trans (Recorder.foldl_leaves (fun r k hr => Recorder.logEvent_leaves hr _ _ fun _ => by simp [be8_eq]) _ _
    (ho.notLog hn))

/-- One that it is meant for is offered it. -/
theorem Recorder.trace_offered {ch : Channel} (hc : c < 8) (h : r.chans[c]? = some ch) (hs : sel ch = true) :
    Recorder.Offered c fits rec r (r.trace sel rec) := by
  have ho := Recorder.offerAll_offered hl hc h hs
  exact ho.thenLeaves (Recorder.foldl_leaves (fun r k hr => Recorder.logEvent_leaves hr _ _ fun _ => by simp [be8_eq])
    _ _ (ho.notLog hn))

end
end

/-! ### An event record at the channels of event records (R135, R136) -/

/-- Without a lost-record count at 65534 an offer saturates none. -/
theorem Recorder.offer_unsaturated {r : Recorder} {c : Nat} (h : ∀ ch, r.chans[c]? = some ch → ch.lost ≠ 65534)
    (rec : TraceRecord) : (r.offer c rec).2 = false := by
  unfold Recorder.offer
  split
  · rfl
  · rename_i ch hc
    have hlost := h ch hc
    split
    · rfl
    · rfl
    · split
      · exact beq_eq_false_iff_ne.mpr (by omega)
      · rfl

theorem foldl_offerStep_unsaturated (sel : Channel → Bool) (rec : TraceRecord) {cs : List Nat} (hnd : cs.Nodup)
    (acc : Recorder × List Nat) (h : ∀ c ∈ cs, ∀ ch, acc.1.chans[c]? = some ch → ch.lost ≠ 65534) :
    (cs.foldl (offerStep sel rec) acc).2 = acc.2 := by
  induction cs generalizing acc with
  | nil => rfl
  | cons c cs ih =>
    obtain ⟨hc, hnd'⟩ := List.nodup_cons.mp hnd
    have hstep : (offerStep sel rec acc c).2 = acc.2 := by
      unfold offerStep
      split
      · exact if_neg (by simp [Recorder.offer_unsaturated (h c (by simp)) rec])
      · rfl
    refine (ih hnd' _ fun c' hc' ch hch => h c' (by simp [hc']) ch ?_).trans hstep
    have hleaves := offerStep_leaves (c := c') (fits := False) (rec := rec) (sel := sel) (acc := acc) (c' := c)
      False.elim (.inl fun he => hc (he ▸ hc'))
    exact hleaves.chan.symm.trans hch

/-- An event record handed over without one is one offer. -/
theorem Recorder.logEvent_eq {r : Recorder} (h : ∀ ch ∈ r.chans, ch.lost ≠ 65534) (t : Time) (source : EventSource)
    (detail : List Byte) : r.logEvent t source detail =
      (r.offerAll (ofKind .eventLog) (eventRecord t (eventSourceCode source) detail)).1 := by
  have hs : (r.offerAll (ofKind .eventLog) (eventRecord t (eventSourceCode source) detail)).2 = [] :=
    foldl_offerStep_unsaturated _ _ List.nodup_range (r, []) fun _ _ ch hc => h ch (List.mem_of_getElem? hc)
  unfold Recorder.logEvent
  rw [Recorder.log, hs]
  rfl

end Sys2Proof.Machine
end

section
/-! SUPPORT. The events of the running part seen from one channel that is not one of event records: between the trace
records meant for it, said once as `State.SparesChannel`, they leave it with the bytes of its blocks (R134, R135). The
power-fail warning is excluded: under it an incident closes in the event that opens it, and the channels are frozen. -/

namespace Sys2Proof.Machine

/-- Work that leaves channel `c` with the bytes of its blocks, unless it is a channel of event records. -/
structure State.SparesChannel (c : Nat) (s t : State) : Prop where
  power : s.powerFail = false → t.powerFail = false
  recorder : s.powerFail = false → s.recorder.NotLog c → Recorder.Leaves c True s.recorder t.recorder

section
variable {c : Nat}

theorem State.SparesChannel.refl (s : State) : State.SparesChannel c s s := ⟨id, fun _ _ => .refl _⟩

theorem State.SparesChannel.trans {s t u : State} (h : State.SparesChannel c s t) (h' : State.SparesChannel c t u) :
    State.SparesChannel c s u :=
  ⟨fun hp => h'.power (h.power hp), fun hp hn =>
    (h.recorder hp hn).trans (h'.recorder (h.power hp) ((h.recorder hp hn).notLog hn))⟩

/-- A change outside the Recorder. -/
theorem State.SparesChannel.of_same {s t : State} (hp : t.powerFail = s.powerFail) (hr : t.recorder = s.recorder) :
    State.SparesChannel c s t := ⟨fun h => hp.trans h, fun _ _ => by rw [hr]; exact .refl _⟩

/-- What is shown with the warning inactive. -/
theorem State.SparesChannel.of_unwarned {s t : State} (h : s.powerFail = false → State.SparesChannel c s t) :
    State.SparesChannel c s t := ⟨fun hp => (h hp).power hp, fun hp => (h hp).recorder hp⟩

/-- A change of the Recorder in which it leaves the channel. -/
theorem State.SparesChannel.of_recorder (s : State) {r : Recorder}
    (h : s.recorder.NotLog c → Recorder.Leaves c True s.recorder r) :
    State.SparesChannel c s { s with recorder := r } := ⟨id, fun _ => h⟩

/-- The same, after work. -/
theorem State.SparesChannel.with_same {s t u : State} (h : State.SparesChannel c s t) (hp : u.powerFail = t.powerFail)
    (hr : u.recorder = t.recorder) : State.SparesChannel c s u := h.trans (.of_same hp hr)

/-- The same, before work. -/
theorem State.SparesChannel.same_then {s t u : State} (h : State.SparesChannel c t u) (hp : t.powerFail = s.powerFail)
    (hr : t.recorder = s.recorder) : State.SparesChannel c s u := .trans (.of_same hp hr) h

/-! ### Event records, counts and triggers -/

theorem State.logEvent_spares (s : State) (source : EventSource) {detail : List Byte} (hl : detail.length ≤ 489) :
    State.SparesChannel c s (s.logEvent source detail) :=
  .of_recorder s fun hn => Recorder.logEvent_leaves hn s.now source fun _ => hl

theorem State.bump_spares (s : State) (i : CounterId) : State.SparesChannel c s (s.bump i) := by
  have hl : (be8 (counterCode i)).length ≤ 489 := by simp [be8_eq]
  unfold State.bump
  split
  · dsimp only
    split
    · exact .same_then (State.logEvent_spares _ .saturation hl) rfl rfl
    · exact .of_same rfl rfl
  · exact .refl s

theorem State.bumpN_spares (n : Nat) (s : State) (i : CounterId) : State.SparesChannel c s (s.bumpN i n) := by
  induction n generalizing s with
  | zero => exact .refl s
  | succ n ih => exact (s.bump_spares i).trans (ih _)

theorem State.handUrgent_spares (s : State) (kind : FrameKind) (payload : List Byte) :
    State.SparesChannel c s (s.handUrgent kind payload) := by
  unfold State.handUrgent
  split
  · exact s.bump_spares _
  · split
    · exact .of_same rfl rfl
    · split
      · exact .same_then (State.bump_spares _ _) rfl rfl
      · exact s.bump_spares _

theorem State.openIncident_spares (s : State) (x : Trigger) : State.SparesChannel c s (s.openIncident x) := by
  have h : State.SparesChannel c s _ := .of_recorder s fun _ => .of_notes s.recorder resetPeaks .capturing
    (some (s.newIncident x)) (holdoffAfter x s.now s.recorder.holdoff)
  unfold State.openIncident
  dsimp only
  split
  · exact h.trans (.same_then (State.handUrgent_spares _ _ _) rfl rfl)
  · exact h.with_same rfl rfl

theorem State.appendCause_spares (s : State) (x : Trigger) (inc : Incident) :
    State.SparesChannel c s (s.appendCause x inc) :=
  .of_recorder s fun _ => .of_notes s.recorder s.recorder.peaks s.recorder.state _ _

/-- A trigger, with the warning inactive, freezes nothing. -/
theorem State.raise_spares (s : State) (x : Trigger) : State.SparesChannel c s (s.raise x) := by
  refine .of_unwarned fun hp => ?_
  unfold State.raise
  split
  · exact s.bump_spares _
  · split
    · exact .refl s
    · split
      · exact s.bump_spares _
      · split
        · exact s.bump_spares _
        · split
          · exact s.appendCause_spares _ _
          · split
            · exact s.bump_spares _
            · rw [if_neg (by simp [hp])]
              exact s.openIncident_spares x

end

/-! ### Messages -/

/-- A message whose event record fits a block. -/
def Message.Fits (m : Message) : Prop := ∀ source detail, m = .event source detail → detail.length ≤ 489

theorem Message.fits_event {source : EventSource} {detail : List Byte} (h : detail.length ≤ 489) :
    (Message.event source detail).Fits := fun _ _ he => by
  obtain ⟨rfl, rfl⟩ := Message.event.inj he
  exact h

theorem Message.fits_trigger (x : Trigger) : (Message.trigger x).Fits := nofun
theorem Message.fits_urgent (kind : FrameKind) (payload : List Byte) : (Message.urgent kind payload).Fits := nofun
theorem Message.fits_count (i : CounterId) : (Message.count i).Fits := nofun

section
variable {c : Nat}

/-! ### Deliveries -/

theorem State.deliver_spares (s : State) {m : Message} (h : m.Fits) : State.SparesChannel c s (s.deliver m) := by
  cases m with
  | event source detail => exact s.logEvent_spares source (h _ _ rfl)
  | trigger x => exact s.raise_spares x
  | urgent kind payload => exact s.handUrgent_spares kind payload
  | count i => exact s.bump_spares i

theorem State.deliverAll_spares (s : State) {ms : List Message} (h : ∀ m ∈ ms, m.Fits) :
    State.SparesChannel c s (s.deliverAll ms) := by
  induction ms generalizing s with
  | nil => exact .refl s
  | cons m ms ih => exact (s.deliver_spares (h m (by simp))).trans (ih _ fun x hx => h x (by simp [hx]))

theorem State.recordChannels_spares (before after : State) :
    State.SparesChannel c after (before.recordChannels after) := by
  unfold State.recordChannels
  generalize (before.recorder.chans.zip after.recorder.chans).zipIdx = l
  induction l generalizing after with
  | nil => exact .refl after
  | cons p l ih =>
    rw [List.foldl_cons]
    refine .trans ?_ (ih _)
    split
    · exact after.logEvent_spares _ (by simp [be8_eq])
    · exact .refl after

/-- An event whose work leaves the channel. -/
theorem State.event_spares {work : State → State} (h : ∀ x, State.SparesChannel c x (work x)) (s : State) (dt : Nat) :
    State.SparesChannel c s (s.event dt work) := by
  have ha : State.SparesChannel c s (s.advance dt) := .of_same rfl rfl
  unfold State.event
  dsimp only
  split
  · exact (ha.trans (h _)).trans (State.recordChannels_spares _ _)
  · exact ha

/-! ### The demand section and the pressure set (R24 to R32, R125) -/

theorem State.changeMode_spares (s : State) (new : Mode) (cause : EventCause) {more : List Byte}
    (h : more.length ≤ 1) : State.SparesChannel c s (s.changeMode new cause more) := by
  have hl : (be8 (modeCode s.demand.mode) ++ be8 (modeCode new) ++ be8 (eventCauseCode cause) ++ more).length ≤ 489 := by
    simp only [be8_eq, List.length_append, List.length_singleton]
    omega
  exact .same_then (State.logEvent_spares { s with demand := { s.demand with mode := new } } .mode hl) rfl rfl

theorem State.enterEmergency_spares (s : State) (cause : EventCause) {more : List Byte} (h : more.length ≤ 1) :
    State.SparesChannel c s (s.enterEmergency cause more) :=
  (s.changeMode_spares .emergency cause h).with_same
    (by simp only [State.enterEmergency, State.restartExit, State.driveEmergency])
    (by simp only [State.enterEmergency, State.restartExit, State.driveEmergency])

theorem State.takeNotice_spares (s : State) (f : GoodFrame) : State.SparesChannel c s (s.takeNotice f) := by
  unfold State.takeNotice
  split
  · exact .of_same rfl rfl
  · exact (s.enterEmergency_spares .peer (by simp [be8_eq])).trans (State.deliver_spares _ (Message.fits_trigger _))

theorem State.detect_spares (s : State) (cause : Detection) (bp : Nat) (fall : Int) :
    State.SparesChannel c s (s.detect cause bp fall) := by
  unfold State.detect
  split
  · exact .of_same rfl rfl
  · unfold State.beginNotices
    exact (s.enterEmergency_spares (detectionEvent cause) (more := []) (Nat.zero_le _)).trans
      (.trans (State.deliver_spares _ (m := localTrigger cause bp fall) (Message.fits_trigger _))
        (.same_then (State.handUrgent_spares _ _ _) (by simp only) (by simp only)))

theorem State.exitCheck_spares (s : State) : State.SparesChannel c s s.exitCheck := by
  unfold State.exitCheck
  split
  · unfold State.leaveEmergency
    dsimp only
    generalize hm : (if 0 < s.demand.d ∨ 0 < s.sharing.sd then Mode.service else .released) = new
    exact (s.changeMode_spares new .exit (more := []) (Nat.zero_le _)).with_same (by simp only) (by simp only)
  · exact .of_same rfl rfl

theorem State.demandArrival_spares (s : State) : State.SparesChannel c s s.demandArrival := by
  unfold State.demandArrival
  split
  · exact s.detect_spares _ _ _
  · split
    · exact s.exitCheck_spares
    · exact .refl s

theorem State.frictionCheck_spares (s : State) : State.SparesChannel c s s.frictionCheck := by
  unfold State.frictionCheck
  dsimp only
  split
  · exact .of_same rfl rfl
  · split
    · exact .same_then (State.deliver_spares _ (Message.fits_trigger _)) rfl rfl
    · exact .of_same rfl rfl

theorem State.outputArrival_spares (s : State) : State.SparesChannel c s s.outputArrival := by
  have hd : State.SparesChannel c s s.emergencyDriven := by
    unfold State.emergencyDriven
    split
    · exact .of_same rfl rfl
    · exact .refl s
  refine hd.trans ?_
  rw [State.outputArrival_eq]
  split
  · split
    · exact .of_same rfl rfl
    · exact .refl _
  · exact State.frictionCheck_spares _

/-! ### The control cycle (R109 to R128) -/

theorem State.enterRoutine_spares (s : State) (f : TxFrame) : State.SparesChannel c s (s.enterRoutine f) := by
  rw [State.enterRoutine_eq]
  unfold State.bumpIf
  split
  · exact .same_then (State.bump_spares _ _) rfl rfl
  · exact .of_same rfl rfl

theorem State.earlyTest_spares (s : State) : State.SparesChannel c s s.earlyTest := by
  unfold State.earlyTest State.makeDue State.queueStatement
  split
  · exact .refl s
  · split
    · split
      · split
        · exact (s.enterRoutine_spares _).with_same rfl rfl
        · exact .of_same rfl rfl
      · exact .refl s
    · exact .refl s

theorem linkCheck_fits (o : Outputs) (etol : Nat) : ∀ m ∈ (o.linkCheck etol).2, m.Fits := by
  have hlink : (linkEvent true false .misses).Fits := Message.fits_event (by simp [be8_eq])
  unfold Outputs.linkCheck Outputs.miss
  split
  · dsimp only
    split
    · simpa using ⟨Message.fits_count _, Message.fits_trigger _, hlink⟩
    · simpa using Message.fits_count _
  · split <;> simp

theorem State.linkCheck_spares (s : State) : State.SparesChannel c s s.linkCheck :=
  .same_then (State.deliverAll_spares _ (linkCheck_fits _ _)) rfl rfl

theorem State.outputStage_spares (s : State) : State.SparesChannel c s s.outputStage := by
  unfold State.outputStage
  dsimp only
  split
  · exact .same_then (State.deliver_spares _ (Message.fits_trigger _)) rfl rfl
  · exact .of_same rfl rfl

theorem State.evaluateMode_spares (s : State) : State.SparesChannel c s s.evaluateMode := by
  unfold State.evaluateMode
  dsimp only
  split
  · exact .refl s
  · split
    · exact .refl s
    · exact s.changeMode_spares _ _ (Nat.zero_le _)

/-! ### The speed set (R43 to R57) -/

theorem stage4Messages_fits (chs : List AxleChange) (vref : Nat) : ∀ m ∈ stage4Messages chs vref, m.Fits := by
  intro m hm
  rcases List.mem_append.mp hm with hm | hm
  · obtain ⟨ch, -, hc⟩ := List.mem_flatMap.mp hm
    unfold AxleChange.trigger at hc
    split at hc
    · exact List.mem_singleton.mp hc ▸ Message.fits_trigger _
    · split at hc
      · exact List.mem_singleton.mp hc ▸ Message.fits_trigger _
      · cases hc
  · obtain ⟨ch, -, hc⟩ := List.mem_flatMap.mp hm
    unfold AxleChange.record at hc
    split at hc
    · cases hc
    · exact List.mem_singleton.mp hc ▸ Message.fits_event (by simp [be8_eq, be16_eq])

theorem stage5Messages_fits (u : Slide) (chs : List AxleChange) : ∀ m ∈ stage5Messages u chs, m.Fits := by
  have ht : ∀ m ∈ (slideTriggers u chs).map Message.trigger, m.Fits := by
    intro m hm
    obtain ⟨x, -, rfl⟩ := List.mem_map.mp hm
    exact Message.fits_trigger x
  rcases stage5Messages_eq u chs with h | ⟨payload, h⟩
  · rw [h]
    exact ht
  · rw [h]
    exact List.forall_mem_cons.mpr ⟨Message.fits_urgent _ _, ht⟩

theorem State.afterStage5_spares (s : State) : State.SparesChannel c s s.afterStage5 := by
  have h₄ : State.SparesChannel c s s.afterStage4 :=
    .same_then (State.deliverAll_spares _ (stage4Messages_fits _ _)) rfl rfl
  exact h₄.trans (.same_then (State.deliverAll_spares _ (stage5Messages_fits _ _)) rfl rfl)

/-! ### Receptions (R62 to R65, R70, R84 to R94) -/

theorem peerEvent_fits (e : PeerEntry) (old new : Nat) (cause : EventCause) : (peerEvent e old new cause).Fits :=
  Message.fits_event (by simp [be8_eq])

theorem acceptEvent_fits (e e' : PeerEntry) : ∀ m ∈ acceptEvent e e', m.Fits := by
  unfold acceptEvent
  split
  · simp
  · simpa using peerEvent_fits _ _ _ _

theorem statement_fits (e : PeerEntry) (now : Time) (group : Nat) (seq : BitVec 8) (v : Statement) :
    ∀ m ∈ (e.statement now group seq v).2, m.Fits := by
  have hexcess (x y : PeerEntry) : ∀ m ∈ Message.count .excesses :: (if x.state = y.state then [] else
      [peerEvent y (peerCode x.state) (peerCode y.state) .flooding]), m.Fits := by
    refine List.forall_mem_cons.mpr ⟨Message.fits_count _, ?_⟩
    split
    · simp
    · simpa using peerEvent_fits _ _ _ _
  have hcount (i : CounterId) : ∀ m ∈ [Message.count i], m.Fits := by simpa using Message.fits_count i
  unfold PeerEntry.statement
  split
  · exact acceptEvent_fits _ _
  · exact acceptEvent_fits _ _
  all_goals
    split
    · exact hcount _
    · exact hcount _
    · dsimp only
      split
      · exact hexcess _ _
      · exact acceptEvent_fits _ _

theorem statementArrival_fits (now : Time) (addr group : Nat) (seq : BitVec 8) (v : Statement) (es : List PeerEntry) :
    ∀ m ∈ (statementArrival now addr group seq v es).2, m.Fits := by
  unfold statementArrival
  split
  · exact statement_fits _ _ _ _ _
  · split
    · simpa [createPeer] using peerEvent_fits _ _ _ _
    · split
      · simpa using Message.fits_count _
      · simpa [createPeer] using ⟨peerEvent_fits _ _ _ _, peerEvent_fits _ _ _ _⟩

theorem State.peerStatement_spares (s : State) (f : GoodFrame) : State.SparesChannel c s (s.peerStatement f) :=
  .same_then (State.deliverAll_spares _ (statementArrival_fits _ _ _ _ _ _)) rfl rfl

theorem State.peerHear_spares (s : State) (f : GoodFrame) (al : Option Nat) :
    State.SparesChannel c s (s.peerHear f al) := by
  refine .same_then (State.deliverAll_spares _ fun m hm => ?_) rfl rfl
  rcases hearArrival_messages _ _ _ _ _ m hm with rfl | rfl
  · exact Message.fits_count _
  · exact Message.fits_count _

theorem State.dispatch_spares (s : State) (f : GoodFrame) : State.SparesChannel c s (s.dispatch f) := by
  unfold State.dispatch
  split
  · exact s.peerStatement_spares f
  · exact s.peerHear_spares f _
  · exact (s.takeNotice_spares f).trans (State.peerHear_spares _ f _)
  · exact (s.raise_spares _).trans (State.peerHear_spares _ f _)

theorem State.setLine_spares (s : State) (new : LineState) (cause : EventCause) :
    State.SparesChannel c s (s.setLine new cause) :=
  .same_then (State.logEvent_spares { s with line := { s.line with state := new } } .line
    (by simp [be8_eq])) rfl rfl

theorem State.emptyClasses_spares (s : State) : State.SparesChannel c s s.emptyClasses :=
  .same_then (State.bumpN_spares _ _ _) rfl rfl

theorem State.clash_spares (s : State) (f : GoodFrame) : State.SparesChannel c s (s.clash f) := by
  have h₁ : State.SparesChannel c s
      (State.bump { s with line := { s.line with clashes := min 2 (s.line.clashes + 1) } } .addressClashes) :=
    .same_then (State.bump_spares _ _) rfl rfl
  unfold State.clash
  dsimp only
  split
  · have h₂ := (h₁.trans (State.setLine_spares _ .clashed .clash)).trans (State.emptyClasses_spares _)
    exact h₂.trans (.same_then (State.deliver_spares _ (Message.fits_trigger _)) rfl rfl)
  · exact h₁

theorem State.ownAddressFrame_spares (s : State) (f : GoodFrame) : State.SparesChannel c s (s.ownAddressFrame f) := by
  unfold State.ownAddressFrame
  split
  · exact (s.clash_spares f).trans (State.takeNotice_spares _ f)
  · exact s.clash_spares f

/-! ### Attempts (R68, R69, R72, R74) -/

theorem State.abandoned_spares (s : State) (kind : FrameKind) (why : Abandon) :
    State.SparesChannel c s (s.abandoned kind why) := by
  have hi (x : State) : State.SparesChannel c x (x.isolate kind why) := by
    have h := (x.setLine_spares (c := c) .isolated .trouble).trans (State.emptyClasses_spares _)
    exact h.trans (.same_then (State.deliver_spares _ (Message.fits_trigger _)) rfl rfl)
  unfold State.abandoned
  split
  · exact .of_same rfl rfl
  · split
    · dsimp only
      split
      · exact .same_then (hi _) rfl rfl
      · exact .of_same rfl rfl
    · exact .refl s

theorem State.collide_spares (s : State) (cls : TxClass) : State.SparesChannel c s (s.collide cls) := by
  have h₁ := s.bump_spares (c := c) .collisions
  unfold State.collide
  split
  · exact .refl s
  · dsimp only
    split
    · exact h₁.with_same rfl rfl
    · exact (h₁.trans (State.bump_spares _ .excessiveCollisions)).trans
        (.same_then (State.abandoned_spares _ _ _) rfl rfl)

theorem State.lateCollide_spares (s : State) (cls : TxClass) : State.SparesChannel c s (s.lateCollide cls) := by
  unfold State.lateCollide
  split
  · exact .refl s
  · exact (s.bump_spares .lateCollisions).trans (.same_then (State.abandoned_spares _ _ _) rfl rfl)

theorem State.collisionEvent_spares (s : State) : State.SparesChannel c s s.collisionEvent := by
  unfold State.collisionEvent
  split
  · split
    · exact s.collide_spares _
    · exact .refl s
  · exact .refl s
  · exact .refl s

theorem State.lateEvent_spares (s : State) : State.SparesChannel c s s.lateEvent := by
  unfold State.lateEvent
  split
  · split
    · exact s.lateCollide_spares _
    · exact .refl s
  · exact .refl s
  · exact .refl s

theorem State.probeSent_spares (s : State) : State.SparesChannel c s s.probeSent := by
  unfold State.probeSent
  exact (s.setLine_spares .active .probeSent).with_same (by simp only) (by simp only)

end

end Sys2Proof.Machine
end

section
/-! SUPPORT. Which channels the records of an event are offered to (R66, R128, R135): one trace record between work that
spares every channel but those of event records. -/

namespace Sys2Proof.Machine

/-! ### From one channel to all -/

section
variable {r x t : Recorder} {sel : Channel → Bool} {P : Channel → Prop} {rec : TraceRecord}

/-- A trace record, with work before and after it that leaves every channel but those of event records. -/
theorem Recorder.offeredTo_of_trace (h : ∀ c, r.NotLog c → Recorder.Leaves c True r x)
    (h' : ∀ c, (x.trace sel rec).NotLog c → Recorder.Leaves c True (x.trace sel rec) t)
    (hl : (keyBytes rec).length ≤ 496) (hsel : ∀ ch, sel ch = true ↔ P ch) : t.OfferedTo r P rec := by
  intro c ch hc hch hk
  have hn : r.NotLog c := fun ch' hc' => by
    obtain rfl : ch = ch' := Option.some.inj (hch.symm.trans hc')
    exact hk
  have hx := h c hn
  have hxc : x.chans[c]? = some ch := hx.chan.trans hch
  refine ⟨fun hp => ?_, fun hp => ?_⟩
  · have ho := Recorder.trace_offered (sel := sel) (fits := True) (fun _ => hl) (hx.notLog hn) hc hxc ((hsel ch).mpr hp)
    have hall := hx.thenOffered (ho.thenLeaves (h' c (ho.notLog (hx.notLog hn))))
    exact ⟨hall.chan, fun hpart hm b hb i hi => hall.bytes trivial hpart hm hch hb hi⟩
  · have ho := Recorder.trace_leaves (sel := sel) (rec := rec) (fits := True) (fun _ => hl) (hx.notLog hn) fun ch' hc' => by
      obtain rfl : ch = ch' := Option.some.inj (hxc.symm.trans hc')
      exact Bool.eq_false_iff.mpr fun hs => hp ((hsel ch).mp hs)
    have hall := (hx.trans ho).trans (h' c (ho.notLog (hx.notLog hn)))
    exact ⟨hall.chan, fun hpart hm b hb i hi => hall.bytes trivial hpart hm ch hch b hb i hi⟩

/-- Work without a trace record offers none. -/
theorem Recorder.offeredTo_none (h : ∀ c, r.NotLog c → Recorder.Leaves c True r t) (hP : ∀ ch, ¬P ch) :
    t.OfferedTo r P rec := by
  intro c ch hc hch hk
  have hn : r.NotLog c := fun ch' hc' => by
    obtain rfl : ch = ch' := Option.some.inj (hch.symm.trans hc')
    exact hk
  exact ⟨fun hp => absurd hp (hP ch), fun _ => ⟨(h c hn).chan, fun hpart hm b hb i hi =>
    (h c hn).bytes trivial hpart hm ch hch b hb i hi⟩⟩

end

/-- The same on the state: work, then a trace record with the peaks that follow it, then work. -/
theorem State.offeredTo_of_trace {s x y t : State} {sel : Channel → Bool} {P : Channel → Prop} {rec : TraceRecord}
    (hp : s.powerFail = false) (h : ∀ c, State.SparesChannel c s x) 
    (hy : ∃ p : Peaks, y = { x with recorder := { x.recorder.trace sel rec with peaks := p } })
    (h' : ∀ c, State.SparesChannel c y t) (hl : (keyBytes rec).length ≤ 496) (hsel : ∀ ch, sel ch = true ↔ P ch) :
    t.recorder.OfferedTo s.recorder P rec := by
  have hpx : x.powerFail = false := (h 0).power hp
  obtain ⟨p, rfl⟩ := hy
  refine Recorder.offeredTo_of_trace (x := x.recorder) (fun c => (h c).recorder hp) (fun c hn => ?_) hl hsel
  have hpeaks : Recorder.Leaves c True (x.recorder.trace sel rec) { x.recorder.trace sel rec with peaks := p } :=
    .of_notes _ p _ _ _
  exact hpeaks.trans ((h' c).recorder hpx (hpeaks.notLog hn))

theorem ofKind_iff (k : ChannelKind) (ch : Channel) : ofKind k ch = true ↔ ch.kind = k := beq_iff_eq

/-! ### The scan completion, the speed window and the control cycle -/

theorem State.advance_spares (c : Nat) (s : State) (dt : Nat) : State.SparesChannel c s (s.advance dt) :=
  .of_same rfl rfl

/-- The state in which a scan completion makes its records. -/
def State.scanArrived (s : State) : State := s.scanned.demandArrival.outputArrival

theorem State.scanCompletes_eq (s : State) : s.scanCompletes = s.scanArrived.recordPressures := rfl

theorem scan_fits (u : Acquisition) (pscan : Nat) (now : Time) : ∀ m ∈ (u.scan pscan now).2, m.Fits := by
  intro m hm
  obtain ⟨i, -, hi⟩ := List.mem_filterMap.mp hm
  split at hi
  · exact Option.some.inj hi ▸ Message.fits_trigger _
  · cases hi

theorem State.scanArrived_spares (c : Nat) (s : State) : State.SparesChannel c s s.scanArrived := by
  have hd : State.SparesChannel c s s.scanned := .same_then (State.deliverAll_spares _ (scan_fits _ _ _)) rfl rfl
  exact (hd.trans (State.demandArrival_spares _)).trans (State.outputArrival_spares _)

theorem State.scanArrived_acq (s : State) : s.scanArrived.acq = (s.acq.scan s.config.pscan s.now).1 := by
  have h : State.Brakes { s with acq := (s.acq.scan s.config.pscan s.now).1 } s.scanArrived :=
    (s.scanned_delivers.brakes.trans (State.demandArrival_brakes _)).trans (State.outputArrival_brakes _)
  exact State.Delivers.acq h

/-- The pressure set of a scan. -/
theorem State.scanArrived_latest (s : State) :
    ∃ p, s.scanArrived.acq.latest = some p ∧ p.time = s.now ∧ s.scanArrived.acq.latestChans = p.chans := by
  rw [State.scanArrived_acq]
  exact ⟨_, rfl, rfl, rfl⟩

theorem exec_scanCompletion_offers {s : State} {dt : Nat} (hr : s.runPhase = .running) (hp : s.powerFail = false)
    (hd : s.acq.scanDue ≤ s.clock + dt) : ∃ t p, exec (.scanCompletion dt) s = .next t ∧
      p.time = (s.advance dt).now ∧ t.acq.latestChans = p.chans ∧
      t.recorder.OfferedTo s.recorder (fun ch => ch.kind = .pressureTrace) (pressureRecord p) := by
  obtain ⟨p, hlatest, htime, hchans⟩ := (s.advance dt).scanArrived_latest
  have hx (c : Nat) := (State.advance_spares c s dt).trans ((s.advance dt).scanArrived_spares c)
  have hacq := ((State.recordPressures_delivers (s.advance dt).scanArrived).trans
    (State.recordChannels_delivers (s.advance dt) (s.advance dt).scanArrived.recordPressures)).acq
  refine ⟨_, p, exec_scanCompletion_running hr hd, htime, ?_, ?_⟩
  · rw [State.scanCompletes_eq, hacq]
    exact hchans
  · rw [State.scanCompletes_eq]
    refine State.offeredTo_of_trace hp hx ?_ (fun c => State.recordChannels_spares _ _) ?_ (ofKind_iff _)
    · unfold State.recordPressures
      rw [hlatest]
      exact ⟨_, rfl⟩
    · simp [keyBytes, pressureRecord, Quad.toList, be32_eq, be16_eq]

/-- The state whose speed set an arrival records. -/
def State.speedsTaken (s : State) : State := { s.afterStage5 with slide := s.slideArrived }

theorem State.afterStage5_delivers (s : State) :
    State.Delivers { s with slide := s.slideReduced } s.afterStage5 := by
  have h₄ : State.Delivers { s with slide := s.slideMeasured } s.afterStage4 := State.deliverAll_delivers _ _
  exact (h₄.with_slide s.slideReduced).trans (State.deliverAll_delivers _ _)

theorem State.speedsTaken_delivers (s : State) : State.Delivers { s with slide := s.slideArrived } s.speedsTaken :=
  s.afterStage5_delivers.with_slide _

/-- The speed record, offered to the channels of its kind. -/
theorem State.recordSpeeds_eq (s : State) : ∃ p : Peaks, s.recordSpeeds =
    { s with recorder := { s.recorder.trace (ofKind .speedTrace)
        (speedRecord s.now s.slide.vref s.slide.speedAssisted (s.acq.axles.map AxleSpeed.v)
          (s.acq.axles.map AxleSpeed.valid) (s.slide.machines.map AxleMachine.state)) with peaks := p } } := ⟨_, rfl⟩

theorem speedRecord_length (t : Time) (vref : Nat) (assisted : Bool) (speeds : Tri Nat) (valid : Tri Bool)
    (states : Tri AxleState) : (keyBytes (speedRecord t vref assisted speeds valid states)).length ≤ 496 := by
  simp [keyBytes, speedRecord, Tri.toList, Tri.map2, be32_eq, be16_eq]

/-- The blend record, offered to the channels of its kind. -/
theorem State.recordBlend_eq (s : State) : ∃ p : Peaks, s.recordBlend =
    { s with recorder := { s.recorder.trace (ofKind .blendTrace)
        (blendRecord s.now s.demand.mode [s.demand.d, s.sharing.sd, s.sharing.ce, s.sharing.et, s.outputs.ecmd,
          s.outputs.status.eact, s.sharing.ft, s.outputs.fcmd, s.sharing.u, s.outputs.bcOut]) with
      peaks := p } } := ⟨_, rfl⟩

/-- The state in which the speed set of a window arrives. -/
def State.windowed (s : State) (faults : Tri Bool) : State :=
  { s with acq := s.acq.window faults s.handleLevel s.clock s.now s.stamp }

theorem State.advance_windowed_now (s : State) (dt : Nat) (faults : Tri Bool) :
    ((s.advance dt).windowed faults).speedsTaken.now = (s.advance dt).now :=
  congrArg reading ((s.advance dt).windowed faults).speedsTaken_delivers.clock

theorem State.windowExpires_eq (s : State) (faults : Tri Bool) : s.windowExpires faults =
    if (s.windowed faults).speedArrival.slide.standstill = s.slide.standstill then (s.windowed faults).speedArrival
    else (s.windowed faults).speedArrival.standstillChanged := rfl

theorem State.standstillChanged_spares (c : Nat) (s : State) : State.SparesChannel c s s.standstillChanged := by
  rw [State.standstillChanged_frame]
  exact .of_same rfl rfl

/-- After the arrival a window's expiry makes no record. -/
theorem State.windowExpires_spares (c : Nat) (s : State) (faults : Tri Bool) :
    State.SparesChannel c (s.windowed faults).speedsTaken.recordSpeeds (s.windowExpires faults) := by
  have he : (s.windowed faults).speedArrival = (s.windowed faults).speedsTaken.recordSpeeds :=
    (s.windowed faults).speedArrival_eq
  rw [← he, State.windowExpires_eq]
  generalize (s.windowed faults).speedArrival = y
  split
  · exact .refl y
  · exact State.standstillChanged_spares c y

theorem exec_speedWindowExpiry_offers {s : State} {dt : Nat} (hr : s.runPhase = .running) (hp : s.powerFail = false)
    (hd : s.acq.windowDue ≤ s.clock + dt) (f₁ f₂ f₃ : Bool) :
    ∃ t, exec (.speedWindowExpiry dt f₁ f₂ f₃) s = .next t ∧
      t.recorder.OfferedTo s.recorder (fun ch => ch.kind = .speedTrace)
        (speedRecord (s.advance dt).now t.slide.vref t.slide.speedAssisted (t.acq.axles.map AxleSpeed.v)
          (t.acq.axles.map AxleSpeed.valid) (t.slide.machines.map AxleMachine.state)) := by
  have hx (c : Nat) : State.SparesChannel c s ((s.advance dt).windowed ⟨f₁, f₂, f₃⟩).speedsTaken :=
    .same_then ((State.afterStage5_spares _).with_same rfl rfl) rfl rfl
  have hafter (c : Nat) := (s.advance dt).windowExpires_spares c ⟨f₁, f₂, f₃⟩
  have hslide := ((s.advance dt).windowExpires_quiet ⟨f₁, f₂, f₃⟩).2
  obtain ⟨u, timer, hw⟩ := (s.advance dt).windowExpires_spec ⟨f₁, f₂, f₃⟩
  have hacq : ((s.advance dt).windowExpires ⟨f₁, f₂, f₃⟩).acq = ((s.advance dt).windowed ⟨f₁, f₂, f₃⟩).acq := hw.acq
  refine ⟨_, exec_speedWindowExpiry_running hr hd f₁ f₂ f₃, ?_⟩
  rw [(State.recordChannels_delivers _ _).slide, (State.recordChannels_delivers _ _).acq, hacq, hslide,
    ← ((s.advance dt).windowed ⟨f₁, f₂, f₃⟩).speedsTaken_delivers.acq,
    ← State.advance_windowed_now s dt ⟨f₁, f₂, f₃⟩]
  exact State.offeredTo_of_trace hp hx (State.recordSpeeds_eq _)
    (fun c => (hafter c).trans (State.recordChannels_spares _ _)) (speedRecord_length _ _ _ _ _ _) (ofKind_iff _)

/-- The state in which a control cycle makes its record. -/
def State.cycleDone (s : State) : State :=
  let s₀ := { s with demand := { s.demand with cycleDue := s.demand.cycleDue + 20000 } }
  s₀.earlyTest.linkCheck.computeDemand.sharingStage.outputStage.evaluateMode

theorem State.cycleDone_spares (c : Nat) (s : State) : State.SparesChannel c s s.cycleDone := by
  have hl : State.SparesChannel c s
      (State.earlyTest { s with demand := { s.demand with cycleDue := s.demand.cycleDue + 20000 } }).linkCheck :=
    .same_then ((State.earlyTest_spares _).trans (State.linkCheck_spares _)) rfl rfl
  have hs (x : State) : State.SparesChannel c x x.computeDemand.sharingStage := .of_same rfl rfl
  exact ((hl.trans (hs _)).trans (State.outputStage_spares _)).trans (State.evaluateMode_spares _)

theorem State.cycleDone_now (s : State) : s.cycleDone.now = s.now :=
  congrArg reading ((State.recordBlend_delivers s.cycleDone).clock.symm.trans s.controlCycle_steady.clock)

theorem exec_controlCycle_offers {s : State} {dt : Nat} (hr : s.runPhase = .running) (hp : s.powerFail = false)
    (hd : s.demand.cycleDue ≤ s.clock + dt) : ∃ t, exec (.controlCycle dt) s = .next t ∧
      t.recorder.OfferedTo s.recorder (fun ch => ch.kind = .blendTrace)
        (blendRecord (s.advance dt).now t.demand.mode [t.demand.d, t.sharing.sd, t.sharing.ce, t.sharing.et,
          t.outputs.ecmd, t.outputs.status.eact, t.sharing.ft, t.outputs.fcmd, t.sharing.u, t.outputs.bcOut]) := by
  have hx (c : Nat) := (State.advance_spares c s dt).trans ((s.advance dt).cycleDone_spares c)
  have ht := (State.recordBlend_delivers (s.advance dt).cycleDone).trans
    (State.recordChannels_delivers (s.advance dt) (s.advance dt).controlCycle)
  refine ⟨_, exec_controlCycle_running hr hd, ?_⟩
  rw [ht.demand, ht.sharing, ht.outputs, ← State.cycleDone_now]
  exact State.offeredTo_of_trace hp hx (State.recordBlend_eq _) (fun c => State.recordChannels_spares _ _)
    (by simp [keyBytes, blendRecord, be32_eq, be16_eq]) (ofKind_iff _)

/-! ### Frames received and sent (R66) -/

/-- A frame that passes the form check: its parts, and that it fits a block (R60, R61). -/
theorem parseFrame_parts {bs : List Byte} {f : GoodFrame} (h : parseFrame bs = some f) :
    f.body = bs.take (bs.length - 2) ∧ f.check = bs.drop (bs.length - 2) ∧ 2 ≤ bs.length ∧ bs.length ≤ 26 := by
  unfold parseFrame at h
  split at h
  · cases h
  · rename_i kind _
    split at h
    · rename_i hform
      obtain ⟨-, hlen, -⟩ := hform
      obtain rfl := Option.some.inj h
      have hk : payloadLength kind ≤ 18 := by cases kind <;> decide
      exact ⟨rfl, rfl, by omega, by omega⟩
    · cases h

theorem classify_parts {bs : List Byte} {f : GoodFrame} (h : classify bs 0 = .good f) :
    f.body = bs.take (bs.length - 2) ∧ f.check = bs.drop (bs.length - 2) ∧ 2 ≤ bs.length ∧ bs.length ≤ 26 := by
  unfold classify at h
  split at h
  · cases h
  · split at h
    · split at h
      · cases h
      · rename_i g hg
        exact Reception.good.inj h ▸ parseFrame_parts hg
    · cases h

theorem mirrorRecord_length (t : Time) (own : Bool) (body check : List Byte) (line : LineState) :
    (keyBytes (mirrorRecord t own body check line)).length = body.length + check.length + 7 := by
  simp [keyBytes, mirrorRecord, be8_eq, be32_eq]
  omega

theorem State.mirror_eq (s : State) (bit : Nat) (own : Bool) (body check : List Byte) : ∃ p : Peaks,
    s.mirror bit own body check = { s with recorder := { s.recorder.trace
      (fun ch => ofKind .peerMirror ch && ch.mirror.getLsbD bit) (mirrorRecord s.now own body check s.line.state) with
        peaks := p } } := by
  refine ⟨(s.recorder.trace (fun ch => ofKind .peerMirror ch && ch.mirror.getLsbD bit)
    (mirrorRecord s.now own body check s.line.state)).peaks, ?_⟩
  unfold State.mirror
  dsimp only

theorem mirrored_iff (bit : Nat) (ch : Channel) : (ofKind .peerMirror ch && ch.mirror.getLsbD bit) = true ↔
    ch.kind = .peerMirror ∧ ch.mirror.getLsbD bit = true := by
  rw [Bool.and_eq_true, ofKind_iff]

section
variable {s : State} {frame : List Byte} {f : GoodFrame} (hr : s.runPhase = .running) (hp : s.powerFail = false)
  (htx : s.line.tx = .idle) (hl : s.line.state ≠ .off) (hc : classify frame 0 = .good f) (dt : Nat)
include hr hp htx hl hc

/-- A frame of another station is copied by the mirror set; a clash frame is not. -/
theorem exec_receiveCompletion_offers : ∃ t, exec (.receiveCompletion dt frame 0) s = .next t ∧
    t.recorder.OfferedTo s.recorder
      (fun ch => f.source ≠ s.address ∧ ch.kind = .peerMirror ∧ ch.mirror.getLsbD f.source = true)
      (mirrorRecord (s.advance dt).now false f.body f.check s.line.state) := by
  have hy (c : Nat) : State.SparesChannel c s (s.advance dt).afterReception := .of_same rfl rfl
  refine ⟨_, exec_receiveCompletion_good hr htx hl hc dt, ?_⟩
  by_cases hown : f.source = s.address
  · have ht : (s.advance dt).afterReception.takeFrame f = (s.advance dt).afterReception.ownAddressFrame f := if_pos hown
    rw [ht]
    refine Recorder.offeredTo_none (fun c => ?_) fun ch h => h.1 hown
    exact (((hy c).trans (State.ownAddressFrame_spares _ f)).trans (State.recordChannels_spares _ _)).recorder hp
  · have ht : (s.advance dt).afterReception.takeFrame f =
        ((s.advance dt).afterReception.dispatch f).mirror f.source false f.body f.check := if_neg hown
    have hstate := (s.advance dt).afterReception.dispatch_lineState f
    have hnow : ((s.advance dt).afterReception.dispatch f).now = (s.advance dt).now :=
      congrArg reading ((s.advance dt).afterReception.dispatch_steady f hown).clock
    have hlen : (keyBytes (mirrorRecord ((s.advance dt).afterReception.dispatch f).now false f.body f.check
        ((s.advance dt).afterReception.dispatch f).line.state)).length ≤ 496 := by
      obtain ⟨hbody, hcheck, -, hmax⟩ := classify_parts hc
      rw [mirrorRecord_length, hbody, hcheck, List.length_take, List.length_drop]
      omega
    have ho := State.offeredTo_of_trace hp (fun c => (hy c).trans (State.dispatch_spares _ f)) (State.mirror_eq _ _ _ _ _)
      (fun c => State.recordChannels_spares (s.advance dt) _) hlen
      (P := fun ch => f.source ≠ s.address ∧ ch.kind = .peerMirror ∧ ch.mirror.getLsbD f.source = true)
      fun ch => (mirrored_iff f.source ch).trans (by simp [hown])
    rw [ht, ← hnow]
    rw [hstate] at ho
    exact ho

end

/-- The state in which a frame sent is copied. -/
def State.copiesSent (s : State) (cls : TxClass) (f : TxFrame) : State :=
  { s.bump .framesSent with line := s.line.sent cls f s.clock s.now }

theorem State.copiesSent_now (s : State) (cls : TxClass) (f : TxFrame) : (s.copiesSent cls f).now = s.now :=
  congrArg reading (s.bump_clock .framesSent)

theorem State.copiesSent_state (s : State) (cls : TxClass) (f : TxFrame) :
    (s.copiesSent cls f).line.state = s.line.state := Line.leave_state s.line cls

theorem State.copiesSent_spares (c : Nat) (s : State) (cls : TxClass) (f : TxFrame) :
    State.SparesChannel c s (s.copiesSent cls f) := (s.bump_spares .framesSent).with_same rfl rfl

/-- A frame sent is copied before a probe's return to ACTIVE (log entry 46). -/
theorem State.sendDone_eq {s : State} {cls : TxClass} {f : TxFrame} (hf : s.line.head cls = some f) :
    s.sendDone cls =
      if s.line.state = .isolated then
        ((s.copiesSent cls f).mirror 31 true (s.ownBody f) (be16 (crc16 (s.ownBody f)).toNat)).probeSent
      else (s.copiesSent cls f).mirror 31 true (s.ownBody f) (be16 (crc16 (s.ownBody f)).toNat) := by
  have hl : (s.line.leave cls).lastSentEnd = s.line.lastSentEnd := by cases cls <;> rfl
  have hnow : (s.bump .framesSent).now = s.now := congrArg reading (s.bump_clock .framesSent)
  unfold State.sendDone
  rw [hf]
  dsimp only
  rw [State.bump_line, hl]
  rfl

/-- What follows the copy makes no record for a mirror channel. -/
theorem State.sendDone_spares {s : State} {cls : TxClass} {f : TxFrame} (hf : s.line.head cls = some f) (c : Nat) :
    State.SparesChannel c
      ((s.copiesSent cls f).mirror 31 true (s.ownBody f) (be16 (crc16 (s.ownBody f)).toNat)) (s.sendDone cls) := by
  rw [State.sendDone_eq hf]
  generalize (s.copiesSent cls f).mirror 31 true (s.ownBody f) (be16 (crc16 (s.ownBody f)).toNat) = x
  split
  · exact x.probeSent_spares
  · exact .refl x

theorem State.ownBody_length (s : State) {f : TxFrame} (h : f.payload.length = payloadLength f.kind) :
    (s.ownBody f).length ≤ 24 := by
  have hk : payloadLength f.kind ≤ 18 := by cases f.kind <;> decide
  simp [State.ownBody, frameBody, be8_eq, h]
  omega

theorem exec_frameSent_offers {s : State} {dt start : Nat} {cls : TxClass} {f : TxFrame} (hr : s.runPhase = .running)
    (hp : s.powerFail = false) (htx : s.line.tx = .sending cls start) (hf : s.line.head cls = some f)
    (hpl : f.payload.length = payloadLength f.kind) (h : start + (f.payload.length + 8) * 32 ≤ s.clock + dt) :
    ∃ t, exec (.frameSent dt) s = .next t ∧
      t.recorder.OfferedTo s.recorder (fun ch => ch.kind = .peerMirror ∧ ch.mirror.getLsbD 31 = true)
        (mirrorRecord (s.advance dt).now true (s.ownBody f) (be16 (crc16 (s.ownBody f)).toNat) s.line.state) := by
  have hx (c : Nat) := (State.advance_spares c s dt).trans ((s.advance dt).copiesSent_spares c cls f)
  have hafter (c : Nat) := (State.sendDone_spares (s := s.advance dt) (cls := cls) hf c).trans
    (State.recordChannels_spares (s.advance dt) _)
  refine ⟨_, exec_frameSent_running hr htx hf h, ?_⟩
  have ho := State.offeredTo_of_trace hp hx (State.mirror_eq _ _ _ _ _) hafter ?_ (mirrored_iff 31)
  · rw [State.copiesSent_now, State.copiesSent_state] at ho
    exact ho
  · have hbody := (s.advance dt).ownBody_length hpl
    rw [mirrorRecord_length, be16_eq]
    simp only [List.length_cons, List.length_nil]
    omega

/-- Collisions make no copy. -/
theorem exec_collisions_offer {s : State} (hp : s.powerFail = false) (dt : Nat) :
    ∀ e ∈ [Instr.collision dt, Instr.lateCollision dt], ∃ t, exec e s = .next t ∧
      ∀ rec, t.recorder.OfferedTo s.recorder (fun _ => False) rec := by
  refine List.forall_mem_cons.mpr ⟨⟨_, rfl, fun rec => ?_⟩, List.forall_mem_singleton.mpr ⟨_, rfl, fun rec => ?_⟩⟩
  · exact Recorder.offeredTo_none (fun c => (State.event_spares State.collisionEvent_spares s dt).recorder hp) fun _ => id
  · exact Recorder.offeredTo_none (fun c => (State.event_spares State.lateEvent_spares s dt).recorder hp) fun _ => id

/-! ### Event records (R135) -/

theorem State.logEvent_rest (s : State) (source : EventSource) (detail : List Byte) :
    { s.logEvent source detail with recorder := s.recorder } = s := by
  simp only [State.logEvent]

theorem State.logEvent_offers {source : EventSource} {detail : List Byte} {c : Nat} {ch : Channel} {s : State}
    (hc : c < 8) (hch : s.recorder.chans[c]? = some ch) (hlost : ∀ x ∈ s.recorder.chans, x.lost ≠ 65534) :
    (ch.kind ≠ .eventLog → (s.logEvent source detail).recorder.chans[c]? = some ch) ∧
    (ch.kind = .eventLog → (s.logEvent source detail).recorder.chans[c]? =
      (s.recorder.offer c (eventRecord s.now (eventSourceCode source) detail)).1.chans[c]?) := by
  have he : (s.logEvent source detail).recorder = s.recorder.logEvent s.now source detail := by
    simp only [State.logEvent]
  rw [he]
  refine ⟨fun hk => ?_, fun hk => ?_⟩
  · have hn : s.recorder.NotLog c := fun ch' hc' => by
      obtain rfl : ch = ch' := Option.some.inj (hch.symm.trans hc')
      exact hk
    exact (Recorder.logEvent_leaves (fits := False) hn s.now source False.elim).chan.trans hch
  · rw [Recorder.logEvent_eq hlost]
    exact (Recorder.offerAll_offered (fits := False) False.elim hc hch ((ofKind_iff _ _).mpr hk)).chan

/-- Settles O41, one event at a time: `exec_scanCompletion_offers`, `exec_speedWindowExpiry_offers`,
`exec_controlCycle_offers`, `exec_receiveCompletion_offers`, `exec_frameSent_offers`, `exec_collisions_offer` and
`State.logEvent_offers`. -/
theorem recordsAreOfferedByKind : Obligations.RecordsAreOfferedByKind := by
  refine ⟨fun dt s hr hp => ⟨fun hd => ?_, fun f₁ f₂ f₃ hd => exec_speedWindowExpiry_offers hr hp hd f₁ f₂ f₃,
    fun hd => ?_, fun frame f htx hl hc => ?_, fun start c f htx hf => ⟨fun hpl h => ?_, exec_collisions_offer hp dt⟩⟩,
    fun source detail c ch s hc hch hlost => ⟨s.logEvent_rest source detail, State.logEvent_offers hc hch hlost⟩⟩
  · obtain ⟨t, p, ht, htime, hchans, ho⟩ := exec_scanCompletion_offers hr hp hd
    refine ⟨t, ht, ?_⟩
    rw [hchans, ← htime]
    exact ho
  · obtain ⟨t, ht, ho⟩ := exec_controlCycle_offers hr hp hd
    exact ⟨t, ht, ho⟩
  · obtain ⟨t, ht, ho⟩ := exec_receiveCompletion_offers hr hp htx hl hc dt
    obtain ⟨hbody, hcheck, hmin, -⟩ := classify_parts hc
    have hn : (frame.take (frame.length - 2)).length = frame.length - 2 := by simp
    refine ⟨t, ht, ?_⟩
    unfold mirrorRecord at ho
    rw [hbody, hcheck, hn] at ho
    exact ho
  · obtain ⟨t, ht, ho⟩ := exec_frameSent_offers hr hp htx hf hpl h
    exact ⟨t, ht, ho⟩

end Sys2Proof.Machine
end

section
/-! SUPPORT. An effort statement at the peer table: the arrival at an entry by its state, the sequence check and the excess
check (R84 to R89), and the entry that gives its place to a new one (R84). -/

namespace Sys2Proof.Machine

/-! ### A statement accepted (R87, R88) -/

/-- The values that an accepted statement stores (R87). -/
def PeerEntry.storing (e : PeerEntry) (now : Time) (group : Nat) (seq : BitVec 8) (v : Statement) : PeerEntry :=
  { e with group := some group, lastSeq := some seq, last := some v, lastTime := some now, heard := some now }

section
variable {e : PeerEntry} (now : Time) (group : Nat) (seq : BitVec 8) (v : Statement)

theorem PeerEntry.accept_apart (h : e.state = .silent ∨ e.state = .absent) : e.accept now group seq v =
    { e.storing now group seq v with state := .joining, entered := now, firstTime := some now } := by
  unfold PeerEntry.accept
  rcases h with h | h <;> rw [h] <;> rfl

theorem PeerEntry.accept_settled (h : e.state = .live ∨ e.state = .unruly) :
    e.accept now group seq v = e.storing now group seq v := by
  rcases h with h | h <;> simp only [PeerEntry.accept, PeerEntry.storing, h]

/-- A second statement takes a JOINING entry to LIVE, or is its first one again when it comes too late (R88). -/
theorem PeerEntry.accept_joining {first : Time} (h : e.state = .joining) (hf : e.firstTime = some first) :
    e.accept now group seq v =
      if since now first ≤ 500 then
        { e.storing now group seq v with state := .live, entered := now, firstTime := none }
      else { e.storing now group seq v with firstTime := some now } := by
  simp only [PeerEntry.accept, PeerEntry.storing, h, hf]

end

/-! ### An excess (R86, R89) -/

theorem excessAfter_within {w : Excess} {now : Time} (h : since now w.start < 500) :
    excessAfter (some w) now = { w with count := min 16 (w.count + 1), last := now } := if_pos h

theorem excessAfter_past {w : Excess} {now : Time} (h : ¬since now w.start < 500) :
    excessAfter (some w) now = { count := 1, start := now, last := now } := if_neg h

/-- An excess in a window younger than 500 ms adds to it; any other begins a window. -/
theorem excessAfter_spec (x : Option Excess) (now : Time) :
    (excessAfter x now).last = now ∧
    (∀ w, x = some w → since now w.start < 500 →
      (excessAfter x now).start = w.start ∧ (excessAfter x now).count = min 16 (w.count + 1)) ∧
    ((∀ w, x = some w → 500 ≤ since now w.start) →
      (excessAfter x now).start = now ∧ (excessAfter x now).count = 1) := by
  cases x with
  | none => exact ⟨rfl, by simp, fun _ => ⟨rfl, rfl⟩⟩
  | some w =>
    by_cases h : since now w.start < 500
    · rw [excessAfter_within h]
      refine ⟨rfl, fun x hx _ => ?_, fun hw => absurd (hw w rfl) (by omega)⟩
      obtain rfl := Option.some.inj hx
      exact ⟨rfl, rfl⟩
    · rw [excessAfter_past h]
      refine ⟨rfl, fun x hx hlt => ?_, fun _ => ⟨rfl, rfl⟩⟩
      obtain rfl := Option.some.inj hx
      exact absurd hlt h

/-- Where the checks run, the sixteenth excess of a window takes every entry that is not UNRULY to UNRULY. -/
theorem PeerEntry.takeExcess_eq {e : PeerEntry} (h : e.state = .joining ∨ e.state = .live ∨ e.state = .unruly)
    (now : Time) : e.takeExcess now =
      if 16 ≤ (excessAfter e.excess now).count ∧ e.state ≠ .unruly then
        { e with excess := some (excessAfter e.excess now), state := .unruly, entered := now, firstTime := none }
      else { e with excess := some (excessAfter e.excess now) } := by
  have hs : (e.state = .live ∨ e.state = .joining) ↔ e.state ≠ .unruly := by
    rcases h with h | h | h <;> simp [h]
  unfold PeerEntry.takeExcess
  simp only [hs]

/-! ### A statement at its sender's entry (R84 to R86) -/

section
variable {e : PeerEntry} (now : Time) (group : Nat) {seq : BitVec 8} (v : Statement)

/-- An entry in SILENT or ABSENT takes a statement without the checks. -/
theorem PeerEntry.statement_apart (h : e.state = .silent ∨ e.state = .absent) :
    (e.statement now group seq v).1 = e.accept now group seq v := by
  unfold PeerEntry.statement
  rcases h with h | h <;> rw [h]

variable (h : e.state = .joining ∨ e.state = .live ∨ e.state = .unruly)
include h

theorem PeerEntry.statement_duplicate (hs : seqCheck e.lastSeq seq = .duplicate) :
    e.statement now group seq v = (e, [.count .duplicates]) := by
  unfold PeerEntry.statement
  rcases h with h | h | h <;> simp only [h, hs]

theorem PeerEntry.statement_stale (hs : seqCheck e.lastSeq seq = .stale) :
    e.statement now group seq v = (e, [.count .staleFrames]) := by
  unfold PeerEntry.statement
  rcases h with h | h | h <;> simp only [h, hs]

/-- A statement in order is an excess or is accepted. -/
theorem PeerEntry.statement_inOrder {diff : Nat} (hs : seqCheck e.lastSeq seq = .inOrder diff) :
    e.statement now group seq v =
      if (e.ordered seq diff).isExcess now then
        ((e.ordered seq diff).takeExcess now, .count .excesses ::
          if (e.ordered seq diff).state = ((e.ordered seq diff).takeExcess now).state then []
          else [peerEvent ((e.ordered seq diff).takeExcess now) (peerCode (e.ordered seq diff).state)
            (peerCode ((e.ordered seq diff).takeExcess now).state) .flooding])
      else ((e.ordered seq diff).accept now group seq v,
        acceptEvent (e.ordered seq diff) ((e.ordered seq diff).accept now group seq v)) := by
  unfold PeerEntry.statement
  rcases h with h | h | h <;> simp only [h, hs]

end

/-! ### The sequence check by the difference of the numbers (R85) -/

section
variable {last seq : BitVec 8}

theorem seqCheck_of_eq_zero (h : (seq - last).toNat = 0) : seqCheck (some last) seq = .duplicate := by
  obtain rfl : seq = last := by bv_omega
  exact seqCheck_duplicate seq

theorem seqCheck_of_pos (h : 0 < (seq - last).toNat) (h' : (seq - last).toNat < 128) :
    seqCheck (some last) seq = .inOrder (seq - last).toNat :=
  seqCheck_inOrder (fun heq => by bv_omega) h'

end

/-! ### The excess check (R86) -/

theorem PeerEntry.isExcess_iff {e : PeerEntry} {now previous : Time} (h : e.lastTime = some previous) :
    e.isExcess now = true ↔ since now previous < 20 := by
  unfold PeerEntry.isExcess
  rw [h]
  exact decide_eq_true_iff

section
variable {e : PeerEntry} {previous : Time} (now : Time) (group : Nat) {seq : BitVec 8} (v : Statement) {diff : Nat}
  (h : e.state = .joining ∨ e.state = .live ∨ e.state = .unruly) (hs : seqCheck e.lastSeq seq = .inOrder diff)
  (hp : e.lastTime = some previous)
include h hs hp

theorem PeerEntry.statement_accepted (hn : 20 ≤ since now previous) :
    (e.statement now group seq v).1 = (e.ordered seq diff).accept now group seq v := by
  have hx : ¬(e.ordered seq diff).isExcess now = true := by
    rw [PeerEntry.isExcess_iff (e := e.ordered seq diff) hp]
    omega
  rw [PeerEntry.statement_inOrder now group v h hs, if_neg hx]

theorem PeerEntry.statement_excess (hn : since now previous < 20) :
    (e.statement now group seq v).1 = (e.ordered seq diff).takeExcess now ∧
      ∃ events, (e.statement now group seq v).2 = .count .excesses :: events ∧
        ∀ m ∈ events, ∃ source detail, m = .event source detail := by
  have hx : (e.ordered seq diff).isExcess now = true := (PeerEntry.isExcess_iff (e := e.ordered seq diff) hp).mpr hn
  rw [PeerEntry.statement_inOrder now group v h hs, if_pos hx]
  refine ⟨rfl, _, rfl, ?_⟩
  split
  · simp
  · simp [peerEvent]

end

/-! ### The entry heard longest ago (R84) -/

/-- A dynamic entry in SILENT, which may be evicted. -/
def PeerEntry.evictable (e : PeerEntry) : Bool := !e.fixed && e.state == .silent

/-- How long ago an entry was heard. -/
def PeerEntry.ago (e : PeerEntry) (now : Time) : Nat := (e.heard.map (since now)).getD 0

theorem PeerEntry.evictable_iff (e : PeerEntry) : e.evictable = true ↔ e.fixed = false ∧ e.state = .silent := by
  simp [PeerEntry.evictable]

section
variable {now : Time} {e f : PeerEntry} {es : List PeerEntry}

theorem oldestSilent_cons_skips (h : ¬e.evictable = true) : oldestSilent now (e :: es) = oldestSilent now es :=
  if_neg h

theorem oldestSilent_cons_keeps (he : e.evictable = true)
    (h : ∀ f, oldestSilent now es = some f → f.ago now ≤ e.ago now) : oldestSilent now (e :: es) = some e := by
  refine (if_pos he).trans ?_
  cases hf : oldestSilent now es with
  | none => rfl
  | some f => exact if_neg (not_lt.mpr (h f hf))

theorem oldestSilent_cons_passes (he : e.evictable = true) (hf : oldestSilent now es = some f)
    (h : e.ago now < f.ago now) : oldestSilent now (e :: es) = some f := by
  refine (if_pos he).trans ?_
  rw [hf]
  exact if_pos h

theorem oldestSilent_none (h : ∀ e ∈ es, ¬e.evictable = true) : oldestSilent now es = none := by
  induction es with
  | nil => rfl
  | cons e es ih =>
    rw [oldestSilent_cons_skips (h e (by simp))]
    exact ih fun x hx => h x (by simp [hx])

theorem oldestSilent_evictable (h : oldestSilent now es = some f) : f.evictable = true := by
  induction es with
  | nil => cases h
  | cons e es ih =>
    by_cases he : e.evictable = true
    · by_cases hk : ∀ g, oldestSilent now es = some g → g.ago now ≤ e.ago now
      · rw [oldestSilent_cons_keeps he hk] at h
        cases h
        exact he
      · push Not at hk
        obtain ⟨g, hg, hlt⟩ := hk
        rw [oldestSilent_cons_passes he hg hlt, ← hg] at h
        exact ih h
    · rw [oldestSilent_cons_skips he] at h
      exact ih h

end

/-- The entry that those before it are younger than, and that none after it is older than. -/
theorem oldestSilent_append {now : Time} {old : PeerEntry} (ho : old.evictable = true) {before after : List PeerEntry}
    (hb : ∀ e ∈ before, e.evictable = true → e.ago now < old.ago now)
    (ha : ∀ e ∈ after, e.evictable = true → e.ago now ≤ old.ago now) :
    oldestSilent now (before ++ old :: after) = some old := by
  induction before with
  | nil =>
    exact oldestSilent_cons_keeps ho fun f hf => ha f (oldestSilent_mem hf) (oldestSilent_evictable hf)
  | cons x xs ih =>
    have hxs := ih fun e he => hb e (by simp [he])
    rw [List.cons_append]
    by_cases hx : x.evictable = true
    · exact oldestSilent_cons_passes hx hxs (hb x (by simp) hx)
    · rw [oldestSilent_cons_skips hx, hxs]

/-- In a table in ascending order it is the entry that every other one to evict is younger than, or as old as with a higher
address. -/
theorem oldestSilent_of_ascending {now : Time} {es : List PeerEntry} {old : PeerEntry}
    (hs : es.Pairwise fun e f => e.addr < f.addr) (hm : old ∈ es) (ho : old.evictable = true)
    (h : ∀ e ∈ es, e ≠ old → e.evictable = true →
      e.ago now < old.ago now ∨ e.ago now = old.ago now ∧ old.addr < e.addr) :
    oldestSilent now es = some old := by
  obtain ⟨before, after, rfl⟩ := List.append_of_mem hm
  obtain ⟨-, hafter, hbefore⟩ := List.pairwise_append.mp hs
  refine oldestSilent_append ho (fun e he hv => ?_) fun e he hv => ?_
  · have hlt : e.addr < old.addr := hbefore e he old (by simp)
    have hne : e ≠ old := fun heq => by rw [heq] at hlt; omega
    rcases h e (by simp [he]) hne hv with h | ⟨-, h⟩
    · exact h
    · omega
  · have hlt : old.addr < e.addr := (List.pairwise_cons.mp hafter).1 e he
    have hne : e ≠ old := fun heq => by rw [heq] at hlt; omega
    rcases h e (by simp [he]) hne hv with h | ⟨h, -⟩ <;> omega

/-! ### A statement at the table (R84) -/

section
variable {es : List PeerEntry} {addr : Nat} {now : Time} {group : Nat} {seq : BitVec 8} {v : Statement}

theorem statementArrival_some {e : PeerEntry} (h : findPeer es addr = some e) :
    statementArrival now addr group seq v es =
      (setPeer es (e.statement now group seq v).1, (e.statement now group seq v).2) := by
  unfold statementArrival
  rw [h]

theorem statementArrival_duplicate {e : PeerEntry} (he : findPeer es addr = some e)
    (h : e.state = .joining ∨ e.state = .live ∨ e.state = .unruly) (hs : seqCheck e.lastSeq seq = .duplicate) :
    statementArrival now addr group seq v es = (setPeer es e, [.count .duplicates]) := by
  rw [statementArrival_some he, PeerEntry.statement_duplicate now group v h hs]

theorem statementArrival_stale {e : PeerEntry} (he : findPeer es addr = some e)
    (h : e.state = .joining ∨ e.state = .live ∨ e.state = .unruly) (hs : seqCheck e.lastSeq seq = .stale) :
    statementArrival now addr group seq v es = (setPeer es e, [.count .staleFrames]) := by
  rw [statementArrival_some he, PeerEntry.statement_stale now group v h hs]

variable (h : findPeer es addr = none)
include h

theorem statementArrival_room (hl : es.length < 15) :
    (statementArrival now addr group seq v es).1 = insertPeer ((newPeer addr).accept now group seq v) es := by
  unfold statementArrival
  simp only [h, if_pos hl, createPeer]

theorem statementArrival_refused (hl : 15 ≤ es.length) (ho : oldestSilent now es = none) :
    statementArrival now addr group seq v es = (es, [.count .tableRefusals]) := by
  unfold statementArrival
  simp only [h, if_neg (not_lt.mpr hl), ho]

theorem statementArrival_evicts {old : PeerEntry} (hl : 15 ≤ es.length) (ho : oldestSilent now es = some old) :
    (statementArrival now addr group seq v es).1 =
      insertPeer ((newPeer addr).accept now group seq v) (removePeer es old.addr) := by
  unfold statementArrival
  simp only [h, if_neg (not_lt.mpr hl), ho, createPeer]

end

/-! ### The reception of a statement -/

theorem State.deliverAll_cons (s : State) (m : Message) (ms : List Message) :
    s.deliverAll (m :: ms) = (s.deliver m).deliverAll ms := rfl

/-- Event records leave the counters. -/
theorem State.deliverAll_events_counters {ms : List Message} (h : ∀ m ∈ ms, ∃ source detail, m = .event source detail)
    (s : State) : (s.deliverAll ms).counters = s.counters := by
  induction ms generalizing s with
  | nil => rfl
  | cons m ms ih =>
    obtain ⟨source, detail, rfl⟩ := h m (by simp)
    rw [State.deliverAll_cons, ih fun x hx => h x (by simp [hx])]
    exact s.logEvent_counters source detail

/-- A table that hands over one count and then event records alone has that count counted. -/
theorem State.withPeers_counted {r : List PeerEntry × List Message} {i : CounterId} {events : List Message}
    (hr : r.2 = .count i :: events) (he : ∀ m ∈ events, ∃ source detail, m = .event source detail) (s : State) :
    (s.withPeers r).counters.get i = countedOnce (s.counters.get i) := by
  unfold State.withPeers
  rw [hr, State.deliverAll_cons, State.deliverAll_events_counters he]
  exact (State.bump_get _ i i).trans (if_pos rfl)

/-- Another station's statement at the table, and copied to the mirror channels. -/
theorem State.takeFrame_statement (s : State) {f : GoodFrame} (hk : f.kind = .statement) (hf : f.source ≠ s.address) :
    s.takeFrame f = (s.peerStatement f).mirror f.source false f.body f.check := by
  unfold State.takeFrame State.dispatch
  rw [if_neg hf, hk]

/-- RECEIVE_COMPLETION of another station's statement in the running part: the table is as the arrival gives it, and
messages alone change the rest. -/
theorem exec_receiveCompletion_statement {s : State} {frame : List Byte} {f : GoodFrame} (hr : s.runPhase = .running)
    (htx : s.line.tx = .idle) (hl : s.line.state ≠ .off) (hc : classify frame 0 = .good f) (hk : f.kind = .statement)
    (hf : f.source ≠ s.address) (dt : Nat) : ∃ t, exec (.receiveCompletion dt frame 0) s = .next t ∧
      let r := statementArrival (s.advance dt).now f.source f.group f.seq (parseStatement f.payload) s.peers.entries
      t.peers.entries = r.1 ∧
      t.SameButMessages { s.advance dt with peers := { s.peers with entries := r.1 } } ∧
      ∀ i events, r.2 = .count i :: events → (∀ m ∈ events, ∃ source detail, m = .event source detail) →
        t.counters.get i = countedOnce (s.counters.get i) := by
  let x := (s.advance dt).afterReception
  have hd := ((x.withPeers_delivers (statementArrival x.now f.source f.group f.seq (parseStatement f.payload)
    x.peers.entries)).trans (State.mirror_delivers (x.peerStatement f) f.source false f.body f.check)).trans
    (State.recordChannels_delivers (s.advance dt) _)
  refine ⟨_, exec_receiveCompletion_good hr htx hl hc dt, ?_⟩
  intro r
  rw [x.takeFrame_statement hk hf]
  refine ⟨congrArg PeerTable.entries hd.peers, hd.sameButMessages.trans rfl, fun i events hi he => ?_⟩
  rw [State.recordChannels_counters, State.mirror_counters]
  exact State.withPeers_counted hi he x

/-- Settles O36: the event of the reception (`exec_receiveCompletion_statement`), the table without an entry of the sender
(`statementArrival_room`, `statementArrival_refused`, `statementArrival_evicts`), and the sender's entry by its state and the
checks (`PeerEntry.statement_apart`, `statementArrival_duplicate`, `statementArrival_stale`, `PeerEntry.statement_accepted`,
`PeerEntry.statement_excess`). -/
theorem statementArrivalUpdatesPeerTable : Obligations.StatementArrivalUpdatesPeerTable := by
  intro dt frame f s hr htx hl hc hk hf es now stored joining created
  let v := parseStatement f.payload
  obtain ⟨t, ht, hes, hsame, hcount⟩ := exec_receiveCompletion_statement hr htx hl hc hk hf dt
  have hnew : (newPeer f.source).accept now f.group f.seq v = created := PeerEntry.accept_apart now _ _ _ (.inr rfl)
  have hknown {e : PeerEntry} (he : findPeer es f.source = some e) :
      t.peers.entries = setPeer es (e.statement now f.group f.seq v).1 := by rw [hes, statementArrival_some he]
  refine ⟨t, ht, by rw [hes]; exact hsame, fun hnone hroom => ?_, fun hnone hfull hno => ?_,
    fun old h hnone hfull hsound hmem hfix hst hh hold => ?_, fun e he hst => ?_, fun e last he hst hlast => ?_⟩
  · rw [hes, statementArrival_room hnone hroom, hnew]
  · have ho : oldestSilent now es = none := oldestSilent_none fun e he hv => by
      obtain ⟨hfix, hst⟩ := e.evictable_iff.mp hv
      rcases hno e he with h | h
      · simp [hfix] at h
      · exact h hst
    have hr := statementArrival_refused (group := f.group) (seq := f.seq) (v := v) hnone hfull ho
    exact ⟨by rw [hes, hr], hcount .tableRefusals [] (by rw [hr]) (by simp)⟩
  · obtain ⟨-, hasc, -⟩ := hsound
    have ho : oldestSilent now es = some old :=
      oldestSilent_of_ascending hasc hmem (old.evictable_iff.mpr ⟨hfix, hst⟩) fun e he hne hv => by
        obtain ⟨hefix, hest⟩ := e.evictable_iff.mp hv
        obtain ⟨g, hg, hcmp⟩ := hold e he hne hefix hest
        simpa [PeerEntry.ago, hg, hh] using hcmp
    rw [hes, statementArrival_evicts hnone hfull ho, hnew]
    rfl
  · rw [hknown he, PeerEntry.statement_apart now _ _ hst, PeerEntry.accept_apart now _ _ _ hst]
    rfl
  · intro diff taken
    have hinOrder (h₀ : 0 < diff) (h₁ : diff < 128) : seqCheck e.lastSeq f.seq = .inOrder diff := by
      rw [hlast]
      exact seqCheck_of_pos h₀ h₁
    refine ⟨fun h₀ => ?_, fun h₁ => ?_, fun previous h₀ h₁ hp hn => ?_, fun previous h₀ h₁ hp hn => ?_⟩
    · have hr := statementArrival_duplicate (now := now) (group := f.group) (v := v) he hst
        (by rw [hlast]; exact seqCheck_of_eq_zero h₀)
      exact ⟨by rw [hes, hr], hcount .duplicates [] (by rw [hr]) (by simp)⟩
    · have hr := statementArrival_stale (now := now) (group := f.group) (v := v) he hst
        (by rw [hlast]; exact seqCheck_stale h₁)
      exact ⟨by rw [hes, hr], hcount .staleFrames [] (by rw [hr]) (by simp)⟩
    · have hacc : t.peers.entries = setPeer es ((e.ordered f.seq diff).accept now f.group f.seq v) := by
        rw [hknown he, PeerEntry.statement_accepted now _ _ hst (hinOrder h₀ h₁) hp hn]
      refine ⟨fun hset => ?_, fun first hj hfirst hle => ?_, fun first hj hfirst hgt => ?_⟩
      · rw [hacc, PeerEntry.accept_settled (e := e.ordered _ _) now _ _ _ hset]
        rfl
      · rw [hacc, PeerEntry.accept_joining (e := e.ordered _ _) now _ _ _ hj hfirst, if_pos hle]
        rfl
      · rw [hacc, PeerEntry.accept_joining (e := e.ordered _ _) now _ _ _ hj hfirst, if_neg (not_le.mpr hgt)]
        rfl
    · obtain ⟨hexc, events, hev, hevents⟩ := PeerEntry.statement_excess now f.group v hst (hinOrder h₀ h₁) hp hn
      obtain ⟨hlastExcess, hwithin, hpast⟩ := excessAfter_spec e.excess now
      refine ⟨excessAfter e.excess now, hlastExcess, hwithin, hpast, hcount .excesses events ?_ hevents, ?_⟩
      · rw [statementArrival_some he]
        exact hev
      · rw [hknown he, hexc, PeerEntry.takeExcess_eq (e := e.ordered _ _) hst]
        rfl

end Sys2Proof.Machine
end

section
/-! SUPPORT. The ageing timer on one entry, and on the table (R89 to R91). -/

namespace Sys2Proof.Machine

/-! ### One entry: the calming, the silence and the removal (R89, R90, R91) -/

section
variable {e : PeerEntry} {now : Time}

theorem PeerEntry.calm_keeps (h : e.state ≠ .unruly) : (e.calm now).1 = e := by
  rw [e.calm_eq, if_neg fun hc => h hc.1]

theorem PeerEntry.calm_unruly {w : Excess} (h : e.state = .unruly) (hw : e.excess = some w) : (e.calm now).1 =
    if 2000 ≤ since now w.last then { e with state := .live, entered := now, excess := none } else e := by
  have hc : e.isCalm now = true ↔ 2000 ≤ since now w.last := by simp [PeerEntry.isCalm, hw]
  rw [e.calm_eq]
  by_cases hx : 2000 ≤ since now w.last
  · rw [if_pos hx, if_pos ⟨h, hc.mpr hx⟩]
  · rw [if_neg hx, if_neg fun hcalm => hx (hc.mp hcalm.2)]

theorem PeerEntry.age_apart (h : e.state = .silent ∨ e.state = .absent) : (e.age now).1 = e := by
  rw [e.age_eq, if_neg (by rcases h with h | h <;> simp [h])]

/-- An entry in LIVE, JOINING or UNRULY that was last heard at `t`. -/
theorem PeerEntry.age_heard {t : Time} (h : e.state = .live ∨ e.state = .joining ∨ e.state = .unruly)
    (ht : e.heard = some t) : (e.age now).1 =
      if 500 ≤ since now t then { e with state := .silent, entered := now, firstTime := none } else e := by
  have ho : e.isOld now = true ↔ 500 ≤ since now t := by simp [PeerEntry.isOld, ht]
  rw [e.age_eq]
  by_cases hx : 500 ≤ since now t
  · rw [if_pos hx, if_pos ⟨h, ho.mpr hx⟩]
  · rw [if_neg hx, if_neg fun hold => hx (ho.mp hold.2)]

theorem PeerEntry.expire_keeps (h : e.state = .silent → since now e.entered < 3000) : (e.expire now).1 = some e := by
  unfold PeerEntry.expire
  rw [if_neg fun hx => absurd (h hx.1) (not_lt.mpr hx.2)]

theorem PeerEntry.expire_silent_past (h : e.state = .silent) (hl : 3000 ≤ since now e.entered) : (e.expire now).1 =
    if e.fixed = true then some { staticEntry e.addr with entered := now } else none := by
  unfold PeerEntry.expire
  rw [if_pos ⟨h, hl⟩]
  split <;> rfl

end

/-! ### One entry: the three rules together (log entry 34) -/

theorem PeerEntry.ageStep_fst (e : PeerEntry) (now : Time) :
    (e.ageStep now).1 = (((e.calm now).1.age now).1.expire now).1 := rfl

theorem since_self (now : Time) : since now now = 0 := by simp [since]

/-- What R90 makes of an entry in LIVE, JOINING or UNRULY is not yet due for removal. -/
theorem PeerEntry.expire_age {e : PeerEntry} {now : Time}
    (h : e.state = .live ∨ e.state = .joining ∨ e.state = .unruly) : ((e.age now).1.expire now).1 = some (e.age now).1 := by
  refine PeerEntry.expire_keeps ?_
  rw [e.age_eq]
  split
  · exact fun _ => by rw [since_self]; decide
  · intro hs
    rcases h with h | h | h <;> cases h.symm.trans hs

section
variable {e : PeerEntry} {now t : Time}

/-- An entry in LIVE or JOINING stays, or enters SILENT. -/
theorem PeerEntry.ageStep_heard (h : e.state = .live ∨ e.state = .joining) (ht : e.heard = some t) :
    (e.ageStep now).1 = some
      (if 500 ≤ since now t then { e with state := .silent, entered := now, firstTime := none } else e) := by
  have h' : e.state = .live ∨ e.state = .joining ∨ e.state = .unruly := h.imp_right .inl
  have hc : (e.calm now).1 = e := PeerEntry.calm_keeps (by rcases h with h | h <;> simp [h])
  rw [PeerEntry.ageStep_fst, hc, PeerEntry.expire_age h', PeerEntry.age_heard h' ht]

/-- An UNRULY entry is calmed or not, and the one that results stays or enters SILENT. -/
theorem PeerEntry.ageStep_unruly {w : Excess} (h : e.state = .unruly) (ht : e.heard = some t) (hw : e.excess = some w) :
    (e.ageStep now).1 = some
      (if 2000 ≤ since now w.last then
        if 500 ≤ since now t then { e with state := .silent, entered := now, firstTime := none, excess := none }
        else { e with state := .live, entered := now, excess := none }
      else if 500 ≤ since now t then { e with state := .silent, entered := now, firstTime := none }
      else e) := by
  rw [PeerEntry.ageStep_fst, PeerEntry.calm_unruly h hw]
  by_cases hx : 2000 ≤ since now w.last
  · let live : PeerEntry := { e with state := .live, entered := now, excess := none }
    have hl : live.state = .live ∨ live.state = .joining ∨ live.state = .unruly := .inl rfl
    rw [if_pos hx, if_pos hx]
    exact (PeerEntry.expire_age hl).trans (congrArg some (PeerEntry.age_heard hl ht))
  · rw [if_neg hx, if_neg hx, PeerEntry.expire_age (.inr (.inr h)), PeerEntry.age_heard (.inr (.inr h)) ht]

/-- An entry in SILENT or ABSENT is for R91 alone. -/
theorem PeerEntry.ageStep_apart (h : e.state = .silent ∨ e.state = .absent) : (e.ageStep now).1 = (e.expire now).1 := by
  rw [PeerEntry.ageStep_fst, PeerEntry.calm_keeps (by rcases h with h | h <;> simp [h]), PeerEntry.age_apart h]

end

/-! ### The table -/

/-- The entries after an expiry of the ageing timer. -/
def agedEntries (es : List PeerEntry) (now : Time) : List PeerEntry :=
  (es.map (PeerEntry.ageStep now)).filterMap Prod.fst

theorem mem_agedEntries {es : List PeerEntry} {now : Time} {x : PeerEntry} :
    x ∈ agedEntries es now ↔ ∃ e ∈ es, (e.ageStep now).1 = some x := by
  simp [agedEntries]

/-- In a table in ascending order no other entry has the address of an entry that is removed. -/
theorem agedEntries_removed {es : List PeerEntry} {now : Time} {e : PeerEntry}
    (hs : es.Pairwise fun e f => e.addr < f.addr) (hm : e ∈ es) (h : (e.ageStep now).1 = none) :
    ∀ x ∈ agedEntries es now, x.addr ≠ e.addr := by
  intro x hx heq
  obtain ⟨y, hy, hyx⟩ := mem_agedEntries.mp hx
  have haddr : y.addr = e.addr := (PeerEntry.ageStep_addr now y x hyx).symm.trans heq
  have hnodup : (es.map PeerEntry.addr).Nodup := List.pairwise_map.mpr (hs.imp fun hlt => hlt.ne)
  rw [List.inj_on_of_nodup_map hnodup hy hm haddr, h] at hyx
  cases hyx

/-- The expiry sets the next one, ages the entries and delivers their messages (R90). -/
theorem State.ageingExpires_delivers (s : State) : State.Delivers
    { s with peers := { entries := agedEntries s.peers.entries s.now, ageingDue := s.peers.ageingDue + 20000 } }
    s.ageingExpires := by
  let x : State := { s with peers := { s.peers with ageingDue := s.peers.ageingDue + 20000 } }
  exact x.withPeers_delivers (agedEntries s.peers.entries s.now,
    (s.peers.entries.map (PeerEntry.ageStep s.now)).flatMap Prod.snd)

/-- AGEING_TIMER_EXPIRY in the running part at its time: the next expiry, the entries aged, and messages. -/
theorem exec_ageingTimerExpiry_delivers {s : State} {dt : Nat} (hr : s.runPhase = .running)
    (hd : s.peers.ageingDue ≤ s.clock + dt) : ∃ t, exec (.ageingTimerExpiry dt) s = .next t ∧
      State.Delivers { s.advance dt with peers :=
        { entries := agedEntries s.peers.entries (s.advance dt).now, ageingDue := s.peers.ageingDue + 20000 } } t :=
  ⟨_, exec_ageingTimerExpiry_running hr hd,
    (s.advance dt).ageingExpires_delivers.trans (State.recordChannels_delivers _ _)⟩

/-- Settles O37: the event (`exec_ageingTimerExpiry_delivers`), and each entry by its state (`PeerEntry.ageStep_heard`,
`PeerEntry.ageStep_unruly`, `PeerEntry.ageStep_apart`). -/
theorem ageingTimerAgesEntries : Obligations.AgeingTimerAgesEntries := by
  intro dt e s hr hd hsound hm now
  obtain ⟨-, hasc, -⟩ := hsound
  obtain ⟨t, ht, hdel⟩ := exec_ageingTimerExpiry_delivers hr hd
  have hes : t.peers.entries = agedEntries s.peers.entries now := congrArg PeerTable.entries hdel.peers
  have hstep {x : PeerEntry} (h : (e.ageStep now).1 = some x) : x ∈ t.peers.entries := by
    rw [hes]
    exact mem_agedEntries.mpr ⟨e, hm, h⟩
  refine ⟨t, ht, congrArg PeerTable.ageingDue hdel.peers, ?_, hdel.sameButQueue, fun h hst hh hn => ?_,
    fun h hst hh hn => ?_, fun h w hst hh hw => ?_, fun hst hn => ?_, fun hst hn hfix => ?_, fun hst hn hfix => ?_,
    fun hst => ?_⟩
  · rw [hdel.peers]
    exact hdel.sameButMessages
  · exact hstep (by rw [PeerEntry.ageStep_heard hst hh, if_neg (not_le.mpr hn)])
  · exact hstep (by rw [PeerEntry.ageStep_heard hst hh, if_pos hn])
  · have hu := PeerEntry.ageStep_unruly (now := now) hst hh hw
    intro calm e'
    refine ⟨fun hc hn => hstep ?_, fun hc hn => hstep ?_, fun hc hn => hstep ?_, fun hc hn => hstep ?_⟩
    · rw [hu, if_neg hc, if_neg (not_le.mpr hn)]
    · rw [hu, if_neg hc, if_pos hn]
    · rw [hu, if_pos hc, if_neg (not_le.mpr hn)]
    · rw [hu, if_pos hc, if_pos hn]
  · exact hstep ((PeerEntry.ageStep_apart (.inl hst)).trans (PeerEntry.expire_keeps fun _ => hn))
  · rw [hes]
    refine agedEntries_removed hasc hm ?_
    rw [PeerEntry.ageStep_apart (.inl hst), PeerEntry.expire_silent_past hst hn, if_neg (by simp [hfix])]
  · refine hstep ?_
    rw [PeerEntry.ageStep_apart (.inl hst), PeerEntry.expire_silent_past hst hn, if_pos hfix]
  · refine hstep ((PeerEntry.ageStep_apart (.inr hst)).trans (PeerEntry.expire_keeps fun hs => ?_))
    cases hst.symm.trans hs

end Sys2Proof.Machine
end

section
/-! SUPPORT. The computation of the shares (R102 to R105): what each case leaves, and what the shares of all members of one
set come to. -/

namespace Sys2Proof.Machine

/-! ### Sums and the quotient rounded up -/

theorem sumOf_eq_sum (xs : List Nat) : sumOf xs = xs.sum := by
  induction xs with
  | nil => rfl
  | cons x xs ih => rw [sumOf, ih, List.sum_cons]

theorem sumOf_map_perm {α : Type} {xs ys : List α} (h : xs.Perm ys) (f : α → Nat) :
    sumOf (xs.map f) = sumOf (ys.map f) := by
  rw [sumOf_eq_sum, sumOf_eq_sum]
  exact (h.map f).sum_eq

theorem sumOf_map_congr {α : Type} {xs : List α} {f g : α → Nat} (h : ∀ x ∈ xs, f x = g x) :
    sumOf (xs.map f) = sumOf (xs.map g) := congrArg sumOf (List.map_congr_left h)

/-- The model's quotient is Mathlib's. -/
theorem ceilDiv_eq (a b : Nat) : ceilDiv a b = a ⌈/⌉ b := by
  rw [Nat.ceilDiv_eq_add_pred_div]
  cases b with
  | zero => rw [ceilDiv, Nat.div_zero, Nat.div_zero]
  | succ b => rfl

theorem ceilDiv_le_iff {a b c : Nat} (hb : 0 < b) : ceilDiv a b ≤ c ↔ a ≤ b * c := by
  rw [ceilDiv_eq]
  exact ceilDiv_le_iff_le_mul hb

/-! ### The cases (R102 to R105) -/

/-- The sums over the members (R102). -/
def Sharing.summed (r : Sharing) (ms : List Member) : Sharing :=
  { r with members := ms.length, sd := sumOf (ms.map Member.d), se := sumOf (ms.map Member.ce) }

/-- Case B leaves the capabilities and the sums (R104, R105). -/
theorem Sharing.caseB_frame (r : Sharing) (own : Member) (ms : List Member) :
    r.caseB own ms = { r with
      kind := .b, et := r.ce, hk := own.headroom, sh := sumOf (ms.map Member.headroom)
      fraction := (r.caseB own ms).fraction, ft := (r.caseB own ms).ft, u := (r.caseB own ms).u } := by
  unfold Sharing.caseB
  dsimp only
  split
  · rfl
  · split <;> rfl

/-- Case B by its headroom: none, enough for the shortfall, or too little (R104, R105). -/
theorem Sharing.caseB_spec {r x : Sharing} {own : Member} {ms : List Member} (hx : r.caseB own ms = x) :
    x.kind = .b ∧ x.et = x.ce ∧ x.hk = own.headroom ∧ x.sh = sumOf (ms.map Member.headroom) ∧
      (x.sh = 0 → x.fraction = none ∧ x.ft = 0 ∧ x.u = x.sd - x.se) ∧
      (0 < x.sh → x.sd - x.se ≤ x.sh →
        x.fraction = some (ceilDiv ((x.sd - x.se) * 65536) x.sh) ∧
          x.ft = min x.hk (ceilDiv (x.hk * ceilDiv ((x.sd - x.se) * 65536) x.sh) 65536) ∧ x.u = 0) ∧
      (0 < x.sh → x.sh < x.sd - x.se → x.fraction = none ∧ x.ft = x.hk ∧ x.u = x.sd - x.se - x.sh) := by
  unfold Sharing.caseB at hx
  dsimp only at hx
  split at hx
  · rename_i hzero
    subst hx
    exact ⟨rfl, rfl, rfl, hzero.symm ▸ rfl, fun _ => ⟨rfl, rfl, rfl⟩, fun h => absurd hzero h.ne',
      fun h => absurd hzero h.ne'⟩
  · rename_i hpos
    split at hx
    · rename_i hle
      subst hx
      exact ⟨rfl, rfl, rfl, rfl, fun h => absurd h hpos, fun _ _ => ⟨rfl, rfl, rfl⟩, fun _ h => absurd hle h.not_ge⟩
    · rename_i hnle
      subst hx
      exact ⟨rfl, rfl, rfl, rfl, fun h => absurd h hpos, fun _ h => absurd h hnle, fun _ _ => ⟨rfl, rfl, rfl⟩⟩

section
variable (r : Sharing) (own : Member) (peers : List Member)

theorem Sharing.compute_eq : r.compute own peers =
    let x := r.summed (own :: peers)
    if x.sd = 0 then { x with kind := .none, fraction := none, sh := 0, et := 0, ft := 0, u := 0 }
    else if x.sd ≤ x.se then x.caseA
    else x.caseB own (own :: peers) := rfl

/-- The computation leaves the capabilities, the alone reason and the sums. -/
theorem Sharing.compute_frame : r.compute own peers =
    { r.summed (own :: peers) with
      sh := (r.compute own peers).sh, kind := (r.compute own peers).kind, fraction := (r.compute own peers).fraction
      hk := (r.compute own peers).hk, et := (r.compute own peers).et, ft := (r.compute own peers).ft
      u := (r.compute own peers).u } := by
  rw [Sharing.compute_eq]
  dsimp only
  split
  · rfl
  · split
    · rfl
    · rw [Sharing.caseB_frame]

theorem Sharing.compute_ce : (r.compute own peers).ce = r.ce := by rw [Sharing.compute_frame]; rfl
theorem Sharing.compute_fx : (r.compute own peers).fx = r.fx := by rw [Sharing.compute_frame]; rfl
theorem Sharing.compute_alone : (r.compute own peers).alone = r.alone := by rw [Sharing.compute_frame]; rfl
theorem Sharing.compute_members : (r.compute own peers).members = 1 + peers.length := by
  rw [Sharing.compute_frame, Nat.add_comm]; rfl
theorem Sharing.compute_sd : (r.compute own peers).sd = own.d + sumOf (peers.map Member.d) := by
  rw [Sharing.compute_frame]; rfl
theorem Sharing.compute_se : (r.compute own peers).se = own.ce + sumOf (peers.map Member.ce) := by
  rw [Sharing.compute_frame]; rfl

end

section
variable {r x : Sharing} {own : Member} {peers : List Member}

/-- Without a demand nothing is asked (R102). -/
theorem Sharing.compute_none (hx : r.compute own peers = x) (h : x.sd = 0) :
    x.kind = .none ∧ x.fraction = none ∧ x.sh = 0 ∧ x.et = 0 ∧ x.ft = 0 ∧ x.u = 0 := by
  rw [← hx, Sharing.compute_sd] at h
  obtain rfl : { r.summed (own :: peers) with
      kind := .none, fraction := none, sh := 0, et := 0, ft := 0, u := 0 } = x := (if_pos h).symm.trans hx
  exact ⟨rfl, rfl, rfl, rfl, rfl, rfl⟩

/-- Case A: each station takes its part of the demand, by its CE (R103). -/
theorem Sharing.compute_caseA (hx : r.compute own peers = x) (h₀ : 0 < x.sd) (h : x.sd ≤ x.se) :
    x.kind = .a ∧ x.fraction = some (x.sd * 65536 / x.se) ∧ x.et = x.ce * (x.sd * 65536 / x.se) / 65536 ∧ x.ft = 0 ∧
      x.u = 0 ∧ x.sh = 0 := by
  rw [← hx, Sharing.compute_sd] at h₀ h
  rw [Sharing.compute_se] at h
  obtain rfl : (r.summed (own :: peers)).caseA = x :=
    ((if_neg h₀.ne').trans (if_pos h)).symm.trans hx
  exact ⟨rfl, rfl, rfl, rfl, rfl, rfl⟩

/-- Case B: the demand is above the electric capabilities (R103, R104). -/
theorem Sharing.compute_caseB (hx : r.compute own peers = x) (h : x.se < x.sd) :
    (r.summed (own :: peers)).caseB own (own :: peers) = x := by
  rw [← hx, Sharing.compute_sd, Sharing.compute_se] at h
  exact ((if_neg (Nat.zero_lt_of_lt h).ne').trans (if_neg (Nat.not_le.mpr h))).symm.trans hx

end

/-! ### All members' shares -/

/-- Parts of a number, each rounded down, together never pass it (R103). -/
theorem sum_map_mul_div_le (xs : List Nat) (e d : Nat) : (xs.map fun x => x * e / d).sum ≤ xs.sum * e / d := by
  induction xs with
  | nil => exact Nat.zero_le _
  | cons x xs ih =>
    rw [List.map_cons, List.sum_cons, List.sum_cons, Nat.add_mul]
    exact (Nat.add_le_add_left ih _).trans Nat.div_add_div_le_add_div

/-- Case A's electric targets, by the fraction of the sums (R103). -/
theorem electric_within {ces : List Nat} {sd : Nat} :
    (ces.map fun ce => ce * (sd * 65536 / ces.sum) / 65536).sum ≤ sd :=
  calc (ces.map fun ce => ce * (sd * 65536 / ces.sum) / 65536).sum
      ≤ ces.sum * (sd * 65536 / ces.sum) / 65536 := sum_map_mul_div_le _ _ _
    _ ≤ sd * 65536 / 65536 := Nat.div_le_div_right (Nat.mul_div_le _ _)
    _ = sd := Nat.mul_div_cancel _ (by decide)

/-- No electric target of case A is above its CE (R103). -/
theorem electric_le {ce sd se : Nat} (h : sd ≤ se) : ce * (sd * 65536 / se) / 65536 ≤ ce := by
  have he : sd * 65536 / se ≤ 65536 := Nat.div_le_of_le_mul (Nat.mul_le_mul_right 65536 h)
  exact Nat.div_le_of_le_mul ((Nat.mul_le_mul_left ce he).trans_eq (Nat.mul_comm _ _))

/-- A fraction of at most 65536 asks for no more than the headroom. -/
theorem ceilDiv_fraction_le {h g : Nat} (hg : g ≤ 65536) : ceilDiv (h * g) 65536 ≤ h :=
  (ceilDiv_le_iff (by decide)).mpr (by rw [Nat.mul_comm 65536]; exact Nat.mul_le_mul_left h hg)

/-- Parts of a number, each rounded up, together are not below it. -/
theorem sum_mul_le_ceilDiv (hs : List Nat) (g : Nat) :
    hs.sum * g ≤ 65536 * (hs.map fun h => ceilDiv (h * g) 65536).sum := by
  induction hs with
  | nil => simp
  | cons h hs ih =>
    have hle : h * g ≤ 65536 * ceilDiv (h * g) 65536 := (ceilDiv_le_iff (by decide)).mp le_rfl
    rw [List.map_cons, List.sum_cons, List.sum_cons, Nat.add_mul, Nat.mul_add]
    exact Nat.add_le_add hle ih

/-- Case B's friction targets cover a shortfall within the headroom: the fraction is rounded up and so is every target
(R105). -/
theorem friction_covers {hs : List Nat} {delta : Nat} (h₀ : 0 < hs.sum) (h : delta ≤ hs.sum) :
    delta ≤ (hs.map fun x => min x (ceilDiv (x * ceilDiv (delta * 65536) hs.sum) 65536)).sum := by
  set g := ceilDiv (delta * 65536) hs.sum
  have hg₁ : g ≤ 65536 := (ceilDiv_le_iff h₀).mpr (Nat.mul_le_mul_right 65536 h)
  have hmin : ∀ x ∈ hs, min x (ceilDiv (x * g) 65536) = ceilDiv (x * g) 65536 := fun x _ =>
    min_eq_right (ceilDiv_fraction_le hg₁)
  have hcover : delta * 65536 ≤ hs.sum * g := (ceilDiv_le_iff h₀).mp le_rfl
  rw [List.map_congr_left hmin]
  have hparts := sum_mul_le_ceilDiv hs g
  omega

/-- A member's share, computed by its own station over the set (R102 to R105). -/
def Sharing.shareOf (r : Sharing) (ms : List Member) (m : Member) : Sharing :=
  Sharing.compute { r with ce := m.ce, fx := m.fx, al := m.al } m (ms.erase m)

section
variable {r : Sharing} {ms : List Member} {m : Member} (hm : m ∈ ms)

theorem Sharing.shareOf_ce : (r.shareOf ms m).ce = m.ce := Sharing.compute_ce _ _ _

include hm

/-- A sum is the same whichever member is put first. -/
theorem sumOf_own_first (f : Member → Nat) : sumOf ((m :: ms.erase m).map f) = sumOf (ms.map f) :=
  sumOf_map_perm (List.perm_cons_erase hm).symm f

theorem Sharing.shareOf_sd : (r.shareOf ms m).sd = sumOf (ms.map Member.d) :=
  (Sharing.compute_sd _ _ _).trans (sumOf_own_first hm Member.d)

theorem Sharing.shareOf_se : (r.shareOf ms m).se = sumOf (ms.map Member.ce) :=
  (Sharing.compute_se _ _ _).trans (sumOf_own_first hm Member.ce)

/-- Case A at one station (R103). -/
theorem Sharing.shareOf_caseA (h₀ : 0 < sumOf (ms.map Member.d))
    (h : sumOf (ms.map Member.d) ≤ sumOf (ms.map Member.ce)) :
    (r.shareOf ms m).et = m.ce * (sumOf (ms.map Member.d) * 65536 / sumOf (ms.map Member.ce)) / 65536 ∧
      (r.shareOf ms m).ft = 0 := by
  rw [← Sharing.shareOf_sd (r := r) hm] at h₀ h ⊢
  rw [← Sharing.shareOf_se (r := r) hm] at h ⊢
  rw [← Sharing.shareOf_ce (r := r) (ms := ms)]
  obtain ⟨-, -, het, hft, -, -⟩ := Sharing.compute_caseA rfl h₀ h
  exact ⟨het, hft⟩

/-- Case B at one station, by what the headroom of all comes to (R104, R105). -/
theorem Sharing.shareOf_caseB {sd se sh : Nat} (hsd : sumOf (ms.map Member.d) = sd)
    (hse : sumOf (ms.map Member.ce) = se) (hsh : sumOf (ms.map Member.headroom) = sh) (h : se < sd) :
    (r.shareOf ms m).et = m.ce ∧
      (sd - se ≤ sh →
        (r.shareOf ms m).ft = min m.headroom (ceilDiv (m.headroom * ceilDiv ((sd - se) * 65536) sh) 65536) ∧
          (r.shareOf ms m).u = 0) ∧
      (sh < sd - se → (r.shareOf ms m).ft = m.headroom ∧ (r.shareOf ms m).u = sd - se - sh) := by
  have hle : m.headroom ≤ sh := by
    rw [← hsh, sumOf_eq_sum]
    exact List.single_le_sum (fun _ _ => Nat.zero_le _) _ (List.mem_map_of_mem hm)
  rw [← Sharing.shareOf_sd (r := r) hm] at hsd
  rw [← Sharing.shareOf_se (r := r) hm] at hse
  subst hsd hse
  obtain ⟨-, het, hhk, hshare, hempty, hcovered, hshort⟩ :=
    Sharing.caseB_spec (Sharing.compute_caseB (x := r.shareOf ms m) rfl h)
  obtain rfl : _ = sh := (hshare.trans (sumOf_own_first hm Member.headroom)).trans hsh
  rw [hhk] at hcovered hshort
  refine ⟨het.trans Sharing.shareOf_ce, fun hc => (hcovered ((Nat.sub_pos_of_lt h).trans_le hc) hc).2, fun hlt => ?_⟩
  rcases Nat.eq_zero_or_pos (r.shareOf ms m).sh with h₀ | h₀
  · rw [h₀] at hle ⊢
    obtain ⟨-, hft, hu⟩ := hempty h₀
    exact ⟨hft.trans (Nat.le_zero.mp hle).symm, hu⟩
  · exact (hshort h₀ hlt).2

end

/-- Settles O20: every station's share by `Sharing.shareOf_caseA` and `Sharing.shareOf_caseB`; the electric targets are
rounded down (`electric_within`) and the friction targets up (`friction_covers`). -/
theorem sharesCoverTheGroupsDemand : Obligations.SharesCoverTheGroupsDemand := by
  intro r ms sd se sh share
  have hB (hlt : se < sd) (m : Member) (hm : m ∈ ms) :=
    Sharing.shareOf_caseB (r := r) (sd := sd) (se := se) (sh := sh) hm rfl rfl rfl hlt
  refine ⟨fun h₀ h => ?_, fun hlt m hm => ?_, fun hlt hle => ?_, fun hlt hsh => ?_⟩
  · have hA (m : Member) (hm : m ∈ ms) := Sharing.shareOf_caseA (r := r) hm h₀ h
    refine ⟨?_, fun m hm => ?_⟩
    · have hle := electric_within (ces := ms.map Member.ce) (sd := sd)
      rw [List.map_map, ← sumOf_eq_sum, ← sumOf_eq_sum] at hle
      exact (sumOf_map_congr fun m hm => (hA m hm).1).trans_le hle
    · obtain ⟨het, hft⟩ := hA m hm
      exact ⟨het.trans_le (electric_le h), hft⟩
  · obtain ⟨het, hcovered, hshort⟩ := hB hlt m hm
    refine ⟨het, ?_⟩
    rcases le_or_gt (sd - se) sh with hle | hsh
    · exact (hcovered hle).1.trans_le (min_le_left _ _)
    · exact (hshort hsh).1.le
  · have hcovered (m : Member) (hm : m ∈ ms) := (hB hlt m hm).2.1 hle
    refine ⟨?_, fun m hm => (hcovered m hm).2⟩
    have hcover := friction_covers (hs := ms.map Member.headroom) (delta := sd - se)
    rw [List.map_map, ← sumOf_eq_sum, ← sumOf_eq_sum] at hcover
    exact (hcover ((Nat.sub_pos_of_lt hlt).trans_le hle) hle).trans_eq
      (sumOf_map_congr fun m hm => (hcovered m hm).1).symm
  · have hshort (m : Member) (hm : m ∈ ms) := (hB hlt m hm).2.2 hsh
    exact ⟨sumOf_map_congr fun m hm => (hshort m hm).1, fun m hm => (hshort m hm).2⟩

end Sys2Proof.Machine
end

section
/-! SUPPORT. The early statement test (R109) and the line after a control cycle. -/

namespace Sys2Proof.Machine

/-! ### The test (R109) -/

/-- A change of at least 100 EU and at least a tenth of the old value (R109). -/
theorem bigChange_iff (new old : Nat) : bigChange new old = true ↔
    (old + 100 ≤ new ∨ new + 100 ≤ old) ∧ (old ≤ 10 * (new - old) ∨ old ≤ 10 * (old - new)) := by
  unfold bigChange
  dsimp only
  rw [Bool.and_eq_true, decide_eq_true_iff, decide_eq_true_iff]
  omega

theorem earlyDue_iff (new old : Statement) : earlyDue new old = true ↔
    bigChange new.ce old.ce = true ∨ bigChange new.fx old.fx = true ∨ bigChange new.al old.al = true ∨
      new.mode ≠ old.mode := by
  simp only [earlyDue, Bool.or_eq_true, bne_iff_ne, or_assoc]

/-- The test finds a statement due. -/
def State.Early (s : State) : Prop :=
  s.line.state = .active ∧ s.line.queuedInActive = true ∧
    ∃ old, s.line.lastQueued = some old ∧ earlyDue s.buildStatement old = true

section
variable {s : State}

theorem State.earlyTest_of_not_early (h : ¬s.Early) : s.earlyTest = s := by
  unfold State.earlyTest
  split
  · rfl
  · rename_i old hold
    exact if_neg fun ⟨hs, hq, hd⟩ => h ⟨hs, hq, old, hold, hd⟩

theorem State.earlyTest_of_early (h : s.Early) : s.earlyTest = s.makeDue := by
  obtain ⟨hs, hq, old, hold, hd⟩ := h
  simp only [State.earlyTest, hold]
  exact if_pos ⟨hs, hq, hd⟩

/-- Within a spacing interval the statement stays due (R78). -/
theorem State.earlyTest_held (h : s.Early) (hb : ¬s.BothIntervalsPassed) :
    s.earlyTest = { s with line := { s.line with due := true } } := by
  rw [State.earlyTest_of_early h]
  exact (if_pos h.1).trans (if_neg fun hs => hb (s.spaced_iff.mp hs))

/-- After both it is queued (R78). -/
theorem State.earlyTest_spaced (h : s.Early) (hb : s.BothIntervalsPassed) : s.earlyTest = s.queueStatement := by
  rw [State.earlyTest_of_early h]
  exact (if_pos h.1).trans (if_pos (s.spaced_iff.mpr hb))

end

theorem State.queueStatement_line (s : State) :
    s.queueStatement.line = s.line.queued s.freshStatement s.buildStatement s.clock := by
  rw [State.queueStatement_eq, State.bumpIf_line]

/-- The test leaves the time of the entry into ACTIVE. -/
theorem State.earlyTest_activeSince (s : State) : s.earlyTest.line.activeSince = s.line.activeSince := by
  by_cases h : s.Early
  · by_cases hb : s.BothIntervalsPassed
    · rw [State.earlyTest_spaced h hb, State.queueStatement_line, Line.queued, Line.entered_frame]
    · rw [State.earlyTest_held h hb]
  · rw [State.earlyTest_of_not_early h]

/-! ### The line after a cycle -/

section
variable {k l m : Line} (h : m.SameButQueue l)
include h

theorem Line.SameButQueue.trans (h' : l.SameButQueue k) : m.SameButQueue k := by
  unfold Line.SameButQueue at h h' ⊢
  rw [← h] at h'
  exact h'

theorem Line.SameButQueue.state : m.state = l.state := by unfold Line.SameButQueue at h; rw [← h]
theorem Line.SameButQueue.activeSince : m.activeSince = l.activeSince := by unfold Line.SameButQueue at h; rw [← h]
theorem Line.SameButQueue.slot : m.slot = l.slot := by unfold Line.SameButQueue at h; rw [← h]
theorem Line.SameButQueue.nextStatement : m.nextStatement = l.nextStatement := by
  unfold Line.SameButQueue at h; rw [← h]

end

/-- A line with a statement queued, seen from the one before. -/
theorem Line.SameButQueue.of_queued {l m : Line} {f : TxFrame} {v : Statement} {clock : Nat}
    (h : m.SameButQueue (l.queued f v clock)) : m.SameButQueue { l with
      slot := m.slot, nextStatement := m.nextStatement, due := false, statementDue := some (clock + 100000)
      lastQueued := some v, lastQueuedAt := some clock, queuedInActive := true } := by
  have hslot : m.slot = (l.entered f).slot := h.slot
  have hnext : m.nextStatement = (l.entered f).nextStatement := h.nextStatement
  rw [Line.queued, Line.entered_frame] at h
  rw [hslot, hnext]
  exact h

/-- The state in which a cycle begins its work, the next expiry of its timer set. -/
def State.cycleBegun (s : State) : State :=
  { s with demand := { s.demand with cycleDue := s.demand.cycleDue + 20000 } }

/-- What follows the early statement test in a cycle leaves the line but for its urgent queue. -/
theorem State.controlCycle_line (s : State) : s.controlCycle.line.SameButQueue s.cycleBegun.earlyTest.line := by
  have hlink (x : State) : x.linkCheck.line.SameButQueue x.line :=
    (State.deliverAll_delivers { x with outputs := (x.outputs.linkCheck x.config.etol).1 } _).sameButQueue
  have hstage (x : State) : x.outputStage.line.SameButQueue x.line := x.outputStage_delivers.sameButQueue
  have hmode (x : State) : x.evaluateMode.line.SameButQueue x.line := x.evaluateMode_delivers.sameButQueue
  have hblend (x : State) : x.recordBlend.line.SameButQueue x.line := x.recordBlend_delivers.sameButQueue
  exact (hblend _).trans ((hmode _).trans ((hstage s.cycleBegun.earlyTest.linkCheck.computeDemand.sharingStage).trans
    (hlink s.cycleBegun.earlyTest)))

section
variable {s : State} {dt : Nat} (hr : s.runPhase = .running) (hd : s.demand.cycleDue ≤ s.clock + dt)
include hr hd

theorem exec_controlCycle_line : ∃ t, exec (.controlCycle dt) s = .next t ∧
    t.line.SameButQueue (s.advance dt).cycleBegun.earlyTest.line :=
  ⟨_, exec_controlCycle_running hr hd,
    (State.recordChannels_delivers _ _).sameButQueue.trans (s.advance dt).controlCycle_line⟩

end

/-- Settles O30: the line is that of the early statement test (`exec_controlCycle_line`), by its cases
(`State.earlyTest_of_not_early`, `State.earlyTest_held`, `State.earlyTest_spaced`). -/
theorem earlyTestMakesStatementDue : Obligations.EarlyTestMakesStatementDue := by
  intro dt s hr hd now v big early
  obtain ⟨t, ht, hl⟩ := exec_controlCycle_line hr hd
  have hearly : (s.advance dt).cycleBegun.Early ↔ early := by
    simp only [State.Early, earlyDue_iff, bigChange_iff]
    rfl
  refine ⟨t, ht, fun h => ?_, fun h hb => ?_, fun h hb => ?_⟩
  · rw [State.earlyTest_of_not_early (h ∘ hearly.mp)] at hl
    exact hl
  · rw [State.earlyTest_held (hearly.mpr h) hb] at hl
    exact hl
  · rw [State.earlyTest_spaced (hearly.mpr h) hb, State.queueStatement_line] at hl
    exact hl.of_queued

end Sys2Proof.Machine
end

section
/-! SUPPORT. The membership set and the shares of a control cycle (R97 to R105). -/

namespace Sys2Proof.Machine

/-! ### The station's own capabilities (R98, R99) -/

/-- CE by R98: 0 in five cases, limited near Eact while FADE stands. -/
theorem ownCe_eq (c : Configuration) (mode : Mode) (o : Outputs) (al : Nat) : ownCe c mode o al =
    if mode = .emergency ∨ o.linkUp = false ∨ c.emax = 0 ∨ o.status.fault = true ∨ o.status.ready = false then 0
    else if o.fade = true then min o.status.eav (min al (o.status.eact + c.etol))
    else min o.status.eav al := by
  simp only [ownCe, ite_or]

/-- The link check changes the link state, its runs and the status alone (R114, R115). -/
theorem Outputs.linkCheck_frame (o : Outputs) (etol : Nat) :
    (o.linkCheck etol).1 = { o with
      linkUp := (o.linkCheck etol).1.linkUp, missRun := (o.linkCheck etol).1.missRun
      validRun := (o.linkCheck etol).1.validRun, fade := (o.linkCheck etol).1.fade
      shortRun := (o.linkCheck etol).1.shortRun, goodRun := (o.linkCheck etol).1.goodRun
      status := (o.linkCheck etol).1.status } := by
  unfold Outputs.linkCheck
  split
  · unfold Outputs.miss
    dsimp only
    split <;> rfl
  · split
    · unfold Outputs.fadeRuns
      dsimp only
      split
      · rfl
      · split
        · split <;> rfl
        · rfl
    · rfl

theorem Outputs.linkCheck_frictionFault (o : Outputs) (etol : Nat) :
    (o.linkCheck etol).1.frictionFault = o.frictionFault := by rw [Outputs.linkCheck_frame]

/-! ### The membership set (R100, R101) -/

/-- The last statements of the peers in the membership set (R100). -/
def memberStatements (es : List PeerEntry) (group : Nat) : List Statement :=
  es.filterMap fun e =>
    if e.state = .live ∧ e.group = some group ∧ (e.last.map fun v => v.mode == 2) = some false then e.last else none

theorem peerMembers_eq (es : List PeerEntry) (group : Nat) :
    peerMembers es group = (memberStatements es group).map peerMember := by
  unfold peerMembers memberStatements
  rw [List.map_filterMap]
  refine List.filterMap_congr fun e _ => ?_
  cases e.last with
  | none => simp
  | some v =>
    have hiff : (e.liveInGroup group && !v.inEmergency) = true ↔
        e.state = .live ∧ e.group = some group ∧ ((some v).map fun v => v.mode == 2) = some false := by
      simp [PeerEntry.liveInGroup, Statement.inEmergency, and_assoc]
    simp only [hiff]
    split <;> rfl

/-- In ACTIVE for 300 ms (R100). -/
def Line.Joined (l : Line) (now : Time) : Prop :=
  l.state = .active ∧ ∃ e, l.activeSince = some e ∧ 300 ≤ since now e

section
variable {l : Line} {now : Time}

theorem aloneReason_line (h : l.state ≠ .active) : aloneReason l now = .line := if_neg h

theorem aloneReason_joinHold (h : l.state = .active) (hj : ¬l.Joined now) : aloneReason l now = .joinHold := by
  rw [aloneReason, if_pos h]
  split
  · rfl
  · rename_i t ht
    exact if_pos (Nat.not_le.mp fun hle => hj ⟨h, t, ht, hle⟩)

theorem aloneReason_joined (hj : l.Joined now) : aloneReason l now = .none := by
  obtain ⟨h, t, ht, hle⟩ := hj
  rw [aloneReason, if_pos h, ht]
  exact if_neg (Nat.not_lt.mpr hle)

theorem aloneReason_alone (hj : ¬l.Joined now) : aloneReason l now ≠ .none := by
  by_cases h : l.state = .active
  · rw [aloneReason_joinHold h hj]
    decide
  · rw [aloneReason_line h]
    decide

/-- The reason is worked out from the state of the line and the time of its entry into ACTIVE. -/
theorem aloneReason_congr {m : Line} (hs : m.state = l.state) (ha : m.activeSince = l.activeSince) :
    aloneReason m now = aloneReason l now := by rw [aloneReason, aloneReason, hs, ha]

end

/-! ### The stage of a cycle (R97) -/

/-- Outside EMERGENCY the stage computes the shares over the membership set. -/
theorem Sharing.stage_other (r : Sharing) {mode : Mode} (h : mode ≠ .emergency) (d ce fx al : Nat) (alone : Alone)
    (peers : List Member) : r.stage mode d ce fx al alone peers =
      Sharing.compute { r with ce := ce, fx := fx, al := al, alone := alone } ⟨d, ce, fx, al⟩
        (if alone = .none then peers else []) := if_neg h

theorem Sharing.stage_ce_fx (r : Sharing) (mode : Mode) (d ce fx al : Nat) (alone : Alone) (peers : List Member) :
    (r.stage mode d ce fx al alone peers).ce = ce ∧ (r.stage mode d ce fx al alone peers).fx = fx := by
  by_cases h : mode = .emergency
  · rw [h]
    exact ⟨rfl, rfl⟩
  · rw [Sharing.stage_other r h]
    exact ⟨Sharing.compute_ce _ _ _, Sharing.compute_fx _ _ _⟩

/-- The outputs stage works out Pmax_eff (R121). -/
theorem State.stagedOutputs_pmaxEff (s : State) :
    s.stagedOutputs.pmaxEff = serviceLimit s.config s.acq.latestChans.mr.value := by
  unfold State.stagedOutputs
  rw [Outputs.unserved_frame]
  show (Outputs.setpoint _ s.config s.demand.mode s.acq.latestChans s.now).pmaxEff = _
  unfold Outputs.setpoint
  dsimp only
  split <;> rw [Outputs.drive_frame]

/-- The sharing section after a cycle begun in a state, with the demand and the limit Pmax_eff of that cycle. -/
def State.cycleShares (s : State) (d pmaxEff : Nat) : Sharing :=
  let o := (s.outputs.linkCheck s.config.etol).1
  s.sharing.stage s.demand.mode d (ownCe s.config s.demand.mode o s.slide.al)
    (if o.frictionFault then 0 else min 4095 (fmaxEff s.config pmaxEff)) s.slide.al (aloneReason s.line s.now)
    (peerMembers s.peers.entries s.config.group)

/-- The link check, the early statement test and the demand come before the stage and leave what it reads. -/
theorem State.controlCycle_sharing (s : State) :
    s.controlCycle.sharing = s.cycleShares s.controlCycle.demand.d s.controlCycle.outputs.pmaxEff := by
  obtain ⟨y, hy, hc⟩ := s.controlCycle_spec
  have hmode : y.computeDemand.demand.mode = s.demand.mode := by
    show (y.demand.compute _ _ _ _).mode = _
    rw [Demand.compute_frame, hy.demand]
  have hpmax : s.controlCycle.outputs.pmaxEff = serviceLimit y.config y.acq.latestChans.mr.value := by
    rw [hc.outputs]
    exact State.stagedOutputs_pmaxEff _
  have halone : aloneReason y.line y.now = aloneReason s.line s.now := by
    have hl : y.line.SameButQueue s.controlCycle.line := by
      unfold Line.SameButQueue
      rw [hc.line]
      rfl
    have he := s.controlCycle_line
    rw [State.now, hy.clock]
    exact aloneReason_congr ((hl.state.trans he.state).trans (State.earlyTest_lineState _))
      ((hl.activeSince.trans he.activeSince).trans (State.earlyTest_activeSince _))
  have hd : s.controlCycle.demand.d = y.computeDemand.demand.d := by
    rw [hc.demand]
    rfl
  have hs : s.controlCycle.sharing = y.sharing.stage y.computeDemand.demand.mode y.computeDemand.demand.d
      (ownCe y.config y.computeDemand.demand.mode y.outputs y.slide.al)
      (ownFx y.config y.outputs y.acq.latestChans.mr.value) y.slide.al (aloneReason y.line y.now)
      (peerMembers y.peers.entries y.config.group) := by
    rw [hc.sharing]
    rfl
  rw [hs, hmode, halone, ownFx, ← hpmax, ← hd, hy.sharing, hy.config, hy.outputs, hy.slide, hy.peers]
  rfl

section
variable {s : State} {dt : Nat} (hr : s.runPhase = .running) (hd : s.demand.cycleDue ≤ s.clock + dt)
include hr hd

theorem exec_controlCycle_sharing : ∃ t, exec (.controlCycle dt) s = .next t ∧
    t.sharing = (s.advance dt).cycleShares t.demand.d t.outputs.pmaxEff := by
  have h := State.recordChannels_delivers (s.advance dt) (s.advance dt).controlCycle
  refine ⟨_, exec_controlCycle_running hr hd, ?_⟩
  rw [h.sharing, h.demand, h.outputs]
  exact State.controlCycle_sharing _

end

/-! ### What the stage of a cycle leaves -/

section
variable (s : State) (d pmaxEff : Nat)

theorem State.cycleShares_al : (s.cycleShares d pmaxEff).al = s.slide.al := Sharing.stage_al _ _ _ _ _ _ _ _

theorem State.cycleShares_ce : (s.cycleShares d pmaxEff).ce =
    ownCe s.config s.demand.mode (s.outputs.linkCheck s.config.etol).1 s.slide.al :=
  (Sharing.stage_ce_fx _ _ _ _ _ _ _ _).1

theorem State.cycleShares_fx : (s.cycleShares d pmaxEff).fx =
    if (s.outputs.linkCheck s.config.etol).1.frictionFault then 0 else min 4095 (fmaxEff s.config pmaxEff) :=
  (Sharing.stage_ce_fx _ _ _ _ _ _ _ _).2

/-- AL, FX and CE of the cycle (R98, R99). -/
theorem State.cycleShares_capabilities :
    let o := (s.outputs.linkCheck s.config.etol).1
    let r := s.cycleShares d pmaxEff
    r.al = s.slide.al ∧
      r.fx = (if s.outputs.frictionFault then 0 else min 4095 ((pmaxEff - s.config.pth) * s.config.kf / 100)) ∧
      r.ce =
        (if s.demand.mode = .emergency ∨ o.linkUp = false ∨ s.config.emax = 0 ∨ o.status.fault = true ∨
            o.status.ready = false then 0
         else if o.fade = true then min o.status.eav (min r.al (o.status.eact + s.config.etol))
         else min o.status.eav r.al) := by
  intro o r
  have hal : r.al = s.slide.al := s.cycleShares_al d pmaxEff
  refine ⟨hal, ?_, ?_⟩
  · rw [← s.outputs.linkCheck_frictionFault s.config.etol]
    exact s.cycleShares_fx d pmaxEff
  · rw [hal, ← ownCe_eq]
    exact s.cycleShares_ce d pmaxEff

theorem State.cycleShares_emergency (h : s.demand.mode = .emergency) :
    let r := s.cycleShares d pmaxEff
    r.members = 0 ∧ r.alone = .emergency ∧ r.sd = 0 ∧ r.se = 0 ∧ r.sh = 0 ∧ r.kind = .none ∧ r.et = 0 ∧ r.ft = 0 ∧
      r.u = 0 := by
  rw [State.cycleShares, h]
  exact ⟨rfl, rfl, rfl, rfl, rfl, rfl, rfl, rfl, rfl⟩

variable (h : s.demand.mode ≠ .emergency)
include h

/-- Outside EMERGENCY the stage is the computation over the membership set, on the capabilities of the cycle. -/
theorem State.cycleShares_computed :
    let r := s.cycleShares d pmaxEff
    Sharing.compute { s.sharing with ce := r.ce, fx := r.fx, al := r.al, alone := aloneReason s.line s.now }
      ⟨d, r.ce, r.fx, r.al⟩
      (if aloneReason s.line s.now = .none then peerMembers s.peers.entries s.config.group else []) = r := by
  dsimp only
  rw [State.cycleShares_ce, State.cycleShares_fx, State.cycleShares_al]
  exact (Sharing.stage_other _ h _ _ _ _ _ _).symm

theorem State.cycleShares_alone : (s.cycleShares d pmaxEff).alone = aloneReason s.line s.now := by
  rw [← State.cycleShares_computed s d pmaxEff h, Sharing.compute_alone]

/-- A station that has not joined is the only member of its set (R100). -/
theorem State.cycleShares_apart (hj : ¬s.line.Joined s.now) :
    let r := s.cycleShares d pmaxEff
    r.members = 1 ∧ r.sd = d ∧ r.se = r.ce := by
  intro r
  have hr := State.cycleShares_computed s d pmaxEff h
  dsimp only at hr
  rw [if_neg (aloneReason_alone hj)] at hr
  refine ⟨?_, ?_, ?_⟩
  · exact (congrArg Sharing.members hr).symm.trans (Sharing.compute_members _ _ _)
  · exact (congrArg Sharing.sd hr).symm.trans (Sharing.compute_sd _ _ _)
  · exact (congrArg Sharing.se hr).symm.trans (Sharing.compute_se _ _ _)

/-- One that has joined works with the peers of its set (R100, R101). -/
theorem State.cycleShares_joined (hj : s.line.Joined s.now) :
    let r := s.cycleShares d pmaxEff
    let peers := memberStatements s.peers.entries s.config.group
    r.members = 1 + peers.length ∧ r.sd = d + sumOf (peers.map fun v => min 4095 v.d) ∧
      r.se = r.ce + sumOf (peers.map fun v => min 4095 v.ce) := by
  intro r peers
  have hr := State.cycleShares_computed s d pmaxEff h
  dsimp only at hr
  rw [if_pos (aloneReason_joined hj), peerMembers_eq] at hr
  refine ⟨?_, ?_, ?_⟩
  · have hm := (congrArg Sharing.members hr).symm.trans (Sharing.compute_members _ _ _)
    rw [List.length_map] at hm
    exact hm
  · have hd := (congrArg Sharing.sd hr).symm.trans (Sharing.compute_sd _ _ _)
    rw [List.map_map] at hd
    exact hd
  · have he := (congrArg Sharing.se hr).symm.trans (Sharing.compute_se _ _ _)
    rw [List.map_map] at he
    exact he

end

/-- Settles O21: both parts see the cycle through `exec_controlCycle_sharing`; the membership set by
`State.cycleShares_apart` and `State.cycleShares_joined`, the capabilities by `State.cycleShares_capabilities`, the cases
by `Sharing.compute_none`, `Sharing.compute_caseA` and `Sharing.caseB_spec`. -/
theorem controlCycleFormsMembershipAndShares : Obligations.ControlCycleFormsMembershipAndShares := by
  constructor
  · intro dt s hr hd hm joined peers
    obtain ⟨t, ht, hs⟩ := exec_controlCycle_sharing hr hd
    have halone := State.cycleShares_alone (s.advance dt) t.demand.d t.outputs.pmaxEff hm
    have hapart := State.cycleShares_apart (s.advance dt) t.demand.d t.outputs.pmaxEff hm
    have hjoined := State.cycleShares_joined (s.advance dt) t.demand.d t.outputs.pmaxEff hm
    rw [← hs] at halone hapart hjoined
    exact ⟨t, ht, fun hl => halone.trans (aloneReason_line hl),
      fun hl hj => halone.trans (aloneReason_joinHold hl hj), hapart,
      fun hj => ⟨halone.trans (aloneReason_joined hj), hjoined hj⟩⟩
  · intro dt s hr hd o
    obtain ⟨t, ht, hs⟩ := exec_controlCycle_sharing hr hd
    have hcapabilities := State.cycleShares_capabilities (s.advance dt) t.demand.d t.outputs.pmaxEff
    have hemergency := State.cycleShares_emergency (s.advance dt) t.demand.d t.outputs.pmaxEff
    have hcomputed := State.cycleShares_computed (s.advance dt) t.demand.d t.outputs.pmaxEff
    rw [← hs] at hcapabilities hemergency hcomputed
    obtain ⟨hal, hfx, hce⟩ := hcapabilities
    refine ⟨t, ht, hal, hfx, hce, hemergency, fun hm h => Sharing.compute_none (hcomputed hm) h,
      fun hm h₀ h => Sharing.compute_caseA (hcomputed hm) h₀ h, fun hm h => ?_⟩
    obtain ⟨hkind, het, hhk, -, hshares⟩ := Sharing.caseB_spec (Sharing.compute_caseB (hcomputed hm) h)
    exact ⟨hkind, het, hhk, hshares⟩

end Sys2Proof.Machine
end

section
/-! SUPPORT. The output section over a control cycle: what the outputs stage leaves, and the section after the cycle
(`State.cycleOutputs`; R111, R112, R117 to R124). -/

namespace Sys2Proof.Machine

/-! ### The commands (R116 to R119) -/

section
variable (o : Outputs) (c : Configuration) (cut : Bool) (et ft al : Nat)

/-- The command step changes the commands and the fade state. -/
theorem Outputs.command_frame : o.command c cut et ft al = { o with
    ecmdStart := o.ecmd, ecmd := nextEcmd c cut et al o.ecmd
    fcmd := nextFcmd c (decide (nextEcmd c cut et al o.ecmd < o.ecmd)) ft o.fcmd
    fade := (o.command c cut et ft al).fade, shortRun := (o.command c cut et ft al).shortRun
    goodRun := (o.command c cut et ft al).goodRun } := by
  unfold Outputs.command
  dsimp only
  split <;> rfl

/-- FADE and both runs end when Ecmd is 0 after its caps (R116). -/
theorem Outputs.command_stopped (h : nextEcmd c cut et al o.ecmd = 0) : (o.command c cut et ft al).fade = false ∧
    (o.command c cut et ft al).shortRun = 0 ∧ (o.command c cut et ft al).goodRun = 0 := by
  rw [Outputs.command, if_pos h]
  exact ⟨rfl, rfl, rfl⟩

theorem Outputs.command_moving (h : nextEcmd c cut et al o.ecmd ≠ 0) : (o.command c cut et ft al).fade = o.fade ∧
    (o.command c cut et ft al).shortRun = o.shortRun ∧ (o.command c cut et ft al).goodRun = o.goodRun := by
  rw [Outputs.command, if_neg h]
  exact ⟨rfl, rfl, rfl⟩

end

/-! ### The setpoint (R121 to R124) -/

/-- BCset of a cycle (R122, R123). -/
def cycleSet (c : Configuration) (mode : Mode) (pmaxEff fcmd : Nat) : Nat :=
  if mode = .emergency then 0 else cylinderSet c pmaxEff fcmd

/-- BCout of a cycle (R122, R123). -/
def cycleOut (c : Configuration) (mode : Mode) (set : Nat) (ind : Option Nat) : Nat :=
  if mode = .emergency then emergencyPressure c ind else max set (ind.getD 0)

/-- Pmax_eff and BCset worked out, BCout not yet driven. -/
def Outputs.aimed (o : Outputs) (pmaxEff set : Nat) : Outputs := { o with pmaxEff := pmaxEff, bcSet := set }

/-- In every mode the setpoint step is Pmax_eff and BCset worked out and BCout driven. -/
theorem Outputs.setpoint_eq (o : Outputs) (c : Configuration) (mode : Mode) (chans : Quad PressItem) (now : Time) :
    let p := serviceLimit c chans.mr.value
    let set := cycleSet c mode p o.fcmd
    o.setpoint c mode chans now =
      (o.aimed p set).drive (cycleOut c mode set chans.ind.value) now := by
  unfold Outputs.setpoint cycleSet cycleOut
  dsimp only
  split <;> rfl

/-- A BCout more than 10 kPa from the settle reference becomes the reference (R124). -/
theorem Outputs.drive_moves {o : Outputs} {v : Nat} (h : v ≠ o.bcOut) (hr : o.settleRef + 10 < v ∨ v + 10 < o.settleRef)
    (now : Time) : (o.drive v now).settleRef = v ∧ (o.drive v now).settleTime = now := by
  rw [Outputs.drive, if_neg (Ne.symm h), if_neg (by omega)]
  exact ⟨rfl, rfl⟩

/-- Any other leaves the reference and its time. -/
theorem Outputs.drive_stays {o : Outputs} {v : Nat}
    (h : ¬(v ≠ o.bcOut ∧ (o.settleRef + 10 < v ∨ v + 10 < o.settleRef))) (now : Time) :
    (o.drive v now).settleRef = o.settleRef ∧ (o.drive v now).settleTime = o.settleTime := by
  unfold Outputs.drive
  split
  · exact ⟨rfl, rfl⟩
  · rw [if_pos (by omega)]
    exact ⟨rfl, rfl⟩

/-- The reference and its time are worked out from BCout and the reference as they stood. -/
theorem Outputs.drive_reference {o p : Outputs} (hb : p.bcOut = o.bcOut) (hr : p.settleRef = o.settleRef)
    (ht : p.settleTime = o.settleTime) (v : Nat) (now : Time) : (p.drive v now).settleRef = (o.drive v now).settleRef ∧
      (p.drive v now).settleTime = (o.drive v now).settleTime := by
  unfold Outputs.drive
  rw [hb, hr]
  split
  · exact ⟨hr, ht⟩
  · split
    · exact ⟨rfl, ht⟩
    · exact ⟨rfl, rfl⟩

theorem Outputs.drive_aimed (o : Outputs) (p set v : Nat) (now : Time) :
    ((o.aimed p set).drive v now).settleRef = (o.drive v now).settleRef ∧
      ((o.aimed p set).drive v now).settleTime = (o.drive v now).settleTime :=
  Outputs.drive_reference (o := o) (p := o.aimed p set) rfl rfl rfl v now

/-- Pmax_eff, BCset and BCout of the setpoint step, with the settle reference of the drive. -/
theorem Outputs.setpoint_spec (o : Outputs) (c : Configuration) (mode : Mode) (chans : Quad PressItem) (now : Time) :
    let q := o.setpoint c mode chans now
    q.pmaxEff = serviceLimit c chans.mr.value ∧ q.bcSet = cycleSet c mode q.pmaxEff o.fcmd ∧
      q.bcOut = cycleOut c mode q.bcSet chans.ind.value ∧ q.settleRef = (o.drive q.bcOut now).settleRef ∧
      q.settleTime = (o.drive q.bcOut now).settleTime := by
  intro q
  have hq : q = _ := o.setpoint_eq c mode chans now
  have hpmax : q.pmaxEff = serviceLimit c chans.mr.value := by
    rw [hq, Outputs.drive_frame]
    rfl
  have hset : q.bcSet = cycleSet c mode (serviceLimit c chans.mr.value) o.fcmd := by
    rw [hq, Outputs.drive_bcSet]
    rfl
  have hout : q.bcOut = cycleOut c mode q.bcSet chans.ind.value := by
    rw [hset, hq, Outputs.drive_bcOut]
  refine ⟨hpmax, hpmax ▸ hset, hout, ?_⟩
  rw [hout, hset, hq]
  exact o.drive_aimed _ _ _ now

theorem cylinderSet_zero (c : Configuration) (p : Nat) : cylinderSet c p 0 = 0 := if_pos rfl

theorem cylinderSet_pos (c : Configuration) (p : Nat) {f : Nat} (hf : 0 < f) (hk : 0 < c.kf) :
    cylinderSet c p f = min p (c.pth + (f * 100 + c.kf - 1) / c.kf) := by
  rw [cylinderSet, if_neg (by omega), ceilDiv, Nat.add_sub_assoc hk]

/-! ### The outputs stage -/

section
variable (o : Outputs) (c : Configuration) (mode : Mode) (cut : Bool) (r : Sharing) (chans : Quad PressItem) (now : Time)

/-- The commands of a stage (R117 to R119). -/
theorem Outputs.stage_commands :
    let p := o.stage c mode cut r chans now
    p.ecmdStart = o.ecmd ∧ p.ecmd = nextEcmd c cut (targetIn mode r.et) r.al o.ecmd ∧
      p.fcmd = nextFcmd c (decide (p.ecmd < o.ecmd)) (targetIn mode r.ft) o.fcmd := by
  dsimp only [Outputs.stage, Outputs.close, Outputs.send]
  rw [Outputs.setpoint_ecmd, Outputs.setpoint_fcmd, Outputs.command_ecmd, Outputs.command_fcmd, Outputs.setpoint_eq,
    Outputs.drive_frame, Outputs.command_frame]
  exact ⟨rfl, rfl, rfl⟩

/-- The request of a stage (R112). -/
theorem Outputs.stage_request :
    let p := o.stage c mode cut r chans now
    p.latest = some { seq := o.nextSeq, ecmd := p.ecmd, slideCut := cut } ∧ p.answered = false ∧
      p.nextSeq = o.nextSeq + 1 ∧ p.converterOut = requestFrame { seq := o.nextSeq, ecmd := p.ecmd, slideCut := cut } := by
  dsimp only [Outputs.stage, Outputs.close, Outputs.send]
  rw [Outputs.setpoint_eq, Outputs.drive_nextSeq, Outputs.command_frame]
  exact ⟨rfl, rfl, rfl, rfl⟩

/-- The setpoint of a stage, driven on the section as it was (R121 to R124). -/
theorem Outputs.stage_setpoint :
    let p := o.stage c mode cut r chans now
    p.pmaxEff = serviceLimit c chans.mr.value ∧ p.bcSet = cycleSet c mode p.pmaxEff p.fcmd ∧
      p.bcOut = cycleOut c mode p.bcSet chans.ind.value ∧ p.settleRef = (o.drive p.bcOut now).settleRef ∧
      p.settleTime = (o.drive p.bcOut now).settleTime := by
  dsimp only [Outputs.stage, Outputs.close, Outputs.send]
  have hcmd := o.command_frame c cut (targetIn mode r.et) (targetIn mode r.ft) r.al
  generalize o.command c cut (targetIn mode r.et) (targetIn mode r.ft) r.al = p at hcmd ⊢
  obtain ⟨hpmax, hset, hout, href, htime⟩ := p.setpoint_spec c mode chans now
  obtain ⟨hr, ht⟩ := Outputs.drive_reference (o := o) (p := p) (by rw [hcmd]) (by rw [hcmd]) (by rw [hcmd])
    (p.setpoint c mode chans now).bcOut now
  refine ⟨hpmax, ?_, hout, href.trans hr, htime.trans ht⟩
  rw [Outputs.setpoint_fcmd]
  exact hset

/-- A stage leaves the link's runs and status, the friction check and the unserved run. -/
theorem Outputs.stage_frame :
    let p := o.stage c mode cut r chans now
    p.linkUp = o.linkUp ∧ p.validRun = o.validRun ∧ p.missRun = o.missRun ∧ p.status = o.status ∧
      p.unservedStart = o.unservedStart ∧ p.unservedRaised = o.unservedRaised := by
  dsimp only [Outputs.stage, Outputs.close, Outputs.send]
  rw [Outputs.setpoint_eq, Outputs.drive_frame, Outputs.command_frame]
  exact ⟨rfl, rfl, rfl, rfl, rfl, rfl⟩

end

/-! ### The section after a cycle (R111) -/

/-- The output section after the outputs stage of a cycle begun in a state, with the shares of that cycle, short of the
unserved run. -/
def State.cycleStage (s : State) (r : Sharing) : Outputs :=
  (s.outputs.linkCheck s.config.etol).1.stage s.config s.demand.mode s.slide.slideCut r s.acq.latestChans s.now

/-- The output section after that cycle. -/
def State.cycleOutputs (s : State) (r : Sharing) : Outputs := ((s.cycleStage r).unserved s.config.uthr r.u s.now).1

theorem State.controlCycle_outputs (s : State) : s.controlCycle.outputs = s.cycleOutputs s.controlCycle.sharing := by
  obtain ⟨y, hy, hc⟩ := s.controlCycle_spec
  have hmode : y.computeDemand.demand.mode = s.demand.mode := by
    show (y.demand.compute _ _ _ _).mode = _
    rw [Demand.compute_frame, hy.demand]
  have ho : s.controlCycle.outputs = y.computeDemand.sharingStage.stagedOutputs := hc.outputs
  have hs : s.controlCycle.sharing = y.computeDemand.sharingStage.sharing := hc.sharing
  rw [ho, hs, State.stagedOutputs, State.cycleOutputs, State.cycleStage]
  simp only [State.sharingStage_config, State.sharingStage_demand, State.sharingStage_slide, State.sharingStage_acq,
    State.sharingStage_outputs, State.computeDemand_config, State.computeDemand_slide, State.computeDemand_acq,
    State.computeDemand_outputs, State.now, State.sharingStage_clock, State.computeDemand_clock, hmode, hy.config,
    hy.slide, hy.acq, hy.outputs, hy.clock]


/-- CONTROL_CYCLE at its time: the output section by the shares that the same cycle leaves, and the slide-cut flag clear. -/
theorem exec_controlCycle_outputs {s : State} {dt : Nat} (hr : s.runPhase = .running)
    (hd : s.demand.cycleDue ≤ s.clock + dt) : ∃ t, exec (.controlCycle dt) s = .next t ∧
      t.outputs = (s.advance dt).cycleOutputs t.sharing ∧ t.slide = { s.slide with slideCut := false } := by
  have h := State.recordChannels_delivers (s.advance dt) (s.advance dt).controlCycle
  refine ⟨_, exec_controlCycle_running hr hd, ?_, ?_⟩
  · rw [h.outputs, h.sharing]
    exact State.controlCycle_outputs _
  · rw [h.slide]
    exact State.controlCycle_slide _

/-- The unserved run comes last and changes its own two fields. -/
theorem State.cycleOutputs_frame (s : State) (r : Sharing) : s.cycleOutputs r = { s.cycleStage r with
    unservedStart := (s.cycleOutputs r).unservedStart, unservedRaised := (s.cycleOutputs r).unservedRaised } :=
  Outputs.unserved_frame _ _ _ _

section
variable (s : State) (r : Sharing)

/-- The commands of a cycle (R117 to R119). -/
theorem State.cycleOutputs_commands :
    let p := s.cycleOutputs r
    p.ecmdStart = s.outputs.ecmd ∧
      p.ecmd = nextEcmd s.config s.slide.slideCut (targetIn s.demand.mode r.et) r.al s.outputs.ecmd ∧
      p.fcmd = ramp (targetIn s.demand.mode r.ft)
        (if p.ecmd < s.outputs.ecmd then s.config.rfFill else s.config.rfUp) s.config.rfDn s.outputs.fcmd := by
  obtain ⟨he, hf, -⟩ := s.outputs.linkCheck_keeps s.config.etol
  have h := Outputs.stage_commands (s.outputs.linkCheck s.config.etol).1 s.config s.demand.mode s.slide.slideCut r
    s.acq.latestChans s.now
  rw [he, hf] at h
  simp only [nextFcmd, decide_eq_true_eq] at h
  rw [State.cycleOutputs_frame]
  exact h

/-- The request of a cycle (R112). -/
theorem State.cycleOutputs_request :
    let p := s.cycleOutputs r
    let q : Request := { seq := s.outputs.nextSeq, ecmd := p.ecmd, slideCut := s.slide.slideCut }
    p.latest = some q ∧ p.answered = false ∧ p.nextSeq = s.outputs.nextSeq + 1 ∧ p.converterOut = requestFrame q := by
  have hn : (s.outputs.linkCheck s.config.etol).1.nextSeq = s.outputs.nextSeq := by rw [Outputs.linkCheck_frame]
  have h := Outputs.stage_request (s.outputs.linkCheck s.config.etol).1 s.config s.demand.mode s.slide.slideCut r
    s.acq.latestChans s.now
  rw [hn] at h
  rw [State.cycleOutputs_frame]
  exact h

/-- The setpoint of a cycle (R121 to R124). -/
theorem State.cycleOutputs_setpoint :
    let p := s.cycleOutputs r
    p.pmaxEff = serviceLimit s.config s.acq.latestChans.mr.value ∧
      p.bcSet = cycleSet s.config s.demand.mode p.pmaxEff p.fcmd ∧
      p.bcOut = cycleOut s.config s.demand.mode p.bcSet s.acq.latestChans.ind.value ∧
      p.settleRef = (s.outputs.drive p.bcOut s.now).settleRef ∧
      p.settleTime = (s.outputs.drive p.bcOut s.now).settleTime := by
  obtain ⟨hpmax, hset, hout, href, htime⟩ := Outputs.stage_setpoint (s.outputs.linkCheck s.config.etol).1 s.config
    s.demand.mode s.slide.slideCut r s.acq.latestChans s.now
  obtain ⟨hr, ht⟩ := Outputs.drive_reference (o := s.outputs) (p := (s.outputs.linkCheck s.config.etol).1)
    (by rw [Outputs.linkCheck_frame]) (by rw [Outputs.linkCheck_frame]) (by rw [Outputs.linkCheck_frame])
    (s.cycleStage r).bcOut s.now
  rw [State.cycleOutputs_frame]
  exact ⟨hpmax, hset, hout, href.trans hr, htime.trans ht⟩

end

/-- Settles O23: the cycle's output section (`exec_controlCycle_outputs`) has the commands of
`State.cycleOutputs_commands`, the request of `State.cycleOutputs_request` and the setpoint of
`State.cycleOutputs_setpoint`; the settle reference by `Outputs.drive_moves` and `Outputs.drive_stays`. -/
theorem controlCycleMovesCommandsAndSetsCylinder : Obligations.ControlCycleMovesCommandsAndSetsCylinder := by
  intro dt s hr hd c chans e f move
  obtain ⟨t, ht, ho, hslide⟩ := exec_controlCycle_outputs hr hd
  obtain ⟨hstart, hecmd, hfcmd⟩ := (s.advance dt).cycleOutputs_commands t.sharing
  obtain ⟨hlatest, hanswered, hseq, hframe⟩ := (s.advance dt).cycleOutputs_request t.sharing
  obtain ⟨hpmax, hset, hout, href, htime⟩ := (s.advance dt).cycleOutputs_setpoint t.sharing
  rw [← ho] at hstart hecmd hfcmd hlatest hanswered hseq hframe hpmax hset hout href htime
  refine ⟨t, ht, hstart, hecmd, hfcmd, hslide, hlatest, hanswered, hseq, hframe, fun hn => ?_, fun p hp => ?_,
    fun hm hf => ?_, fun hm hf hk => ?_, fun hm => ?_, fun hm => ⟨?_, ?_⟩, fun ⟨hne, hfar⟩ => ?_, fun hn => ?_⟩
  · rw [hpmax, State.advance_acq, hn]
    rfl
  · rw [hpmax, State.advance_acq, hp]
    rfl
  · rw [hset, hf]
    exact (if_neg hm).trans (cylinderSet_zero _ _)
  · rw [hset]
    exact (if_neg hm).trans (cylinderSet_pos _ _ hf hk)
  · rw [hout]
    exact if_neg hm
  · rw [hset]
    exact if_pos hm
  · rw [hout]
    exact if_pos hm
  · rw [href, htime]
    exact Outputs.drive_moves hne hfar _
  · rw [href, htime]
    exact Outputs.drive_stays hn _

end Sys2Proof.Machine
end

section
/-! SUPPORT. Replies on the converter link (R113). -/

namespace Sys2Proof.Machine

/-- The sequence check: a request was sent, it is not answered, and the reply echoes its number (R113). -/
theorem Outputs.expects_iff (o : Outputs) (f : StatusFrame) :
    o.expects f = true ↔ ∃ r, o.latest = some r ∧ r.seq = f.echo ∧ o.answered = false := by
  unfold Outputs.expects
  cases o.latest <;> simp

section
variable {s : State} {frame : List Byte}

/-- The frame check (R113). -/
theorem State.statusArrival_malformed (hf : parseStatus frame = none) : s.statusArrival frame = s.bump .frameErrors := by
  rw [State.statusArrival, hf]

variable {f : StatusFrame} (hf : parseStatus frame = some f)
include hf

theorem State.statusArrival_late (h : s.outputs.expects f = false) : s.statusArrival frame = s.bump .lateReplies := by
  rw [State.statusArrival, hf]
  dsimp only
  split
  · rfl
  · rw [h]
    rfl

theorem State.statusArrival_taken {r : Request} (hl : s.outputs.latest = some r) (h : s.outputs.expects f = true) :
    s.statusArrival frame = State.deliverAll { s with outputs := (s.outputs.take s.config r f).1 }
      (s.outputs.take s.config r f).2 := by
  rw [State.statusArrival, hf]
  dsimp only
  rw [hl]
  dsimp only
  rw [if_pos h]

end

/-! ### A valid reply -/

section
variable (o : Outputs) (c : Configuration) (r : Request) (f : StatusFrame)

/-- The fifth valid reply in a row takes a DOWN link UP. -/
theorem Outputs.comesUp_iff :
    (!o.linkUp && min 5 (o.validRun + 1) == 5) = true ↔ o.linkUp = false ∧ 4 ≤ o.validRun := by
  have h : min 5 (o.validRun + 1) = 5 ↔ 4 ≤ o.validRun := by omega
  simp [h]

/-- The section with the reply taken. -/
theorem Outputs.take_outputs : (o.take c r f).1 = { o with
    answered := true, status := clampedStatus c r f, validRun := min 5 (o.validRun + 1), missRun := 0
    linkUp := o.linkUp || decide (4 ≤ o.validRun) } := by
  have h : (!o.linkUp && min 5 (o.validRun + 1) == 5) = (!o.linkUp && decide (4 ≤ o.validRun)) := by
    rw [Bool.eq_iff_iff, Outputs.comesUp_iff]
    simp
  dsimp only [Outputs.take]
  rw [h]
  cases o.linkUp <;> rfl

/-- Its messages: the count of an overshoot, and the event record of a link that comes UP. -/
theorem State.deliverAll_take (s : State) :
    let counted := if r.ecmd + c.etol < min f.eact c.emax then s.bump .overshoots else s
    s.deliverAll (o.take c r f).2 =
      if o.linkUp = false ∧ 4 ≤ o.validRun then counted.logEvent .link (be8 0 ++ be8 1 ++ be8 18) else counted := by
  dsimp only [Outputs.take]
  simp only [Outputs.comesUp_iff]
  split <;> split <;> rfl

end

/-- STATUS_REPLY_ARRIVAL of the running part, when no channel changes its state. -/
theorem exec_statusReplyArrival_same {s t : State} {dt : Nat} {frame : List Byte} (hr : s.runPhase = .running)
    (h : (s.advance dt).statusArrival frame = t) (ht : t.recorder.states = s.recorder.states) :
    exec (.statusReplyArrival dt frame) s = .next t := by
  have he : s.event dt (fun s => s.statusArrival frame) = (s.advance dt).statusArrival frame :=
    State.event_same hr (by rw [h, ht])
  rw [h] at he
  exact congrArg _ he

/-- Settles O24: the two checks by `State.statusArrival_malformed` and `State.statusArrival_late`, a valid reply by
`State.statusArrival_taken`, with the section of `Outputs.take_outputs` and the messages of `State.deliverAll_take`. -/
theorem statusReplyIsCheckedAndClamped : Obligations.StatusReplyIsCheckedAndClamped := by
  intro dt frame s hr
  refine ⟨fun hf => ?_, fun f hf h => ?_, fun f r hf hl ha hq => ?_⟩
  · exact exec_statusReplyArrival_same hr (State.statusArrival_malformed hf) (State.bump_states _ _)
  · have hx : s.outputs.expects f = false := by
      rw [Bool.eq_false_iff, Ne, Outputs.expects_iff]
      rintro ⟨r, hl, hq, ha⟩
      simp [hl, ha, hq] at h
    exact exec_statusReplyArrival_same hr (State.statusArrival_late (s := s.advance dt) hf hx) (State.bump_states _ _)
  · intro up taken counted
    have hx : s.outputs.expects f = true := (s.outputs.expects_iff f).mpr ⟨r, hl, hq, ha⟩
    have ht : (s.advance dt).statusArrival frame =
        if up then counted.logEvent .link (be8 0 ++ be8 1 ++ be8 18) else counted := by
      rw [State.statusArrival_taken (s := s.advance dt) hf hl hx, State.deliverAll_take, Outputs.take_outputs]
      rfl
    have hc : counted.recorder.states = s.recorder.states := by
      dsimp only [counted]
      split
      · exact State.bump_states _ _
      · rfl
    refine exec_statusReplyArrival_same hr ht ?_
    split
    · exact (State.logEvent_states _ _ _).trans hc
    · exact hc

end Sys2Proof.Machine
end

section
/-! SUPPORT. The link check of a cycle: misses, the link's fall and the fade runs (R114 to R116), and the misses counter. -/

namespace Sys2Proof.Machine

/-! ### The section after the link check (R114, R115) -/

theorem Outputs.isMiss_iff (o : Outputs) : o.isMiss = true ↔ o.latest ≠ none ∧ o.answered = false := by
  unfold Outputs.isMiss
  cases o.latest <;> simp

/-- A miss counts in the miss run and ends the run of valid replies. -/
theorem Outputs.miss_runs (o : Outputs) : o.miss.1.validRun = 0 ∧ o.miss.1.missRun = min 3 (o.missRun + 1) := by
  unfold Outputs.miss
  dsimp only
  split <;> exact ⟨rfl, rfl⟩

section
variable {o : Outputs} (etol : Nat)

theorem Outputs.linkCheck_miss (h : o.isMiss = true) : o.linkCheck etol = o.miss := if_pos h

/-- A cycle that is no miss leaves the link's runs, its state and the status. -/
theorem Outputs.linkCheck_answered (h : o.isMiss = false) : (o.linkCheck etol).1 = { o with
    fade := (o.linkCheck etol).1.fade, shortRun := (o.linkCheck etol).1.shortRun
    goodRun := (o.linkCheck etol).1.goodRun } := by
  rw [Outputs.linkCheck, if_neg (by rw [h]; decide)]
  split
  · unfold Outputs.fadeRuns
    dsimp only
    split
    · rfl
    · split
      · split <;> rfl
      · rfl
  · rfl

theorem Outputs.linkCheck_down (h : o.isMiss = false) (hl : o.linkUp = false) : (o.linkCheck etol).1 = o := by
  rw [Outputs.linkCheck, if_neg (by rw [h]; decide), if_neg (by rw [hl]; decide)]

theorem Outputs.linkCheck_up (h : o.isMiss = false) (hl : o.linkUp = true) :
    (o.linkCheck etol).1 = o.fadeRuns etol := by
  rw [Outputs.linkCheck, if_neg (by rw [h]; decide), if_pos hl]

/-- The third miss in a row takes an UP link DOWN (R114). -/
theorem Outputs.miss_third (hl : o.linkUp = true) (h : 2 ≤ o.missRun) :
    o.miss.1 = Outputs.linkDown { o with missRun := min 3 (o.missRun + 1), validRun := 0 } := by
  rw [Outputs.miss, if_pos ⟨hl, by omega⟩]

/-- Any other miss leaves the link's state. -/
theorem Outputs.miss_other (h : o.linkUp = false ∨ o.missRun < 2) :
    o.miss.1 = { o with missRun := min 3 (o.missRun + 1), validRun := 0 } := by
  rw [Outputs.miss, if_neg]
  rintro ⟨hl, hm⟩
  rcases h with h | h
  · cases h.symm.trans hl
  · omega

end

/-- A short cycle: the status has delivered less than the request by more than Etol (R115). -/
abbrev Outputs.Short (o : Outputs) (etol : Nat) : Prop := etol < o.status.asked ∧ o.status.eact < o.status.asked - etol

section
variable {o : Outputs} {etol : Nat}

/-- The third short cycle in a row sets FADE. -/
theorem Outputs.fadeRuns_short (h : o.Short etol) : o.fadeRuns etol = { o with
    shortRun := min 3 (o.shortRun + 1), goodRun := 0, fade := o.fade || decide (3 ≤ o.shortRun + 1) } := by
  have h3 : 3 ≤ min 3 (o.shortRun + 1) ↔ 3 ≤ o.shortRun + 1 := by omega
  rw [Outputs.fadeRuns, if_pos h]
  simp only [h3]

variable (h : ¬o.Short etol)
include h

theorem Outputs.fadeRuns_clear (hf : o.fade = false) : o.fadeRuns etol = { o with shortRun := 0 } := by
  rw [Outputs.fadeRuns, if_neg h, if_neg (by rw [hf]; decide)]

/-- FADE stands while fewer than 50 good cycles have followed each other. -/
theorem Outputs.fadeRuns_good (hf : o.fade = true) (hg : o.goodRun + 1 < 50) :
    o.fadeRuns etol = { o with shortRun := 0, goodRun := o.goodRun + 1 } := by
  rw [Outputs.fadeRuns, if_neg h, if_pos hf, if_neg (by omega)]

/-- The 50th clears it. -/
theorem Outputs.fadeRuns_recovered (hf : o.fade = true) (hg : 50 ≤ o.goodRun + 1) :
    o.fadeRuns etol = { o with shortRun := 0, goodRun := 0, fade := false } := by
  rw [Outputs.fadeRuns, if_neg h, if_pos hf, if_pos hg]

end

/-! ### The link over a cycle -/

/-- A section keeps the link as another one has left it, and FADE with its runs unless Ecmd is 0 (R116). -/
structure Outputs.KeepsLink (l p : Outputs) : Prop where
  linkUp : p.linkUp = l.linkUp
  validRun : p.validRun = l.validRun
  missRun : p.missRun = l.missRun
  status : p.status = l.status
  stopped : p.ecmd = 0 → p.fade = false ∧ p.shortRun = 0 ∧ p.goodRun = 0
  moving : p.ecmd ≠ 0 → p.fade = l.fade ∧ p.shortRun = l.shortRun ∧ p.goodRun = l.goodRun

/-- FADE and runs that are clear stay clear, whatever Ecmd. -/
theorem Outputs.KeepsLink.clear {l p : Outputs} (h : Outputs.KeepsLink l p) (hf : l.fade = false) (hs : l.shortRun = 0)
    (hg : l.goodRun = 0) : p.fade = false ∧ p.shortRun = 0 ∧ p.goodRun = 0 := by
  by_cases he : p.ecmd = 0
  · exact h.stopped he
  · obtain ⟨hf', hs', hg'⟩ := h.moving he
    exact ⟨hf'.trans hf, hs'.trans hs, hg'.trans hg⟩

/-- The setpoint and the request leave the fade state of the commands. -/
theorem Outputs.stage_fading (o : Outputs) (c : Configuration) (mode : Mode) (cut : Bool) (r : Sharing)
    (chans : Quad PressItem) (now : Time) :
    let p := o.stage c mode cut r chans now
    let q := o.command c cut (targetIn mode r.et) (targetIn mode r.ft) r.al
    p.fade = q.fade ∧ p.shortRun = q.shortRun ∧ p.goodRun = q.goodRun := by
  dsimp only [Outputs.stage, Outputs.close, Outputs.send]
  rw [Outputs.setpoint_eq, Outputs.drive_frame]
  exact ⟨rfl, rfl, rfl⟩

theorem Outputs.stage_keepsLink (o : Outputs) (c : Configuration) (mode : Mode) (cut : Bool) (r : Sharing)
    (chans : Quad PressItem) (now : Time) : Outputs.KeepsLink o (o.stage c mode cut r chans now) := by
  obtain ⟨hup, hvalid, hmiss, hstatus, -⟩ := o.stage_frame c mode cut r chans now
  obtain ⟨-, hecmd, -⟩ := o.stage_commands c mode cut r chans now
  obtain ⟨hf, hs, hg⟩ := o.stage_fading c mode cut r chans now
  refine ⟨hup, hvalid, hmiss, hstatus, fun he => ?_, fun he => ?_⟩
  · rw [hf, hs, hg]
    exact Outputs.command_stopped _ _ _ _ _ _ (hecmd.symm.trans he)
  · rw [hf, hs, hg]
    exact Outputs.command_moving _ _ _ _ _ _ (hecmd.symm.trans_ne he)

/-- What follows the link check of a cycle keeps the link. -/
theorem State.cycleOutputs_keepsLink (s : State) (r : Sharing) :
    Outputs.KeepsLink (s.outputs.linkCheck s.config.etol).1 (s.cycleOutputs r) := by
  obtain ⟨hup, hvalid, hmiss, hstatus, hstopped, hmoving⟩ := Outputs.stage_keepsLink
    (s.outputs.linkCheck s.config.etol).1 s.config s.demand.mode s.slide.slideCut r s.acq.latestChans s.now
  rw [State.cycleOutputs_frame]
  exact ⟨hup, hvalid, hmiss, hstatus, hstopped, hmoving⟩

/-! ### The misses counter (R114, R128) -/

section
variable (s : State)

/-- The early statement test counts a statement superseded, and nothing else. -/
theorem State.earlyTest_misses : s.earlyTest.counters.misses = s.counters.misses := by
  have hq : s.queueStatement.counters.get .misses = s.counters.get .misses := by
    rw [State.queueStatement_eq]
    unfold State.bumpIf
    split
    · exact State.bump_get_other _ (by decide)
    · rfl
  by_cases h : s.Early
  · by_cases hb : s.BothIntervalsPassed
    · rw [State.earlyTest_spaced h hb]
      exact hq
    · rw [State.earlyTest_held h hb]
  · rw [State.earlyTest_of_not_early h]

/-- A miss counts once; the trigger and the event record of a link that falls leave the counter. -/
theorem State.linkCheck_misses : s.linkCheck.counters.misses =
    if s.outputs.isMiss then countedOnce s.counters.misses else s.counters.misses := by
  unfold State.linkCheck Outputs.linkCheck
  split
  · dsimp only
    unfold Outputs.miss
    dsimp only
    split
    · rw [State.deliverAll_cons, State.deliverAll_cons, State.deliverAll_cons]
      refine (congrArg Counters.misses (State.logEvent_counters _ _ _)).trans ?_
      exact (State.raise_get (i := .misses) (by decide) _ _).trans (State.bump_get_self _ _)
    · exact State.bump_get_self _ .misses
  · split <;> rfl

theorem State.outputStage_misses : s.outputStage.counters.misses = s.counters.misses := by
  unfold State.outputStage
  dsimp only
  split
  · exact State.raise_get (i := .misses) (by decide) _ _
  · rfl

theorem State.evaluateMode_misses : s.evaluateMode.counters.misses = s.counters.misses := by
  unfold State.evaluateMode
  dsimp only
  split
  · rfl
  · split
    · rfl
    · rw [State.changeMode_counters]

/-- Of a cycle's stages the link check alone counts misses. -/
theorem State.controlCycle_misses : s.controlCycle.counters.misses =
    if s.outputs.isMiss then countedOnce s.counters.misses else s.counters.misses := by
  have ho : s.cycleBegun.earlyTest.outputs = s.outputs := s.cycleBegun.earlyTest_talks.outputs
  have hm : s.cycleBegun.earlyTest.counters.misses = s.counters.misses := s.cycleBegun.earlyTest_misses
  calc s.controlCycle.counters.misses
      = s.cycleBegun.earlyTest.linkCheck.computeDemand.sharingStage.outputStage.evaluateMode.counters.misses := rfl
    _ = s.cycleBegun.earlyTest.linkCheck.computeDemand.sharingStage.counters.misses :=
        (State.evaluateMode_misses _).trans (State.outputStage_misses _)
    _ = s.cycleBegun.earlyTest.linkCheck.counters.misses := rfl
    _ = _ := by rw [State.linkCheck_misses, ho, hm]

end

/-- CONTROL_CYCLE at its time: the link as its check leaves it, and the misses counter. -/
theorem exec_controlCycle_link {s : State} {dt : Nat} (hr : s.runPhase = .running)
    (hd : s.demand.cycleDue ≤ s.clock + dt) : ∃ t, exec (.controlCycle dt) s = .next t ∧
      Outputs.KeepsLink (s.outputs.linkCheck s.config.etol).1 t.outputs ∧
      t.counters.misses = if s.outputs.isMiss then countedOnce s.counters.misses else s.counters.misses := by
  obtain ⟨t, ht, ho, -⟩ := exec_controlCycle_outputs hr hd
  refine ⟨t, ht, ?_, ?_⟩
  · rw [ho]
    exact (s.advance dt).cycleOutputs_keepsLink _
  · cases (exec_controlCycle_running hr hd).symm.trans ht
    rw [State.recordChannels_counters]
    exact State.controlCycle_misses _

/-- Settles O25: the cycle keeps the link as the link check leaves it (`exec_controlCycle_link`), by the cases of a miss
(`Outputs.miss_third`, `Outputs.miss_other`) and of the fade runs (`Outputs.fadeRuns_short` and its neighbours). -/
theorem linkCheckMissesAndFade : Obligations.LinkCheckMissesAndFade := by
  intro dt s hr hd o miss short
  obtain ⟨t, ht, hk, hcount⟩ := exec_controlCycle_link hr hd
  have hismiss (hm : miss) : o.isMiss = true := o.isMiss_iff.mpr hm
  have hnomiss (hm : ¬miss) : o.isMiss = false := Bool.eq_false_iff.mpr (mt o.isMiss_iff.mp hm)
  refine ⟨t, ht, fun hm => ?_, fun hm => ?_, hk.stopped, fun hne => ⟨fun hm hu => ?_, fun hm hu => ?_, fun hm hu => ?_⟩⟩
  · rw [Outputs.linkCheck_miss _ (hismiss hm)] at hk
    obtain ⟨hvalid, hrun⟩ := o.miss_runs
    refine ⟨hk.validRun.trans hvalid, hk.missRun.trans hrun, hcount.trans (if_pos (hismiss hm)), fun hu h => ?_,
      fun hu h => ?_, fun hu => ?_⟩
    · rw [Outputs.miss_third hu h] at hk
      obtain ⟨hf, hx, hy⟩ := hk.clear rfl rfl rfl
      rw [hk.linkUp, hk.status]
      exact ⟨rfl, rfl, rfl, rfl, rfl, hf, hx, hy⟩
    · rw [Outputs.miss_other (.inr h)] at hk
      exact ⟨hk.linkUp.trans hu, hk.status⟩
    · rw [Outputs.miss_other (.inl hu)] at hk
      exact ⟨hk.linkUp.trans hu, hk.status⟩
  · rw [Outputs.linkCheck_answered _ (hnomiss hm)] at hk
    exact ⟨hk.validRun, hk.missRun, hcount.trans (if_neg (by rw [hnomiss hm]; decide)), hk.linkUp, hk.status⟩
  · rw [Outputs.linkCheck_miss _ (hismiss hm), Outputs.miss_other hu] at hk
    exact hk.moving hne
  · rw [Outputs.linkCheck_down _ (hnomiss hm) hu] at hk
    exact hk.moving hne
  · rw [Outputs.linkCheck_up _ (hnomiss hm) hu] at hk
    have hruns := hk.moving hne
    refine ⟨fun h => ?_, fun h hf => ?_, fun h hf hg => ?_, fun h hf hg => ?_⟩
    · rwa [Outputs.fadeRuns_short h] at hruns
    · rw [Outputs.fadeRuns_clear h hf] at hruns
      exact hruns.imp_left (·.trans hf)
    · rw [Outputs.fadeRuns_good h hf hg] at hruns
      exact hruns.imp_left (·.trans hf)
    · rwa [Outputs.fadeRuns_recovered h hf hg] at hruns

end Sys2Proof.Machine
end

section
/-! SUPPORT. The unserved run of a cycle (R127), and the friction response check of a pressure set (R124 to R126). -/

namespace Sys2Proof.Machine

/-! ### The unserved run (R127) -/

section
variable {o : Outputs} {uthr u : Nat}

theorem Outputs.unserved_served (h : u ≤ uthr) (now : Time) :
    (o.unserved uthr u now).1 = { o with unservedStart := none, unservedRaised := false } := by
  rw [Outputs.unserved, if_pos h]

variable (h : uthr < u)
include h

theorem Outputs.unserved_opens (hs : o.unservedStart = none) (now : Time) :
    (o.unserved uthr u now).1 = { o with unservedStart := some now, unservedRaised := false } := by
  rw [Outputs.unserved, if_neg (Nat.not_le.mpr h), hs]

/-- A run short of 1000 ms, or raised already, stands. -/
theorem Outputs.unserved_stands {r now : Time} (hs : o.unservedStart = some r)
    (hr : o.unservedRaised = true ∨ since now r < 1000) : (o.unserved uthr u now).1 = o := by
  rw [Outputs.unserved, if_neg (Nat.not_le.mpr h), hs]
  dsimp only
  rw [if_neg]
  rintro ⟨hf, hl⟩
  rcases hr with hr | hr
  · cases hf.symm.trans hr
  · omega

/-- At 1000 ms it is raised. -/
theorem Outputs.unserved_raised {r now : Time} (hs : o.unservedStart = some r) (hf : o.unservedRaised = false)
    (hl : 1000 ≤ since now r) : (o.unserved uthr u now).1 = { o with unservedRaised := true } := by
  rw [Outputs.unserved, if_neg (Nat.not_le.mpr h), hs]
  dsimp only
  rw [if_pos ⟨hf, hl⟩]

end

/-- The run of a cycle begins from the run before it. -/
theorem State.cycleStage_unserved (s : State) (r : Sharing) : (s.cycleStage r).unservedStart = s.outputs.unservedStart ∧
    (s.cycleStage r).unservedRaised = s.outputs.unservedRaised := by
  obtain ⟨-, -, -, -, hstart, hraised⟩ := Outputs.stage_frame (s.outputs.linkCheck s.config.etol).1 s.config
    s.demand.mode s.slide.slideCut r s.acq.latestChans s.now
  refine ⟨hstart.trans ?_, hraised.trans (Outputs.linkCheck_unservedRaised _ _)⟩
  rw [Outputs.linkCheck_frame]

/-! ### The friction response check (R124, R125) -/

/-- An axle is in SUSPECT, SLIDE or RECOVER. -/
def Slide.Sliding (u : Slide) : Prop :=
  ∃ i, (u.machines.get i).state = .suspect ∨ (u.machines.get i).state = .slide ∨ (u.machines.get i).state = .recover

theorem Slide.quiet_eq_false (u : Slide) : u.quiet = false ↔ u.Sliding := by
  rw [← Bool.not_eq_true, Slide.quiet_iff, not_forall]
  refine exists_congr fun i => ?_
  rw [AxleState.doubtful_eq_false]
  tauto

/-- BC lies more than 60 kPa from a settled BCout, with no axle sliding (R125). -/
def State.Deviates (s : State) : Prop :=
  ¬s.slide.Sliding ∧ 1000 ≤ since s.now s.outputs.settleTime ∧
    ∃ p, s.acq.latestChans.bc.value = some p ∧ (p + 60 < s.outputs.bcOut ∨ s.outputs.bcOut + 60 < p)

section
variable {s : State}

theorem State.deviation_none (h : ¬s.Deviates) :
    deviation s.outputs s.acq.latestChans.bc.value (!s.slide.quiet) s.now = none := by
  unfold deviation
  split
  · rfl
  · rename_i p hp
    refine if_pos ?_
    by_contra hn
    simp only [not_or, Bool.not_eq_true', Outputs.settled, decide_eq_false_iff_not, not_not] at hn
    obtain ⟨hq, hsettled, hfar⟩ := hn
    exact h ⟨fun hs => hq (s.slide.quiet_eq_false.mpr hs), hsettled, p, hp, by omega⟩

theorem State.deviation_some (h : s.Deviates) :
    deviation s.outputs s.acq.latestChans.bc.value (!s.slide.quiet) s.now = some (s.outputs.devStart.getD s.now) := by
  obtain ⟨hq, hsettled, p, hp, hfar⟩ := h
  unfold deviation
  rw [hp]
  refine if_neg ?_
  simp only [not_or, Bool.not_eq_true', Outputs.settled, decide_eq_false_iff_not, not_not]
  exact ⟨mt s.slide.quiet_eq_false.mp hq, hsettled, by omega⟩

/-- A cylinder that follows its setpoint ends the run. -/
theorem State.frictionCheck_follows (h : ¬s.Deviates) :
    s.frictionCheck = { s with outputs := { s.outputs with devStart := none } } := by
  unfold State.frictionCheck
  dsimp only
  rw [State.deviation_none h]

variable (h : s.Deviates)
include h

/-- A deviation of less than 3000 ms opens or keeps it. -/
theorem State.frictionCheck_runs (hl : since s.now (s.outputs.devStart.getD s.now) < 3000) :
    s.frictionCheck = { s with outputs := { s.outputs with devStart := some (s.outputs.devStart.getD s.now) } } := by
  unfold State.frictionCheck
  dsimp only
  rw [State.deviation_some h]
  exact if_neg (Nat.not_le.mpr hl)

/-- At 3000 ms it latches FRICTION_FAULT (R125). -/
theorem State.frictionCheck_latches (hl : 3000 ≤ since s.now (s.outputs.devStart.getD s.now)) :
    s.frictionCheck.outputs = { s.outputs with devStart := none, frictionFault := true } := by
  unfold State.frictionCheck
  dsimp only
  rw [State.deviation_some h]
  dsimp only
  rw [if_pos hl]
  exact (State.deliver_delivers _ _).outputs

end

/-! ### A pressure set arrival (R125, R126) -/

/-- The latch clears, stands, or is checked (R125, R126). -/
def State.frictionResponse (s : State) : State :=
  if s.outputs.frictionFault then
    if frictionClears s.demand.mode s.acq.latestChans.bc.value then
      { s with outputs := { s.outputs with frictionFault := false } }
    else s
  else s.frictionCheck

theorem State.outputArrival_response (s : State) : s.outputArrival = s.emergencyDriven.frictionResponse :=
  s.outputArrival_eq

/-- The response changes the deviation run and the latch. -/
theorem State.frictionResponse_frame (s : State) : s.frictionResponse.outputs = { s.outputs with
    devStart := s.frictionResponse.outputs.devStart, frictionFault := s.frictionResponse.outputs.frictionFault } := by
  unfold State.frictionResponse
  split
  · split <;> rfl
  · obtain ⟨run, latch, h⟩ := s.frictionCheck_delivers
    rw [h.outputs]

theorem frictionClears_iff (mode : Mode) (bc : Option Nat) :
    frictionClears mode bc = true ↔ mode = .released ∧ ∃ p, bc = some p ∧ p ≤ 20 := by
  unfold frictionClears
  cases bc <;> simp

theorem State.driveEmergency_devStart (s : State) : s.driveEmergency.outputs.devStart = s.outputs.devStart := by
  show (Outputs.drive _ _ _).devStart = _
  rw [Outputs.drive_frame]

theorem State.emergencyDriven_devStart (s : State) : s.emergencyDriven.outputs.devStart = s.outputs.devStart := by
  unfold State.emergencyDriven
  split
  · exact s.driveEmergency_devStart
  · rfl

/-- The demand section leaves the deviation run. -/
theorem State.demandArrival_devStart (s : State) : s.demandArrival.outputs.devStart = s.outputs.devStart := by
  unfold State.demandArrival
  split
  · unfold State.detect
    split
    · rfl
    · unfold State.beginNotices
      rw [(State.handUrgent_delivers _ _ _).outputs, (State.deliver_delivers _ _).outputs]
      exact (State.driveEmergency_devStart _).trans (by rw [State.changeMode_outputs])
  · split
    · unfold State.exitCheck
      split
      · rw [State.leaveEmergency_eq]
      · rfl
    · rfl

/-- `z` is the state in which the friction response of a scan completion from `s` to `t` begins. -/
structure State.RespondsIn (s z t : State) : Prop where
  latch : z.outputs.frictionFault = s.outputs.frictionFault
  run : z.outputs.devStart = s.outputs.devStart
  now : z.now = s.now
  slide : z.slide = s.slide
  acq : z.acq = t.acq
  mode : z.demand.mode = t.demand.mode
  outputs : t.outputs = z.frictionResponse.outputs

theorem State.SetArrives.responds {s y t : State} (h : State.SetArrives s y t) :
    State.RespondsIn s y.demandArrival.emergencyDriven t := by
  have hb := (y.demandArrival_brakes.trans y.demandArrival.emergencyDriven_brakes).delivers
  have hclock : y.demandArrival.emergencyDriven.clock = y.clock := hb.clock
  have hslide : y.demandArrival.emergencyDriven.slide = y.slide := hb.slide
  have hacq : y.demandArrival.emergencyDriven.acq = y.acq := hb.acq
  refine ⟨?_, ?_, ?_, ?_, ?_, ?_, ?_⟩
  · rw [State.emergencyDriven_frictionFault, State.demandArrival_frictionFault, h.arrival.outputs]
  · rw [State.emergencyDriven_devStart, State.demandArrival_devStart, h.arrival.outputs]
  · rw [State.now, hclock, h.arrival.clock, State.now]
  · rw [hslide, h.arrival.slide]
  · rw [hacq, h.acq]
  · rw [h.demand, State.emergencyDriven_outputs]
  · rw [h.outputs, State.outputArrival_response]

section
variable {s z t : State} (h : State.RespondsIn s z t)
include h

/-- The check reads BCout and its settle time as the same arrival leaves them (log entry 12). -/
theorem State.RespondsIn.deviates_iff : z.Deviates ↔
    ¬s.slide.Sliding ∧ 1000 ≤ since s.now t.outputs.settleTime ∧
      ∃ p, t.acq.latestChans.bc.value = some p ∧ (p + 60 < t.outputs.bcOut ∨ t.outputs.bcOut + 60 < p) := by
  have hframe := z.frictionResponse_frame
  rw [← h.outputs] at hframe
  have hout : t.outputs.bcOut = z.outputs.bcOut := by rw [hframe]
  have hsettle : t.outputs.settleTime = z.outputs.settleTime := by rw [hframe]
  rw [State.Deviates, h.slide, h.now, h.acq, hout, hsettle]

/-- A latch that stands clears in RELEASED at 20 kPa or less (R126). -/
theorem State.RespondsIn.latched (hs : s.outputs.frictionFault = true) :
    t.outputs.devStart = s.outputs.devStart ∧
      t.outputs.frictionFault = !frictionClears t.demand.mode t.acq.latestChans.bc.value := by
  rw [h.outputs, State.frictionResponse, if_pos (h.latch.trans hs), ← h.mode, ← h.acq, ← h.run]
  split
  · rename_i hc
    rw [hc]
    exact ⟨rfl, rfl⟩
  · rename_i hc
    rw [Bool.eq_false_iff.mpr hc]
    exact ⟨rfl, h.latch.trans hs⟩

variable (hs : s.outputs.frictionFault = false)
include hs

/-- While the latch is clear the check runs. -/
theorem State.RespondsIn.checked : t.outputs = z.frictionCheck.outputs := by
  rw [h.outputs, State.frictionResponse, if_neg (by rw [h.latch, hs]; decide)]

theorem State.RespondsIn.follows (hd : ¬z.Deviates) : t.outputs.devStart = none ∧ t.outputs.frictionFault = false := by
  rw [h.checked hs, State.frictionCheck_follows hd]
  exact ⟨rfl, h.latch.trans hs⟩

theorem State.RespondsIn.runs (hd : z.Deviates) {r : Time} (hr : s.outputs.devStart.getD s.now = r)
    (hl : since s.now r < 3000) : t.outputs.devStart = some r ∧ t.outputs.frictionFault = false := by
  rw [← h.run, ← h.now] at hr
  rw [h.checked hs, State.frictionCheck_runs hd (by rw [hr, h.now]; exact hl), hr]
  exact ⟨rfl, h.latch.trans hs⟩

theorem State.RespondsIn.latches (hd : z.Deviates) {r : Time} (hr : s.outputs.devStart = some r)
    (hl : 3000 ≤ since s.now r) : t.outputs.devStart = none ∧ t.outputs.frictionFault = true := by
  have hz : z.outputs.devStart.getD z.now = r := by rw [h.run, hr]; rfl
  rw [h.checked hs, State.frictionCheck_latches hd (by rw [hz, h.now]; exact hl)]
  exact ⟨rfl, rfl⟩

end

/-- Settles O26: the friction response of the arrival by the cases of `State.RespondsIn`, the unserved run by those of
`Outputs.unserved` on the run before the cycle (`State.cycleStage_unserved`). -/
theorem frictionFaultAndUnservedRuns : Obligations.FrictionFaultAndUnservedRuns := by
  constructor
  · intro dt s hr hd
    have h := (s.advance dt).setArrives.responds
    refine ⟨_, exec_scanCompletion_running hr hd, ?_⟩
    generalize State.recordChannels (s.advance dt) (s.advance dt).scanCompletes = t at h ⊢
    intro now bc o sliding deviates clears
    refine ⟨fun hs => ?_, fun hs => ⟨fun hn => ?_, fun hv hn => ?_, fun r hv hrun hl => ?_, fun r hv hrun hl => ?_⟩⟩
    · obtain ⟨hrun, hlatch⟩ := h.latched hs
      refine ⟨hrun, fun hc => ?_, fun hc => ?_⟩
      · exact hlatch.trans (by rw [(frictionClears_iff _ _).mpr hc]; rfl)
      · exact hlatch.trans (by rw [Bool.eq_false_iff.mpr (mt (frictionClears_iff _ _).mp hc)]; rfl)
    · exact h.follows hs (mt h.deviates_iff.mp hn)
    · refine h.runs hs (h.deviates_iff.mpr hv) (r := now) (by rw [State.advance_outputs, hn]; rfl) ?_
      rw [since_self]
      decide
    · exact h.runs hs (h.deviates_iff.mpr hv) (by rw [State.advance_outputs, hrun]; rfl) hl
    · exact h.latches hs (h.deviates_iff.mpr hv) hrun hl
  · intro dt s hr hd
    obtain ⟨t, ht, ho, -⟩ := exec_controlCycle_outputs hr hd
    obtain ⟨hstart, hraised⟩ := (s.advance dt).cycleStage_unserved t.sharing
    refine ⟨t, ht, ?_⟩
    intro now u limit old
    replace ho : t.outputs = (((s.advance dt).cycleStage t.sharing).unserved limit u now).1 := ho
    rw [ho]
    refine ⟨fun h => ?_, fun h hs => ?_, fun r h hs hf => ?_, fun r h hs hf hl => ?_⟩
    · rw [Outputs.unserved_served h]
      exact ⟨rfl, rfl⟩
    · rw [Outputs.unserved_opens h (hstart.trans hs)]
      exact ⟨rfl, rfl⟩
    · rw [Outputs.unserved_stands h (hstart.trans hs) (hf.imp_left hraised.trans)]
      exact ⟨hstart.trans hs, hraised⟩
    · rw [Outputs.unserved_raised h (hstart.trans hs) (hraised.trans hf) hl]
      exact ⟨hstart.trans hs, rfl⟩

end Sys2Proof.Machine
end

section
/-! SUPPORT. The recorder's blocks over every step (laws 1 and 2, R140, R141): each block in one place, the holdings within
their allocations, the free blocks in ascending order and the memories in their canonical form. -/

namespace Sys2Proof.Machine

/-! ### The reset state of the Recorder -/

theorem allotChannels_empty_ascending (next : Nat) (cs : List ChannelCfg) :
    ∀ ch ∈ allotChannels next cs, ch.empty.Pairwise (· < ·) := by
  induction cs generalizing next with
  | nil => simp [allotChannels]
  | cons c cs ih =>
    intro ch hch
    rcases List.mem_cons.mp hch with rfl | hch
    · exact List.pairwise_lt_range'
    · exact ih _ ch hch

theorem resetRecorder_ascending (c : Configuration) : (resetRecorder c).Ascending :=
  ⟨List.pairwise_lt_range', allotChannels_empty_ascending 0 (tableInForce c)⟩

/-! ### Ascending lists of blocks -/

theorem pairwise_lt_of_le_of_nodup {l : List Nat} (h : l.Pairwise (· ≤ ·)) (hn : l.Nodup) : l.Pairwise (· < ·) :=
  (List.Pairwise.and h hn).imp fun ⟨hle, hne⟩ => lt_of_le_of_ne hle hne

/-- While every block is in one place, ascending lists are strictly so. -/
theorem Recorder.Partition.ascending {r : Recorder} (h : r.Partition) (hs : r.spare.Pairwise (· ≤ ·))
    (he : ∀ ch ∈ r.chans, ch.empty.Pairwise (· ≤ ·)) : r.Ascending := by
  have hall : r.blockList.Nodup := h.nodup_iff.mpr List.nodup_range
  obtain ⟨hspare, hchans, -⟩ := List.nodup_append.mp (List.nodup_append.mp hall).1
  refine ⟨pairwise_lt_of_le_of_nodup hs hspare, fun ch hch => pairwise_lt_of_le_of_nodup (he ch hch) ?_⟩
  have hholding : ch.holding.Nodup := (List.nodup_flatMap.mp hchans).1 ch hch
  exact (List.nodup_append.mp hholding).2.1

/-- Moves keep the spare pool and the empty granted blocks in strictly ascending order. -/
theorem Recorder.Moves.ascending {r t : Recorder} (h : Recorder.Moves r t) (hp : r.Partition) (ha : r.Ascending) :
    t.Ascending := by
  obtain ⟨hs, he⟩ := h.ordered ⟨ha.1.imp fun hlt => le_of_lt hlt, fun ch hch => (ha.2 ch hch).imp fun hlt => le_of_lt hlt⟩
  exact (h.partition hp).ascending hs he

/-! ### Every step -/

/-- What every step keeps of the recorder's blocks and of the memories. -/
structure State.KeepsBlocks (s t : State) : Prop where
  partition : s.recorder.Partition → t.recorder.Partition
  bounded : s.recorder.HoldingsBounded → t.recorder.HoldingsBounded
  ascending : s.recorder.Partition → s.recorder.Ascending → t.recorder.Ascending
  canonical : s.MemoriesCanonical → t.MemoriesCanonical

theorem State.KeepsBlocks.refl (s : State) : State.KeepsBlocks s s := ⟨id, id, fun _ => id, id⟩

theorem State.Steady.keepsBlocks {s t : State} {dt : Nat} (h : State.Steady (s.advance dt) t) : State.KeepsBlocks s t :=
  ⟨h.moves.partition, h.moves.holdingsBounded, h.moves.ascending, fun ⟨hb, hf⟩ => ⟨h.moves.wf_blocks hb, h.flash hf⟩⟩

/-- The Recorder's reset state keeps them, on a flash that is canonical. -/
theorem State.keepsBlocks_of_reset {s t : State} {c : Configuration} (hr : t.recorder = resetRecorder c)
    (hf : Memory.wf 0xFF s.flash = true → Memory.wf 0xFF t.flash = true) : State.KeepsBlocks s t := by
  refine ⟨fun _ => ?_, fun _ => ?_, fun _ _ => ?_, fun hc => ⟨?_, hf hc.2⟩⟩
  · rw [hr]
    exact resetRecorder_partition c
  · rw [hr]
    exact resetRecorder_holdings c
  · rw [hr]
    exact resetRecorder_ascending c
  · rw [hr]
    rfl

theorem State.beginReset_flash (s : State) (straps : Straps) (left : List Byte) :
    (s.beginReset straps left).flash = s.cutOff left := by
  unfold State.beginReset
  dsimp only
  split <;> rfl

theorem exec_keepsBlocks {c : Instr} {s t : State} (h : exec c s = .next t) : State.KeepsBlocks s t := by
  rcases exec_cases c s t h with ⟨dt, hs⟩ | ⟨out, straps, left, rfl⟩ | ⟨ok, rfl⟩
  · exact hs.keepsBlocks
  · refine State.keepsBlocks_of_reset (c := defaultConfig) ?_ fun hf => ?_
    · unfold State.beginReset
      dsimp only
      split <;> rfl
    · rw [State.beginReset_flash]
      exact State.cutOff_wf hf left
  · exact State.keepsBlocks_of_reset rfl id

theorem step_keepsBlocks {s t : State} (h : step s = .next t) : State.KeepsBlocks s t := by
  unfold step at h
  split at h
  · cases h
    exact .refl s
  · obtain ⟨hp, hb, ha, hc⟩ := exec_keepsBlocks h
    exact ⟨hp, hb, ha, hc⟩

/-- Settles O48: what every step keeps of the blocks (`step_keepsBlocks`), command by command. -/
theorem blocksStayPartitionedAndBounded : Obligations.BlocksStayPartitionedAndBounded :=
  ⟨fun _ _ hs h => (step_keepsBlocks h).partition hs, fun _ _ hs h => (step_keepsBlocks h).bounded hs,
    fun _ _ hp ha h => (step_keepsBlocks h).ascending hp ha, fun _ _ hs h => (step_keepsBlocks h).canonical hs⟩

end Sys2Proof.Machine
end

section
/-! SUPPORT. The peaks over the events of the running part (R144): between the sets that offer them values, said once as
`State.CarriesPeaks`, they stand, or start anew where an incident is opened. The power-fail warning is excluded: under it an
incident closes in the event that opens it. -/

namespace Sys2Proof.Machine

/-- Work that leaves the peaks as it finds them, all absent after the opening of an incident. -/
structure State.CarriesPeaks (s t : State) : Prop where
  power : s.powerFail = false → t.powerFail = false
  captured : s.powerFail = false → s.recorder.capture ≠ none → t.recorder.capture ≠ none
  peaks : s.powerFail = false → t.recorder.peaks = t.peaksFound s

theorem State.peaksFound_of_open {s t : State} (hs : s.recorder.capture = none) (ht : t.recorder.capture ≠ none) :
    t.peaksFound s = resetPeaks := if_pos ⟨hs, ht⟩

theorem State.peaksFound_of_captured {s t : State} (hs : s.recorder.capture ≠ none) :
    t.peaksFound s = s.recorder.peaks := if_neg fun h => hs h.1

theorem State.peaksFound_of_none {s t : State} (ht : t.recorder.capture = none) :
    t.peaksFound s = s.recorder.peaks := if_neg fun h => h.2 ht

theorem State.peaksFound_of_same {s t : State} (h : t.recorder.capture = s.recorder.capture) :
    t.peaksFound s = s.recorder.peaks := if_neg fun ⟨hs, ht⟩ => ht (h.trans hs)

theorem State.peaksFound_congr {s t u : State} (h : u.recorder.capture = t.recorder.capture) :
    u.peaksFound s = t.peaksFound s := by
  unfold State.peaksFound
  rw [h]

/-- A change of the Recorder that leaves the peaks and the incident in capture. -/
theorem State.CarriesPeaks.of_kept {s t : State} (hp : t.powerFail = s.powerFail)
    (hk : t.recorder.peaks = s.recorder.peaks) (hc : t.recorder.capture = s.recorder.capture) :
    State.CarriesPeaks s t :=
  ⟨fun h => hp.trans h, fun _ h => hc ▸ h, fun _ => hk.trans (State.peaksFound_of_same hc).symm⟩

/-- A change outside the Recorder. -/
theorem State.CarriesPeaks.of_same {s t : State} (hp : t.powerFail = s.powerFail) (hr : t.recorder = s.recorder) :
    State.CarriesPeaks s t := .of_kept hp (by rw [hr]) (by rw [hr])

theorem State.CarriesPeaks.refl (s : State) : State.CarriesPeaks s s := .of_same rfl rfl

/-- What is shown with the warning inactive. -/
theorem State.CarriesPeaks.of_unwarned {s t : State} (h : s.powerFail = false → State.CarriesPeaks s t) :
    State.CarriesPeaks s t := ⟨fun hp => (h hp).power hp, fun hp => (h hp).captured hp, fun hp => (h hp).peaks hp⟩

theorem State.CarriesPeaks.trans {s t u : State} (h : State.CarriesPeaks s t) (h' : State.CarriesPeaks t u) :
    State.CarriesPeaks s u := by
  refine .of_unwarned fun hp => ⟨fun _ => h'.power (h.power hp), fun _ hs => h'.captured (h.power hp) (h.captured hp hs),
    fun _ => ?_⟩
  rw [h'.peaks (h.power hp)]
  by_cases hs : s.recorder.capture = none
  · by_cases ht : t.recorder.capture = none
    · have hts : t.recorder.peaks = s.recorder.peaks := (h.peaks hp).trans (State.peaksFound_of_none ht)
      unfold State.peaksFound
      simp only [hs, ht, hts]
    · have hts : t.recorder.peaks = resetPeaks := (h.peaks hp).trans (State.peaksFound_of_open hs ht)
      rw [State.peaksFound_of_captured ht, hts, State.peaksFound_of_open hs (h'.captured (h.power hp) ht)]
  · rw [State.peaksFound_of_captured (h.captured hp hs), State.peaksFound_of_captured hs, h.peaks hp,
      State.peaksFound_of_captured hs]

/-- The same, after work. -/
theorem State.CarriesPeaks.with_same {s t u : State} (h : State.CarriesPeaks s t) (hp : u.powerFail = t.powerFail)
    (hr : u.recorder = t.recorder) : State.CarriesPeaks s u := h.trans (.of_same hp hr)

/-- The same, before work. -/
theorem State.CarriesPeaks.same_then {s t u : State} (h : State.CarriesPeaks t u) (hp : t.powerFail = s.powerFail)
    (hr : t.recorder = s.recorder) : State.CarriesPeaks s u := .trans (.of_same hp hr) h

/-! ### Event records, counts and triggers -/

theorem Recorder.OnlyChannels.peaks {r t : Recorder} (h : Recorder.OnlyChannels r t) : t.peaks = r.peaks := by rw [h]

theorem Recorder.OnlyChannels.capture {r t : Recorder} (h : Recorder.OnlyChannels r t) : t.capture = r.capture := by
  rw [h]

theorem State.CarriesPeaks.of_channels {s t : State} (hp : t.powerFail = s.powerFail)
    (h : Recorder.OnlyChannels s.recorder t.recorder) : State.CarriesPeaks s t := .of_kept hp h.peaks h.capture

theorem State.logEvent_carries (s : State) (source : EventSource) (detail : List Byte) :
    State.CarriesPeaks s (s.logEvent source detail) :=
  .of_channels (State.logEvent_powerFail s source detail) (by
    rw [State.logEvent_recorder]
    exact Recorder.logEvent_onlyChannels _ _ _ _)

theorem State.bump_carries (s : State) (i : CounterId) : State.CarriesPeaks s (s.bump i) := by
  obtain ⟨c, r, h, hr⟩ := s.bump_frame i
  rw [h]
  exact .of_channels rfl hr

theorem State.handUrgent_carries (s : State) (kind : FrameKind) (payload : List Byte) :
    State.CarriesPeaks s (s.handUrgent kind payload) := by
  unfold State.handUrgent
  split
  · exact s.bump_carries _
  · split
    · exact .of_same rfl rfl
    · split
      · exact .same_then (State.bump_carries _ _) rfl rfl
      · exact s.bump_carries _

/-- The opening of an incident starts the peaks anew (R144, R150). -/
theorem State.openIncident_carries {s : State} (h : s.recorder.capture = none) (x : Trigger) :
    State.CarriesPeaks s (s.openIncident x) := by
  unfold State.openIncident
  dsimp only
  have hopen (t : State) (hp : t.powerFail = s.powerFail) (hc : t.recorder.capture = some (s.newIncident x))
      (hk : t.recorder.peaks = resetPeaks) : State.CarriesPeaks s t :=
    ⟨fun hw => hp.trans hw, fun _ hn => absurd h hn,
      fun _ => hk.trans (State.peaksFound_of_open h (by rw [hc]; exact nofun)).symm⟩
  split
  · refine .trans (hopen _ ?_ ?_ ?_) (State.handUrgent_carries _ _ _) <;> rfl
  · refine hopen _ ?_ ?_ ?_ <;> rfl

theorem State.appendCause_carries {s : State} {inc : Incident} (h : s.recorder.capture = some inc) (x : Trigger) :
    State.CarriesPeaks s (s.appendCause x inc) :=
  ⟨id, fun _ _ => nofun, fun _ => (State.peaksFound_of_captured (by rw [h]; exact nofun)).symm⟩

/-- A trigger, with the warning inactive, closes no incident. -/
theorem State.raise_carries (s : State) (x : Trigger) : State.CarriesPeaks s (s.raise x) := by
  refine .of_unwarned fun hp => ?_
  unfold State.raise
  split
  · exact s.bump_carries _
  · split
    · exact .refl s
    · split
      · exact s.bump_carries _
      · split
        · exact s.bump_carries _
        · split
          · rename_i inc hc
            exact State.appendCause_carries hc x
          · rename_i hc
            split
            · exact s.bump_carries _
            · rw [if_neg (by simp [hp])]
              exact State.openIncident_carries hc x

theorem State.deliver_carries (s : State) (m : Message) : State.CarriesPeaks s (s.deliver m) := by
  cases m with
  | event source detail => exact s.logEvent_carries source detail
  | trigger x => exact s.raise_carries x
  | urgent kind payload => exact s.handUrgent_carries kind payload
  | count i => exact s.bump_carries i

theorem State.deliverAll_carries (s : State) (ms : List Message) : State.CarriesPeaks s (s.deliverAll ms) := by
  induction ms generalizing s with
  | nil => exact .refl s
  | cons m ms ih => exact (s.deliver_carries m).trans (ih _)

/-! ### The stages of the three events -/

theorem State.changeMode_carries (s : State) (new : Mode) (cause : EventCause) (more : List Byte) :
    State.CarriesPeaks s (s.changeMode new cause more) :=
  .same_then (State.logEvent_carries { s with demand := { s.demand with mode := new } } .mode _) rfl rfl

theorem State.enterEmergency_carries (s : State) (cause : EventCause) (more : List Byte) :
    State.CarriesPeaks s (s.enterEmergency cause more) :=
  (s.changeMode_carries .emergency cause more).with_same
    (by simp only [State.enterEmergency, State.restartExit, State.driveEmergency])
    (by simp only [State.enterEmergency, State.restartExit, State.driveEmergency])

theorem State.detect_carries (s : State) (cause : Detection) (bp : Nat) (fall : Int) :
    State.CarriesPeaks s (s.detect cause bp fall) := by
  unfold State.detect
  split
  · exact .of_same rfl rfl
  · unfold State.beginNotices
    exact ((s.enterEmergency_carries (detectionEvent cause) []).trans
      (State.deliver_carries _ (localTrigger cause bp fall))).trans
      (.same_then (State.handUrgent_carries _ _ _) (by simp only) (by simp only))

theorem State.exitCheck_carries (s : State) : State.CarriesPeaks s s.exitCheck := by
  unfold State.exitCheck
  split
  · unfold State.leaveEmergency
    dsimp only
    generalize (if 0 < s.demand.d ∨ 0 < s.sharing.sd then Mode.service else .released) = new
    exact (s.changeMode_carries new .exit []).with_same (by simp only) (by simp only)
  · exact .of_same rfl rfl

theorem State.demandArrival_carries (s : State) : State.CarriesPeaks s s.demandArrival := by
  unfold State.demandArrival
  split
  · exact s.detect_carries _ _ _
  · split
    · exact s.exitCheck_carries
    · exact .refl s

theorem State.frictionCheck_carries (s : State) : State.CarriesPeaks s s.frictionCheck := by
  unfold State.frictionCheck
  dsimp only
  split
  · exact .of_same rfl rfl
  · split
    · exact .same_then (State.deliver_carries _ _) rfl rfl
    · exact .of_same rfl rfl

theorem State.outputArrival_carries (s : State) : State.CarriesPeaks s s.outputArrival := by
  have hd : State.CarriesPeaks s s.emergencyDriven := by
    unfold State.emergencyDriven
    split
    · exact .of_same rfl rfl
    · exact .refl s
  refine hd.trans ?_
  rw [State.outputArrival_eq]
  split
  · split
    · exact .of_same rfl rfl
    · exact .refl _
  · exact State.frictionCheck_carries _

theorem State.scanArrived_carries (s : State) : State.CarriesPeaks s s.scanArrived := by
  have hd : State.CarriesPeaks s s.scanned := .same_then (State.deliverAll_carries _ _) rfl rfl
  exact (hd.trans (State.demandArrival_carries _)).trans (State.outputArrival_carries _)

theorem State.speedsTaken_carries (s : State) : State.CarriesPeaks s s.speedsTaken := by
  have h₄ : State.CarriesPeaks s s.afterStage4 := .same_then (State.deliverAll_carries _ _) rfl rfl
  have h₅ : State.CarriesPeaks s s.afterStage5 := h₄.trans (.same_then (State.deliverAll_carries _ _) rfl rfl)
  exact h₅.with_same rfl rfl

theorem State.enterRoutine_carries (s : State) (f : TxFrame) : State.CarriesPeaks s (s.enterRoutine f) := by
  rw [State.enterRoutine_eq]
  unfold State.bumpIf
  split
  · exact .same_then (State.bump_carries _ _) rfl rfl
  · exact .of_same rfl rfl

theorem State.earlyTest_carries (s : State) : State.CarriesPeaks s s.earlyTest := by
  unfold State.earlyTest State.makeDue State.queueStatement
  split
  · exact .refl s
  · split
    · split
      · split
        · exact (s.enterRoutine_carries _).with_same rfl rfl
        · exact .of_same rfl rfl
      · exact .refl s
    · exact .refl s

theorem State.outputStage_carries (s : State) : State.CarriesPeaks s s.outputStage := by
  unfold State.outputStage
  dsimp only
  split
  · exact .same_then (State.deliver_carries _ _) rfl rfl
  · exact .of_same rfl rfl

theorem State.evaluateMode_carries (s : State) : State.CarriesPeaks s s.evaluateMode := by
  unfold State.evaluateMode
  dsimp only
  split
  · exact .refl s
  · split
    · exact .refl s
    · exact s.changeMode_carries _ _ _

theorem State.cycleDone_carries (s : State) : State.CarriesPeaks s s.cycleDone := by
  have hl (x : State) : State.CarriesPeaks x x.linkCheck := .same_then (State.deliverAll_carries _ _) rfl rfl
  have hs (x : State) : State.CarriesPeaks x x.computeDemand.sharingStage := .of_same rfl rfl
  have he := State.earlyTest_carries { s with demand := { s.demand with cycleDue := s.demand.cycleDue + 20000 } }
  exact .same_then ((((he.trans (hl _)).trans (hs _)).trans (State.outputStage_carries _)).trans
    (State.evaluateMode_carries _)) rfl rfl

/-! ### The values offered -/

theorem peakMax_after (p : Option Peak) (v : Int) (t : Time) : PeakAfter p (peakMax p v t) v t := by
  cases p with
  | none => exact ⟨fun _ => rfl, nofun⟩
  | some k =>
    refine ⟨nofun, fun k' hk => ?_⟩
    obtain rfl := Option.some.inj hk
    exact ⟨fun h => if_pos h, fun h => if_neg (not_lt.mpr h)⟩

theorem peakMin_none (v : Int) (t : Time) : peakMin none v t = some ⟨v, t⟩ := rfl

theorem peakMin_below {k : Peak} {v : Int} (h : v < k.value) (t : Time) : peakMin (some k) v t = some ⟨v, t⟩ := if_pos h

theorem peakMin_above {k : Peak} {v : Int} (h : k.value ≤ v) (t : Time) : peakMin (some k) v t = some k :=
  if_neg (not_lt.mpr h)

/-- What the peaks become when values are offered depends on the peaks alone. -/
theorem Recorder.peakSlip_congr {r x : Recorder} (h : r.peaks = x.peaks) (q : Tri Nat) (t : Time) :
    (r.peakSlip q t).peaks = (x.peakSlip q t).peaks := by
  unfold Recorder.peakSlip
  rw [h]

theorem Recorder.peakPressure_congr {r x : Recorder} (h : r.peaks = x.peaks) (bp bc : Option Nat) (t : Time) :
    (r.peakPressure bp bc t).peaks = (x.peakPressure bp bc t).peaks := by
  unfold Recorder.peakPressure
  rw [h]

theorem Recorder.peakBlend_congr {r x : Recorder} (h : r.peaks = x.peaks) (u : Nat) (diff : Int) (t : Time) :
    (r.peakBlend u diff t).peaks = (x.peakBlend u diff t).peaks := by
  unfold Recorder.peakBlend
  rw [h]

theorem State.recordPressures_peaks {s : State} {p : PressureSet} (h : s.acq.latest = some p) :
    s.recordPressures.recorder.peaks = (s.recorder.peakPressure p.chans.bp.value p.chans.bc.value s.now).peaks := by
  rw [State.recordPressures, h]
  exact Recorder.peakPressure_congr (Recorder.trace_onlyChannels _ _ _).peaks _ _ _

theorem State.recordSpeeds_peaks (s : State) : s.recordSpeeds.recorder.peaks =
    (s.recorder.peakSlip (s.slide.machines.map AxleMachine.lastQ) s.now).peaks := by
  rw [State.recordSpeeds]
  exact Recorder.peakSlip_congr (Recorder.trace_onlyChannels _ _ _).peaks _ _

theorem State.recordBlend_peaks (s : State) : s.recordBlend.recorder.peaks =
    (s.recorder.peakBlend s.sharing.u ((s.outputs.ecmd : Int) - s.outputs.status.eact) s.now).peaks := by
  rw [State.recordBlend]
  exact Recorder.peakBlend_congr (Recorder.trace_onlyChannels _ _ _).peaks _ _ _

/-- Work, and after it what leaves the incident in capture: the peaks that the work leaves are those found. -/
theorem State.CarriesPeaks.found {s x t : State} (h : State.CarriesPeaks s x) (hp : s.powerFail = false)
    (hc : t.recorder.capture = x.recorder.capture) : x.recorder.peaks = t.peaksFound s :=
  (h.peaks hp).trans (State.peaksFound_congr hc).symm

theorem State.recordChannels_onlyChannels (before after : State) :
    Recorder.OnlyChannels after.recorder (before.recordChannels after).recorder := by
  obtain ⟨r, h, hr⟩ := before.recordChannels_frame after
  rw [h]
  exact hr

/-- The peaks, and the incident in capture, at the end of an event are those its work leaves. -/
theorem State.recordChannels_peaks (before after : State) :
    (before.recordChannels after).recorder.peaks = after.recorder.peaks ∧
      (before.recordChannels after).recorder.capture = after.recorder.capture := by
  have h := before.recordChannels_onlyChannels after
  exact ⟨h.peaks, h.capture⟩

/-- SPEED_WINDOW_EXPIRY leaves the Recorder as the records of the arrival leave it. -/
theorem State.windowExpires_recorder (s : State) (faults : Tri Bool) :
    (s.windowExpires faults).recorder = (s.windowed faults).speedsTaken.recordSpeeds.recorder := by
  have ha : (s.windowed faults).speedArrival = (s.windowed faults).speedsTaken.recordSpeeds :=
    (s.windowed faults).speedArrival_eq
  rw [← ha, State.windowExpires_eq]
  split
  · rfl
  · rw [State.standstillChanged_frame]

section
variable {s : State} {dt : Nat} (hr : s.runPhase = .running) (hp : s.powerFail = false)
include hr hp

/-- The peaks after a pressure set arrival. -/
theorem exec_scanCompletion_peaks (hd : s.acq.scanDue ≤ s.clock + dt) : ∃ t, exec (.scanCompletion dt) s = .next t ∧
    t.recorder.peaks = (Recorder.peakPressure { t.recorder with peaks := t.peaksFound s }
      t.acq.latestChans.bp.value t.acq.latestChans.bc.value (s.advance dt).now).peaks := by
  obtain ⟨p, hlatest, -, hchans⟩ := (s.advance dt).scanArrived_latest
  have hx : State.CarriesPeaks s (s.advance dt).scanArrived := .same_then (State.scanArrived_carries _) rfl rfl
  have hrec := State.recordPressures_delivers (s.advance dt).scanArrived
  have hacq := (hrec.trans (State.recordChannels_delivers (s.advance dt) _)).acq
  have hnow : (s.advance dt).scanArrived.now = (s.advance dt).now :=
    congrArg reading (hrec.clock.symm.trans (State.scanCompletes_steady _).clock)
  have hq := (s.advance dt).scanArrived.recordPressures_quiet.capture
  refine ⟨_, exec_scanCompletion_running hr hd, ?_⟩
  rw [State.scanCompletes_eq]
  obtain ⟨hk, hc⟩ := (s.advance dt).recordChannels_peaks (s.advance dt).scanArrived.recordPressures
  rw [hk, hacq, hchans, ← hnow, State.recordPressures_peaks hlatest]
  exact Recorder.peakPressure_congr (hx.found hp (hc.trans hq)) _ _ _

/-- The peaks after a speed set arrival. -/
theorem exec_speedWindowExpiry_peaks (hd : s.acq.windowDue ≤ s.clock + dt) (f₁ f₂ f₃ : Bool) :
    ∃ t, exec (.speedWindowExpiry dt f₁ f₂ f₃) s = .next t ∧
      t.recorder.peaks = (Recorder.peakSlip { t.recorder with peaks := t.peaksFound s }
        (t.slide.machines.map AxleMachine.lastQ) (s.advance dt).now).peaks := by
  have hx : State.CarriesPeaks s ((s.advance dt).windowed ⟨f₁, f₂, f₃⟩).speedsTaken :=
    .same_then (State.speedsTaken_carries _) rfl rfl
  have hslide := ((s.advance dt).windowExpires_quiet ⟨f₁, f₂, f₃⟩).2
  have hq := ((s.advance dt).windowed ⟨f₁, f₂, f₃⟩).speedsTaken.recordSpeeds_quiet.capture
  refine ⟨_, exec_speedWindowExpiry_running hr hd f₁ f₂ f₃, ?_⟩
  obtain ⟨hk, hc⟩ := (s.advance dt).recordChannels_peaks ((s.advance dt).windowExpires ⟨f₁, f₂, f₃⟩)
  rw [State.windowExpires_recorder] at hk hc
  rw [hk, (State.recordChannels_delivers _ _).slide, hslide, ← State.advance_windowed_now s dt ⟨f₁, f₂, f₃⟩,
    State.recordSpeeds_peaks]
  exact Recorder.peakSlip_congr (hx.found hp (hc.trans hq)) _ _

/-- The peaks after a control cycle. -/
theorem exec_controlCycle_peaks (hd : s.demand.cycleDue ≤ s.clock + dt) : ∃ t, exec (.controlCycle dt) s = .next t ∧
    t.recorder.peaks = (Recorder.peakBlend { t.recorder with peaks := t.peaksFound s } t.sharing.u
      ((t.outputs.ecmd : Int) - t.outputs.status.eact) (s.advance dt).now).peaks := by
  have hx : State.CarriesPeaks s (s.advance dt).cycleDone := .same_then (State.cycleDone_carries _) rfl rfl
  have hdel := (State.recordBlend_delivers (s.advance dt).cycleDone).trans
    (State.recordChannels_delivers (s.advance dt) (s.advance dt).controlCycle)
  have hq := (s.advance dt).cycleDone.recordBlend_quiet.capture
  refine ⟨_, exec_controlCycle_running hr hd, ?_⟩
  obtain ⟨hk, hc⟩ := (s.advance dt).recordChannels_peaks (s.advance dt).cycleDone.recordBlend
  rw [hdel.sharing, hdel.outputs, ← State.cycleDone_now]
  refine hk.trans ?_
  rw [State.recordBlend_peaks]
  exact Recorder.peakBlend_congr (hx.found hp (hc.trans hq)) _ _ _

end

/-- Settles O42: each event's peaks are those it finds with its set's values offered (`exec_scanCompletion_peaks`,
`exec_speedWindowExpiry_peaks`, `exec_controlCycle_peaks`), by `peakMax_after` and the cases of `peakMin`. -/
theorem peaksKeepExtremeValues : Obligations.PeaksKeepExtremeValues := by
  intro dt s hr hp now
  refine ⟨fun hd => ?_, fun f₁ f₂ f₃ hd => ?_, fun hd => ?_⟩
  · obtain ⟨t, ht, hk⟩ := exec_scanCompletion_peaks hr hp hd
    refine ⟨t, ht, ?_⟩
    intro p n chans
    have hn : n = _ := hk
    rw [hn]
    refine ⟨rfl, fun h => ?_, fun h => ?_, fun v h => ⟨fun ha => ?_, fun k ha => ⟨fun hv => ?_, fun hv => ?_⟩⟩,
      fun v h => ?_⟩
    all_goals dsimp only [Recorder.peakPressure]; rw [h]
    · dsimp only
      rw [show (t.peaksFound s).bp = none from ha, peakMin_none]
    · dsimp only
      rw [show (t.peaksFound s).bp = some k from ha, peakMin_below hv]
    · dsimp only
      rw [show (t.peaksFound s).bp = some k from ha, peakMin_above hv]
    · exact peakMax_after _ _ _
  · obtain ⟨t, ht, hk⟩ := exec_speedWindowExpiry_peaks hr hp hd f₁ f₂ f₃
    refine ⟨t, ht, ?_⟩
    intro p n m
    have hn : n = _ := hk
    rw [hn]
    exact ⟨rfl, peakMax_after _ _ _, peakMax_after _ _ _, peakMax_after _ _ _⟩
  · obtain ⟨t, ht, hk⟩ := exec_controlCycle_peaks hr hp hd
    refine ⟨t, ht, ?_⟩
    intro p n
    have hn : n = _ := hk
    rw [hn]
    exact ⟨rfl, peakMax_after _ _ _, peakMax_after _ _ _⟩

end Sys2Proof.Machine
end

section
/-! SUPPORT. CLEAR_CHANNEL (R143): the rows of its answer, and the channel that it clears. -/

namespace Sys2Proof.Machine

/-! ### The rows of R143 -/

section
variable {s : State} {c : Nat} {ch : Channel}

theorem State.serveClear_off (h : s.recorder.chans[c]? = some ch) (ho : ch.state = .off) :
    s.serveClear c = s.respond .clearChannel .badRequest [] := by
  rw [State.serveClear, h]
  exact if_pos ho

variable (h : s.recorder.chans[c]? = some ch) (ho : ch.state ≠ .off)
include h ho

theorem State.serveClear_moving (hs : s.slide.standstill = false) :
    s.serveClear c = s.respond .clearChannel .notStandstill [] := by
  rw [State.serveClear, h]
  dsimp only
  rw [if_neg ho, if_pos hs]

variable (hs : s.slide.standstill = true)
include hs

theorem State.serveClear_capturing (hc : s.recorder.state = .capturing) :
    s.serveClear c = s.respond .clearChannel .busy [] := by
  rw [State.serveClear, h]
  dsimp only
  rw [if_neg ho, if_neg (by simp [hs]), if_pos hc]

theorem State.serveClear_taken (hc : s.recorder.state ≠ .capturing) : s.serveClear c =
    State.respond { s with recorder := { s.recorder with chans := s.recorder.chans.set c ch.cleared } }
      .clearChannel .ok [] := by
  rw [State.serveClear, h]
  dsimp only
  rw [if_neg ho, if_neg (by simp [hs]), if_neg hc]

end

/-! ### The request -/

theorem channelNumber_read {b : Byte} (h : b.toNat ≤ 7) : channelNumber [b] = some b.toNat := if_pos ⟨rfl, h⟩

theorem channelNumber_none {b : Byte} (h : 7 < b.toNat) : channelNumber [b] = none :=
  if_neg fun hb => absurd hb.2 (Nat.not_le.mpr h)

section
variable {s : State} (hp : s.service.inProgress = none)
include hp

/-- Without a request in progress the operand decides (R177). -/
theorem State.request_unread {α : Type} (c : Command) (serve : α → State → State) :
    s.request c none serve = s.hunt.respond c .badRequest [] := by
  unfold State.request
  dsimp only
  rw [if_neg (by simp [hp])]

theorem State.request_served {α : Type} (c : Command) (x : α) (serve : α → State → State) :
    s.request c (some x) serve = serve x s.hunt := by
  unfold State.request
  dsimp only
  rw [if_neg (by simp [hp])]

end

/-- A channel exchanged for one with the same holding leaves every channel's state. -/
theorem Recorder.states_set {r : Recorder} {c : Nat} {ch ch' : Channel} (h : r.chans[c]? = some ch)
    (hp : ch'.holding.Perm ch.holding) (he : ch'.enable = ch.enable) :
    Recorder.states { r with chans := r.chans.set c ch' } = r.states := by
  obtain ⟨hlt, hch⟩ := List.getElem?_eq_some_iff.mp h
  unfold Recorder.states
  rw [List.map_set, he, Channel.state_of_perm hp he]
  refine List.ext_getElem (by simp) fun i h₁ h₂ => ?_
  rw [List.getElem_set]
  split
  · subst i
    rw [List.getElem_map, hch]
  · rfl

section
variable {s : State} {dt : Nat} {b : Byte} (hr : s.runPhase = .running) (hp : s.service.inProgress = none)
include hr hp

/-- CLEAR_CHANNEL with a channel number out of range. -/
theorem exec_clearChannel_unread (hb : 7 < b.toNat) :
    exec (.clearChannel dt [b]) s = .next ((s.arrival dt).answers 9 .badRequest []) := by
  have ht : (s.advance dt).takeClearChannel [b] = (s.advance dt).hunt.respond .clearChannel .badRequest [] := by
    rw [State.takeClearChannel, channelNumber_none hb]
    exact State.request_unread (s := s.advance dt) hp _ _
  have he : s.event dt (fun s => s.takeClearChannel [b]) = (s.advance dt).takeClearChannel [b] :=
    State.event_same hr (by rw [ht]; rfl)
  exact congrArg _ (he.trans ht)

/-- CLEAR_CHANNEL of one of the eight channels, its service leaving the channels' states. -/
theorem exec_clearChannel_served (hb : b.toNat ≤ 7) {t : State} (ht : (s.arrival dt).serveClear b.toNat = t)
    (hs : t.recorder.states = s.recorder.states) : exec (.clearChannel dt [b]) s = .next t := by
  have hserve : (s.advance dt).takeClearChannel [b] = t := by
    rw [State.takeClearChannel, channelNumber_read hb, State.request_served (s := s.advance dt) hp]
    exact ht
  have he : s.event dt (fun s => s.takeClearChannel [b]) = (s.advance dt).takeClearChannel [b] :=
    State.event_same hr (by rw [hserve]; exact hs)
  exact congrArg _ (he.trans hserve)

end

/-- Settles O45: an unread operand (`exec_clearChannel_unread`), then the rows of R143 (`State.serveClear_off` and its
neighbours); a cleared channel holds what it held (`Channel.cleared_holding`). -/
theorem clearChannelByFirstRowThatHolds : Obligations.ClearChannelByFirstRowThatHolds := by
  intro dt b s hr hp u
  refine ⟨fun hb => exec_clearChannel_unread hr hp hb, fun ch hb hch => ⟨fun ho => ?_, fun ho hs => ?_,
    fun ho hs hc => ?_, fun ho hs hc => ?_⟩⟩
  · exact exec_clearChannel_served hr hp hb (State.serveClear_off (s := s.arrival dt) hch ho) rfl
  · exact exec_clearChannel_served hr hp hb (State.serveClear_moving (s := s.arrival dt) hch ho hs) rfl
  · exact exec_clearChannel_served hr hp hb (State.serveClear_capturing (s := s.arrival dt) hch ho hs hc) rfl
  · refine ⟨ch.cleared.empty, ?_, foldl_insertAsc_pairwise _ _, ?_⟩
    · exact ch.cleared_holding
    · exact exec_clearChannel_served hr hp hb (State.serveClear_taken (s := s.arrival dt) hch ho hs hc)
        (Recorder.states_set hch ch.cleared_holding rfl)

end Sys2Proof.Machine
end

section
/-! SUPPORT. Recorders that hold their blocks alike (`Recorder.HoldsAs`): event records change no holding but for the order of
its blocks, and a round of the spare arbiter after blocks have come back (R141). -/

namespace Sys2Proof.Machine

/-! ### Holding alike -/

theorem Recorder.HoldsAs.of_same {t r : Recorder} (hs : t.spare = r.spare) (hl : t.lastServed = r.lastServed)
    (hc : t.chans = r.chans) : t.HoldsAs r := by
  refine ⟨hs, hl, congrArg List.length hc, fun c ch old hch hold => ?_⟩
  obtain rfl : ch = old := Option.some.inj (hch.symm.trans (hc ▸ hold))
  exact ⟨.refl _, rfl, rfl⟩

theorem Recorder.HoldsAs.refl (r : Recorder) : r.HoldsAs r := .of_same rfl rfl rfl

theorem Recorder.HoldsAs.trans {u t r : Recorder} (h : u.HoldsAs t) (h' : t.HoldsAs r) : u.HoldsAs r := by
  obtain ⟨hs, hl, hn, hc⟩ := h
  obtain ⟨hs', hl', hn', hc'⟩ := h'
  refine ⟨hs.trans hs', hl.trans hl', hn.trans hn', fun c ch old hch hold => ?_⟩
  have hlt : c < t.chans.length := hn ▸ (List.getElem?_eq_some_iff.mp hch).1
  obtain ⟨hp, ha, he⟩ := hc c ch _ hch (List.getElem?_eq_getElem hlt)
  obtain ⟨hp', ha', he'⟩ := hc' c _ old (List.getElem?_eq_getElem hlt) hold
  exact ⟨hp.trans hp', ha.trans ha', he.trans he'⟩

theorem Recorder.offer_holdsAs (r : Recorder) (c : Nat) (rec : TraceRecord) : (r.offer c rec).1.HoldsAs r := by
  rcases r.offer_cases c rec with he | ⟨old, new, m, hold, he, hp, ha, hen, -⟩
  · rw [he]
    exact .refl r
  · rw [he]
    refine ⟨rfl, rfl, List.length_set, fun i ch old' hch hold' => ?_⟩
    rw [List.getElem?_set] at hch
    split at hch
    · subst i
      rw [if_pos (List.getElem?_eq_some_iff.mp hold).1] at hch
      obtain rfl := Option.some.inj hch
      obtain rfl := Option.some.inj (hold.symm.trans hold')
      exact ⟨hp, ha, hen⟩
    · obtain rfl := Option.some.inj (hch.symm.trans hold')
      exact ⟨.refl _, rfl, rfl⟩

theorem foldl_offerStep_holdsAs (sel : Channel → Bool) (rec : TraceRecord) (cs : List Nat) (acc : Recorder × List Nat) :
    (cs.foldl (offerStep sel rec) acc).1.HoldsAs acc.1 := by
  induction cs generalizing acc with
  | nil => exact .refl _
  | cons c cs ih =>
    refine (ih _).trans ?_
    unfold offerStep
    split
    · exact acc.1.offer_holdsAs c rec
    · exact .refl _

theorem Recorder.foldl_holdsAs {β : Type} {f : Recorder → β → Recorder} (h : ∀ r b, (f r b).HoldsAs r) (bs : List β)
    (r : Recorder) : (bs.foldl f r).HoldsAs r := by
  induction bs generalizing r with
  | nil => exact .refl r
  | cons b bs ih => exact (ih _).trans (h r b)

theorem Recorder.log_holdsAs (n : Nat) (t : Time) (source : Nat) (detail : List Byte) (r : Recorder) :
    (Recorder.log n t source detail r).HoldsAs r := by
  induction n generalizing source detail r with
  | zero => exact .refl r
  | succ n ih =>
    rw [Recorder.log, Recorder.offerAll_eq]
    exact (Recorder.foldl_holdsAs (fun r _ => ih _ _ r) _ _).trans (foldl_offerStep_holdsAs _ _ _ (r, []))

/-- An event record leaves every holding but for its order. -/
theorem State.logEvent_holdsAs (s : State) (source : EventSource) (detail : List Byte) :
    (s.logEvent source detail).recorder.HoldsAs s.recorder := by
  rw [State.logEvent_recorder]
  exact Recorder.log_holdsAs 9 s.now (eventSourceCode source) detail s.recorder

theorem State.bump_holdsAs (s : State) (i : CounterId) : (s.bump i).recorder.HoldsAs s.recorder := by
  unfold State.bump
  split
  · dsimp only
    split
    · exact State.logEvent_holdsAs _ _ _
    · exact .refl _
  · exact .refl _

theorem Recorder.OnlyChannels.state {r t : Recorder} (h : Recorder.OnlyChannels r t) : t.state = r.state := by rw [h]

theorem Recorder.OnlyChannels.pendingQueue {r t : Recorder} (h : Recorder.OnlyChannels r t) :
    t.pendingQueue = r.pendingQueue := by rw [h]

theorem State.bump_onlyChannels (s : State) (i : CounterId) :
    Recorder.OnlyChannels s.recorder (s.bump i).recorder := by
  obtain ⟨c, r, h, hr⟩ := s.bump_frame i
  rw [h]
  exact hr

theorem State.bump_store (s : State) (i : CounterId) : (s.bump i).store = s.store := by
  obtain ⟨c, r, h, -⟩ := s.bump_frame i
  rw [h]

theorem State.recordChannels_holdsAs (before after : State) :
    (before.recordChannels after).recorder.HoldsAs after.recorder := by
  unfold State.recordChannels
  generalize (before.recorder.chans.zip after.recorder.chans).zipIdx = l
  induction l generalizing after with
  | nil => exact .refl _
  | cons p l ih =>
    rw [List.foldl_cons]
    refine (ih _).trans ?_
    split
    · exact State.logEvent_holdsAs _ _ _
    · exact .refl _

/-! ### A round after blocks have come back (R141) -/

theorem Recorder.RoundAfter.of_holdsAs {r t u : Recorder} {back : List Nat} {capped : Bool}
    (h : r.RoundAfter back capped t) (hu : u.HoldsAs t) : r.RoundAfter back capped u := by
  obtain ⟨pool, hp, ho, ht⟩ := h
  exact ⟨pool, hp, ho, hu.trans ht⟩

theorem Recorder.returnBlocks_roundAfter (r : Recorder) (back : List Nat) (capped : Bool) :
    r.RoundAfter back capped ((r.returnBlocks back).round capped) :=
  ⟨(r.returnBlocks back).spare, r.returnBlocks_spare back, foldl_insertAsc_pairwise back r.spare, .refl _⟩

/-- The arbiter does not read the pending queue. -/
theorem Recorder.grants_withPending (n : Nat) (capped : Bool) (got : List Nat) (r : Recorder) (q : List PendingEntry) :
    Recorder.grants n capped got { r with pendingQueue := q } =
      { Recorder.grants n capped got r with pendingQueue := q } := by
  induction n generalizing got r with
  | zero => rfl
  | succ n ih =>
    have hnext : Recorder.nextServed { r with pendingQueue := q } capped got = r.nextServed capped got := rfl
    simp only [Recorder.grants, hnext]
    split
    · rename_i b rest c _ _
      exact ih (c :: got) (r.grant c b rest)
    · rfl

theorem Recorder.round_withPending (r : Recorder) (capped : Bool) (q : List PendingEntry) :
    Recorder.round { r with pendingQueue := q } capped = { r.round capped with pendingQueue := q } :=
  Recorder.grants_withPending _ _ _ _ _

section
variable {r : Recorder} {e : PendingEntry} {es : List PendingEntry} (h : r.pendingQueue = e :: es)
include h

theorem Recorder.retire_eq : r.retire = { (r.returnBlocks e.blocks).round false with pendingQueue := es } := by
  rw [Recorder.retire, h]
  exact Recorder.round_withPending (r.returnBlocks e.blocks) false es

theorem Recorder.retire_pendingQueue : r.retire.pendingQueue = es := by rw [Recorder.retire_eq h]

/-- The oldest entry's frozen blocks return to the spare pool, and the uncapped round runs (R141, R167, R168). -/
theorem Recorder.retire_roundAfter : r.RoundAfter e.blocks false r.retire := by
  rw [Recorder.retire_eq h]
  exact (r.returnBlocks_roundAfter e.blocks false).of_holdsAs (.of_same rfl rfl rfl)

end

end Sys2Proof.Machine
end

section
/-! SUPPORT. The close of the incident in capture by the rows of R158, said once as `State.Closes`, and the two events that
close it (R156, R157). -/

namespace Sys2Proof.Machine

/-! ### The start test that follows a close (R165) -/

/-- The start test under the warning, or with a slot for the oldest entry: no entry is dropped. -/
theorem State.startTest_drops_none {s : State}
    (h : s.powerFail = true ∨ (s.store.chooseTarget (s.store.lastWritten.getD 0)).isSome) :
    s.startTest.recorder = s.recorder ∧ s.startTest.counters = s.counters := by
  unfold State.startTest
  cases s.recorder.pendingQueue.length with
  | zero => exact ⟨rfl, rfl⟩
  | succ n =>
    rw [State.startTests]
    split
    · rename_i hc
      rcases h with h | h
      · simp [State.canStart, h] at hc
      · obtain ⟨slot, hslot⟩ := Option.isSome_iff_exists.mp h
        rw [hslot]
        exact ⟨rfl, rfl⟩
    · exact ⟨rfl, rfl⟩

/-- Under the warning the start test does nothing (R165, R169). -/
theorem State.startTest_warned {s : State} (h : s.powerFail = true) : s.startTest = s := by
  unfold State.startTest
  cases s.recorder.pendingQueue.length with
  | zero => rfl
  | succ n =>
    rw [State.startTests]
    exact if_neg (by simp [State.canStart, h])

/-! ### The rows of R158 -/

/-- The pending entry that the close of an incident makes (R158, R159). -/
def State.closedEntry (s : State) (inc : Incident) (truncated absent : Bool) (frozen : List FrozenList) :
    PendingEntry :=
  { incident := { inc with truncated := truncated }, closeTime := s.now, tracesAbsent := absent,
    retention := inc.requestsRetention, frozen := frozen }

/-- The channels that a freeze takes, with their numbers (R142). -/
def Recorder.running (r : Recorder) : List (Channel × Nat) := r.chans.zipIdx.filter fun p => p.1.isRunning

/-- The Recorder with the holdings of its RUNNING channels taken out (R142). -/
def Recorder.vacated (r : Recorder) : Recorder :=
  { r with chans := r.chans.map fun ch => if ch.isRunning then ch.emptied else ch }

theorem Recorder.running_length (r : Recorder) : r.running.length = r.runningCount := by
  have h (l : List Channel) (k : Nat) :
      ((l.zipIdx k).filter fun p => p.1.isRunning).length = (l.filter Channel.isRunning).length := by
    induction l generalizing k with
    | nil => rfl
    | cons ch l ih =>
      rw [List.zipIdx_cons, List.filter_cons, List.filter_cons]
      split
      · rw [List.length_cons, List.length_cons, ih]
      · exact ih _
  exact h r.chans 0

theorem Recorder.freeze_roundAfter (r : Recorder) :
    r.vacated.RoundAfter (r.running.flatMap fun p => p.1.empty) true (r.freeze.1.round true) :=
  r.vacated.returnBlocks_roundAfter _ true

/-- What the close of an incident leaves, by the first row of R158 that holds. -/
structure State.Closes (s : State) (inc : Incident) (truncated : Bool) (t : State) : Prop where
  state : t.recorder.state = .idle
  capture : t.recorder.capture = none
  dropped : 4 ≤ s.recorder.pendingQueue.length →
    t.recorder.pendingQueue = s.recorder.pendingQueue ∧ t.recorder.HoldsAs s.recorder ∧
      t.counters.incidentsLost = countedOnce s.counters.incidentsLost
  summary : s.recorder.pendingQueue.length < 4 → s.recorder.spare.length < s.recorder.running.length →
    t.recorder.pendingQueue = s.recorder.pendingQueue ++ [s.closedEntry inc truncated true []] ∧
      t.recorder.HoldsAs s.recorder
  frozen : s.recorder.pendingQueue.length < 4 → s.recorder.running.length ≤ s.recorder.spare.length →
    t.recorder.pendingQueue = s.recorder.pendingQueue ++ [s.closedEntry inc truncated false s.recorder.freeze.2] ∧
      s.recorder.vacated.RoundAfter (s.recorder.running.flatMap fun p => p.1.empty) true t.recorder

/-- The channel-state records of the event stand behind the close. -/
theorem State.Closes.recorded {s t : State} {inc : Incident} {truncated : Bool} (h : s.Closes inc truncated t)
    (before : State) : s.Closes inc truncated (before.recordChannels t) := by
  have ho := before.recordChannels_onlyChannels t
  have hh := before.recordChannels_holdsAs t
  refine ⟨ho.state.trans h.state, ho.capture.trans h.capture, fun hl => ?_, fun hl hs => ?_, fun hl hs => ?_⟩
  · obtain ⟨hp, hold, hn⟩ := h.dropped hl
    obtain ⟨r, hf, -⟩ := before.recordChannels_frame t
    refine ⟨ho.pendingQueue.trans hp, hh.trans hold, ?_⟩
    rw [hf]
    exact hn
  · obtain ⟨hp, hold⟩ := h.summary hl hs
    exact ⟨ho.pendingQueue.trans hp, hh.trans hold⟩
  · obtain ⟨hp, hround⟩ := h.frozen hl hs
    exact ⟨ho.pendingQueue.trans hp, hround.of_holdsAs hh⟩

/-- The state with no incident in capture (R158). -/
def State.idled (s : State) : State := { s with recorder := { s.recorder with state := .idle, capture := none } }

section
variable {s : State} {inc : Incident} (hc : s.recorder.capture = some inc)
include hc

theorem State.closeIncident_dropped (truncated : Bool) (h : 4 ≤ s.recorder.pendingQueue.length) :
    s.closeIncident truncated = s.idled.bump .incidentsLost := by
  rw [State.closeIncident, hc]
  exact if_pos h

variable (hl : s.recorder.pendingQueue.length < 4)
include hl

theorem State.closeIncident_summary (truncated : Bool) (h : s.recorder.spare.length < s.recorder.running.length) :
    s.closeIncident truncated = s.queueClosed s.recorder { inc with truncated := truncated } true [] := by
  rw [Recorder.running_length] at h
  rw [State.closeIncident, hc]
  dsimp only
  rw [if_neg (Nat.not_le.mpr hl), if_pos h]

theorem State.closeIncident_frozen (truncated : Bool) (h : s.recorder.running.length ≤ s.recorder.spare.length) :
    s.closeIncident truncated =
      s.queueClosed (s.recorder.freeze.1.round true) { inc with truncated := truncated } false s.recorder.freeze.2 := by
  rw [Recorder.running_length] at h
  rw [State.closeIncident, hc]
  dsimp only
  rw [if_neg (Nat.not_le.mpr hl), if_neg (Nat.not_lt.mpr h)]

end

/-- A closed incident queued, where the start test drops no entry. -/
theorem State.queueClosed_recorder {s : State}
    (h : s.powerFail = true ∨ (s.store.chooseTarget (s.store.lastWritten.getD 0)).isSome) (r : Recorder)
    (inc : Incident) (truncated absent : Bool) (frozen : List FrozenList) :
    (s.queueClosed r { inc with truncated := truncated } absent frozen).recorder =
      { r with pendingQueue := r.pendingQueue ++ [s.closedEntry inc truncated absent frozen], state := .idle,
               capture := none } := by
  unfold State.queueClosed
  exact (State.startTest_drops_none (by exact h)).1

/-- The close by its first row (R158), where the start test drops no entry. -/
theorem State.closeIncident_closes {s : State} {inc : Incident} (hc : s.recorder.capture = some inc)
    (ht : s.powerFail = true ∨ (s.store.chooseTarget (s.store.lastWritten.getD 0)).isSome) (truncated : Bool) :
    s.Closes inc truncated (s.closeIncident truncated) := by
  by_cases hl : 4 ≤ s.recorder.pendingQueue.length
  · have hn := s.idled.bump_get .incidentsLost .incidentsLost
    have hh := s.idled.bump_holdsAs .incidentsLost
    have ho := s.idled.bump_onlyChannels .incidentsLost
    rw [State.closeIncident_dropped hc truncated hl]
    refine ⟨ho.state, ho.capture, fun _ => ⟨ho.pendingQueue, hh.trans (.of_same rfl rfl rfl), ?_⟩,
      fun h => absurd hl (Nat.not_le.mpr h), fun h => absurd hl (Nat.not_le.mpr h)⟩
    exact hn.trans (if_pos rfl)
  · have hl' := Nat.not_le.mp hl
    by_cases hs : s.recorder.spare.length < s.recorder.running.length
    · rw [State.closeIncident_summary hc hl' truncated hs]
      have hr := State.queueClosed_recorder ht s.recorder inc truncated true []
      refine ⟨by rw [hr], by rw [hr], fun h => absurd h hl, fun _ _ => ⟨by rw [hr], ?_⟩,
        fun _ h => absurd hs (Nat.not_lt.mpr h)⟩
      rw [hr]
      exact .of_same rfl rfl rfl
    · rw [State.closeIncident_frozen hc hl' truncated (Nat.not_lt.mp hs)]
      have hr := State.queueClosed_recorder ht (s.recorder.freeze.1.round true) inc truncated false s.recorder.freeze.2
      refine ⟨by rw [hr], by rw [hr], fun h => absurd h hl, fun _ h => absurd h hs, fun _ _ => ⟨?_, ?_⟩⟩
      · rw [hr, Recorder.round_pendingQueue, Recorder.freeze_pendingQueue]
      · rw [hr]
        exact s.recorder.freeze_roundAfter.of_holdsAs (.of_same rfl rfl rfl)

/-- Under the warning a close leaves the Store Engine (R165, R169). -/
theorem State.closeIncident_warned {s : State} (h : s.powerFail = true) (truncated : Bool) :
    (s.closeIncident truncated).store = s.store := by
  have hq (r : Recorder) (inc : Incident) (absent : Bool) (frozen : List FrozenList) :
      (s.queueClosed r inc absent frozen).store = s.store := by
    unfold State.queueClosed
    rw [State.startTest_warned (by exact h)]
  unfold State.closeIncident
  split
  · rfl
  · dsimp only
    split
    · exact s.idled.bump_store .incidentsLost
    · split <;> exact hq _ _ _ _

/-! ### The events (R156, R157) -/

section
variable {s : State} {dt : Nat} (hr : s.runPhase = .running)
include hr

theorem exec_windowTimerExpiry_running {inc : Incident} (hc : s.recorder.capture = some inc)
    (hw : inc.windowEnd * 1000 ≤ s.clock + dt) : exec (.windowTimerExpiry dt) s =
      .next ((s.advance dt).recordChannels ((s.advance dt).closeIncident false)) := by
  have hcond : (s.advance dt).windowOver = true := by
    rw [State.windowOver, State.advance_recorder, hc]
    exact decide_eq_true hw
  exact congrArg _ (State.eventIf_running hr hcond)

theorem exec_powerFailWarningStanding_running : exec (.powerFailWarningStanding dt) s =
    .next (s.event dt State.warningStands) := congrArg _ (if_pos hr)

end

/-- The state in which a warning that becomes standing closes the incident. -/
def State.warned (s : State) : State := { s with powerFail := true }

theorem State.warningStands_eq (s : State) : s.warningStands = s.warned.closeIncident true := rfl

/-! ### The terms of the statement -/

theorem Incident.requestsRetention_eq (inc : Incident) : inc.requestsRetention =
    (inc.causes.head?.map fun e =>
      e.cause == .emergencyLocal || e.cause == .emergencyPeer || e.cause == .ventTimeout).getD false := by
  unfold Incident.requestsRetention
  cases inc.causes.head? <;> rfl

theorem Recorder.vacated_eq (r : Recorder) : r.vacated = { r with chans := r.chans.map fun ch =>
    if ch.state = .running then { ch with ring := [], current := none, empty := [], sinceKey := 0, prev := none }
    else ch } := by
  unfold Recorder.vacated
  congr 2
  funext ch
  unfold Channel.isRunning
  simp only [beq_iff_eq]
  rfl

/-- Settles O43: the close by its rows (`State.closeIncident_closes`) in the event of the window timer and in that of the
warning, where it leaves the Store Engine (`State.closeIncident_warned`). -/
theorem incidentClosesByPendingQueueAndPool : Obligations.IncidentClosesByPendingQueueAndPool := by
  intro dt s hr entry running lists emptied closed
  have hclosed {x t : State} {inc : Incident} {truncated : Bool} (h : x.Closes inc truncated t)
      (hx : x.recorder = s.recorder) (hn : x.counters = s.counters) (hnow : x.now = (s.advance dt).now) :
      closed inc truncated t := by
    have hentry (absent : Bool) (frozen : List FrozenList) :
        x.closedEntry inc truncated absent frozen = entry inc truncated absent frozen := by
      unfold State.closedEntry
      rw [Incident.requestsRetention_eq, hnow]
    obtain ⟨hstate, hcapture, hdropped, hsummary, hfrozen⟩ := h
    rw [hx, hn] at hdropped
    rw [hx, hentry] at hsummary
    rw [hx, hentry, Recorder.vacated_eq] at hfrozen
    exact ⟨hstate, hcapture, hdropped, hsummary, hfrozen⟩
  refine ⟨fun inc hc hw ht => ?_, fun inc hc => ?_, fun hc => ?_⟩
  · have hd := ((s.advance dt).closeIncident_delivers false).trans (State.recordChannels_delivers (s.advance dt) _)
    refine ⟨_, exec_windowTimerExpiry_running hr hc hw, hd.sameButMessages, ?_, ?_⟩
    · obtain ⟨r, hf, -⟩ := (s.advance dt).recordChannels_frame ((s.advance dt).closeIncident false)
      rw [hf]
      exact ((s.advance dt).closeIncident_sameLine false).line
    · exact hclosed ((State.closeIncident_closes (s := s.advance dt) hc (.inr ht) false).recorded _) rfl rfl rfl
  · have hd := ((s.advance dt).warned.closeIncident_delivers true).trans (State.recordChannels_delivers (s.advance dt) _)
    obtain ⟨r, hf, -⟩ := (s.advance dt).recordChannels_frame ((s.advance dt).warned.closeIncident true)
    refine ⟨_, (exec_powerFailWarningStanding_running hr).trans (congrArg _ (State.event_running hr)), ?_, ?_,
      hd.sameButMessages, ?_⟩
    · rw [State.warningStands_eq, hf]
      exact State.closeIncident_warned (s := (s.advance dt).warned) rfl true
    · rw [State.warningStands_eq, hf]
      exact ((s.advance dt).warned.closeIncident_sameLine true).line
    · exact hclosed ((State.closeIncident_closes (s := (s.advance dt).warned) hc (.inl rfl) true).recorded _) rfl rfl rfl
  · have ht : (s.advance dt).warningStands = (s.advance dt).warned := by
      rw [State.warningStands_eq, State.closeIncident]
      have hw : (s.advance dt).warned.recorder.capture = none := hc
      rw [hw]
    have he : s.event dt State.warningStands = (s.advance dt).warningStands := State.event_same hr (by rw [ht]; rfl)
    exact (exec_powerFailWarningStanding_running hr).trans (congrArg _ (he.trans ht))

end Sys2Proof.Machine
end

section
/-! SUPPORT. The store of the oldest entry (R166, R167): the ends of its operations on the flash interface, the programs that
follow them, and the completed store. -/

namespace Sys2Proof.Machine

/-! ### The ends of the operations -/

/-- An event whose work leaves the Recorder. -/
theorem State.event_unrecorded {s : State} {dt : Nat} {work : State → State} (hr : s.runPhase = .running)
    (h : (work (s.advance dt)).recorder = s.recorder) : s.event dt work = work (s.advance dt) :=
  State.event_same hr (by rw [h])

/-- An erase leaves its region blank. -/
theorem overlay_nil (flash : Memory) (addr n : Nat) : overlay flash addr n [] = flash.clear addr n := by
  rw [overlay, List.take_nil, Memory.writeBytes]

theorem FlashOp.eraseTarget_done (k : Nat) (flash : Memory) :
    (FlashOp.eraseTarget k).done flash = flash.clear (65536 * k) 65536 := overlay_nil flash (65536 * k) 65536

theorem FlashOp.eraseCleanup_done (k : Nat) (flash : Memory) :
    (FlashOp.eraseCleanup k).done flash = flash.clear (65536 * k) 65536 := overlay_nil flash (65536 * k) 65536

section
variable {s : State} {job : StoreJob} (hj : s.store.job = some job)
include hj

theorem State.slotEraseEvent_target {k : Nat} (hf : s.store.inFlight = some (.eraseTarget k)) (r : FlashResult) :
    s.slotEraseEvent r = (s.endOp (.eraseTarget k) r).slotErased false job (resultOk r) := by
  rw [State.slotEraseEvent, hf, hj]

theorem State.slotEraseEvent_cleanup {k : Nat} (hf : s.store.inFlight = some (.eraseCleanup k)) (r : FlashResult) :
    s.slotEraseEvent r = (s.endOp (.eraseCleanup k) r).slotErased true job (resultOk r) := by
  rw [State.slotEraseEvent, hf, hj]

theorem State.bodyEvent_program {k p : Nat} {bs : List Byte} (hf : s.store.inFlight = some (.programBody k p bs))
    (r : FlashResult) :
    s.bodyEvent r = (s.endOp (.programBody k p bs) r).bodyProgrammed bs.length job (resultOk r) := by
  rw [State.bodyEvent, hf, hj]

theorem State.headerEvent_program {k : Nat} {bs : List Byte} (hf : s.store.inFlight = some (.programHeader k bs))
    (r : FlashResult) : s.headerEvent r = (s.endOp (.programHeader k bs) r).headerProgrammed job (resultOk r) := by
  rw [State.headerEvent, hf, hj]

end

/-! ### The programs of a store (R166, R167) -/

/-- A record's body is not empty: its summary alone has bytes. -/
theorem recordBody_length_pos (e : PendingEntry) (m : Memory) : 0 < (recordBody e m).length := by
  have hs : 0 < (summaryBytes e.incident.summary).length := by
    simp [summaryBytes, be8_eq]
  unfold recordBody
  simp only [List.length_append]
  omega

section
variable {s : State} {e : PendingEntry} {es : List PendingEntry} (hq : s.recorder.pendingQueue = e :: es)
include hq

theorem Recorder.currentBody_eq : s.recorder.currentBody = recordBody e s.recorder.blocks := by
  rw [Recorder.currentBody, hq]

/-- With bytes of the body left the next body program is asked for (R166). -/
theorem State.programNext_body {job : StoreJob} (h : job.position < (recordBody e s.recorder.blocks).length) :
    s.programNext job = { s with store := { s.store with
      phase := .writing, job := some job
      requests := s.store.requests ++ [.programBody job.target job.position
        (((recordBody e s.recorder.blocks).drop job.position).take (max 1 Config.programBytes))] } } := by
  have hne : (recordBody e s.recorder.blocks).drop job.position ≠ [] := by
    rw [Ne, List.drop_eq_nil_iff]
    omega
  rw [State.programNext, Recorder.currentBody_eq hq]
  split
  · rename_i hnil
    exact absurd hnil hne
  · rfl

/-- After the last body program the header program is asked for, with the decision of retention (R167). -/
theorem State.programNext_header {job : StoreJob} (h : (recordBody e s.recorder.blocks).length ≤ job.position) :
    s.programNext job = { s with store := { s.store with
      phase := .committing
      job := some { job with retained := e.retention && decide (s.store.retained < 48) }
      requests := s.store.requests ++ [.programHeader job.target
        (recordHeader e (e.retention && decide (s.store.retained < 48))
          (e.retention && !decide (s.store.retained < 48)) (recordBody e s.recorder.blocks))] } } := by
  rw [State.programNext, Recorder.currentBody_eq hq, List.drop_eq_nil_of_le h, State.commit, hq,
    Recorder.currentBody_eq hq]
  rfl

end

/-! ### A completed store (R167) -/

/-- An empty pending queue starts no store (R165). -/
theorem State.startTest_empty {s : State} (h : s.recorder.pendingQueue = []) : s.startTest = s := by
  rw [State.startTest, h]
  rfl

theorem State.storeComplete_last {s : State} {e : PendingEntry} (hq : s.recorder.pendingQueue = [e]) (job : StoreJob) :
    s.storeComplete job = { s with
      recorder := s.recorder.retire
      store := { s.store with
        phase := .idle, job := none, lastWritten := some job.target
        retained := s.store.retained + (if job.retained then 1 else 0)
        lines := s.store.lines.set (job.target - 1) (.valid e.incident.number job.retained (firstCause e.incident)
          (recordBody e s.recorder.blocks).length) } } := by
  rw [State.storeComplete, hq, Recorder.currentBody_eq hq]
  dsimp only
  rw [State.startTest_empty (Recorder.retire_pendingQueue hq)]
  cases job.retained <;> rfl

/-- Settles O53: each operation's end (`State.slotEraseEvent_target` and its neighbours) with what follows it
(`State.programNext_body`, `State.programNext_header`, `State.storeComplete_last`). -/
theorem storeWritesBodyThenHeader : Obligations.StoreWritesBodyThenHeader := by
  intro dt job e rest s hr hj hq body retained refused
  refine ⟨fun hf => ?_, fun p bs hf => ⟨fun hl => ?_, fun hl => ?_⟩, fun bs hf hrest => ?_⟩
  · have ht := (State.slotEraseEvent_target (s := s.advance dt) hj hf .ok).trans
      (State.programNext_body (s := (s.advance dt).endOp (.eraseTarget job.target) .ok) (job := { job with position := 0 })
        hq (recordBody_length_pos e _))
    have hflash : ((s.advance dt).endOp (.eraseTarget job.target) .ok).flash = s.flash.clear (65536 * job.target) 65536 :=
      FlashOp.eraseTarget_done job.target s.flash
    refine congrArg _ ((State.event_unrecorded hr (by rw [ht]; rfl)).trans (ht.trans ?_))
    rw [← hflash]
    rfl
  · have ht := (State.bodyEvent_program (s := s.advance dt) hj hf .ok).trans
      (State.programNext_body (s := (s.advance dt).endOp (.programBody job.target p bs) .ok)
        (job := { job with position := job.position + bs.length }) hq hl)
    exact congrArg _ ((State.event_unrecorded hr (by rw [ht]; rfl)).trans ht)
  · have ht := (State.bodyEvent_program (s := s.advance dt) hj hf .ok).trans
      (State.programNext_header (s := (s.advance dt).endOp (.programBody job.target p bs) .ok)
        (job := { job with position := job.position + bs.length }) hq hl)
    exact congrArg _ ((State.event_unrecorded hr (by rw [ht]; rfl)).trans ht)
  · subst hrest
    have ht := (State.headerEvent_program (s := s.advance dt) hj hf .ok).trans
      (State.storeComplete_last (s := (s.advance dt).endOp (.programHeader job.target bs) .ok) hq job)
    obtain ⟨r, hrec, ho⟩ := (s.advance dt).recordChannels_frame ((s.advance dt).headerEvent .ok)
    have hh := (s.advance dt).recordChannels_holdsAs ((s.advance dt).headerEvent .ok)
    have he : exec (.headerProgramCompletion dt .ok) s
        = .next ((s.advance dt).recordChannels ((s.advance dt).headerEvent .ok)) :=
      congrArg _ (State.event_running (work := fun st => st.headerEvent .ok) hr)
    refine ⟨_, he, ?_⟩
    rw [hrec] at hh ⊢
    rw [ht] at hh ho ⊢
    refine ⟨rfl, rfl, ho.pendingQueue.trans (Recorder.retire_pendingQueue hq), ?_, rfl⟩
    exact (Recorder.retire_roundAfter hq).of_holdsAs hh

end Sys2Proof.Machine
end

section
/-! SUPPORT. A failed operation of a store (R168, R169): the erase that a retry or a cleanup asks for, the choice between retry
and drop, and the drop. -/

namespace Sys2Proof.Machine

/-! ### The erase asked for, or held under the warning (R169) -/

theorem State.reErase_eq (s : State) (job : StoreJob) :
    s.reErase job = { s with store := { s.store with
      job := some job
      phase := if s.powerFail then .idle else .erasing
      requests := if s.powerFail then s.store.requests
        else s.store.requests ++ [if job.cleanup then .eraseCleanup job.target else .eraseTarget job.target] } } := by
  unfold State.reErase
  cases s.powerFail <;> rfl

/-- A new erase is the Store Engine's work alone. -/
theorem State.reErase_recorder (s : State) (job : StoreJob) : (s.reErase job).recorder = s.recorder := by
  rw [State.reErase_eq]

/-! ### Retry or drop (R168) -/

theorem State.retryOrDrop_retries {s : State} {job : StoreJob} {slot : Nat} (ha : job.attempt = 1)
    (ht : s.store.chooseTarget job.target = some slot) :
    s.retryOrDrop job =
      s.reErase { target := slot, attempt := 2, position := 0, cleanup := false, retained := false } := by
  rw [State.retryOrDrop, if_pos ha, ht]

theorem State.retryOrDrop_drops {s : State} {job : StoreJob}
    (h : job.attempt ≠ 1 ∨ s.store.chooseTarget job.target = none) : s.retryOrDrop job = s.dropAndTest := by
  unfold State.retryOrDrop
  split
  · rename_i ha
    rw [h.resolve_left (not_not_intro ha)]
  · rfl

/-! ### The drop -/

theorem State.SameButMessages.with_store {t u : State} (h : t.SameButMessages u) (st : Store) :
    t.SameButMessages { u with store := st } := by
  unfold State.SameButMessages at h ⊢
  exact congrArg (fun x : State => { x with store := st }) h

/-- What the drop of the last pending entry leaves (R168). -/
structure State.DropsLast (s : State) (e : PendingEntry) (t : State) : Prop where
  frame : t.SameButMessages s
  line : t.line = s.line
  pendingQueue : t.recorder.pendingQueue = []
  lost : t.counters.incidentsLost = countedOnce s.counters.incidentsLost
  round : s.recorder.RoundAfter e.blocks false t.recorder
  store : t.store = { s.store with phase := .idle, job := none }

section
variable {s : State} {e : PendingEntry} (hq : s.recorder.pendingQueue = [e])
include hq

theorem State.dropEntry_dropsLast : s.DropsLast e s.dropEntry := by
  unfold State.dropEntry
  generalize hx : ({ s with recorder := s.recorder.retire, store := { s.store with phase := .idle, job := none } } : State)
    = x
  obtain ⟨c, r, hf, -⟩ := x.bump_frame .incidentsLost
  have ho := x.bump_onlyChannels .incidentsLost
  have hh := x.bump_holdsAs .incidentsLost
  have hn : (x.bump .incidentsLost).counters.incidentsLost = countedOnce x.counters.incidentsLost :=
    x.bump_get_self .incidentsLost
  subst hx
  refine ⟨?_, ?_, ho.pendingQueue.trans (Recorder.retire_pendingQueue hq), hn,
    (Recorder.retire_roundAfter hq).of_holdsAs hh, State.bump_store _ _⟩
  · rw [hf]
    rfl
  · exact State.bump_line _ _

/-- Without another pending entry the start test after the drop does nothing. -/
theorem State.dropAndTest_last : s.dropAndTest = s.dropEntry :=
  State.startTest_empty (State.dropEntry_dropsLast hq).pendingQueue

end

/-- The channel-state records of the event stand behind the drop. -/
theorem State.DropsLast.recorded {s t : State} {e : PendingEntry} (h : s.DropsLast e t) (before : State) :
    s.DropsLast e (before.recordChannels t) := by
  have hh := before.recordChannels_holdsAs t
  obtain ⟨r, hf, ho⟩ := before.recordChannels_frame t
  rw [hf] at hh ⊢
  exact ⟨h.frame, h.line, ho.pendingQueue.trans h.pendingQueue, h.lost, h.round.of_holdsAs hh, h.store⟩

/-! ### The end of an operation (R166, R168) -/

/-- Time has passed, the operation in flight has ended, and the flash and the directory have changed. -/
def State.ended (s : State) (dt : Nat) (lines : List DirLine) (flash : Memory) : State :=
  { s.advance dt with flash := flash, store := { s.store with inFlight := none, lines := lines } }

section
variable {s : State} {dt : Nat} {lines : List DirLine} {flash : Memory} {work : State → State}
  (hr : s.runPhase = .running)
include hr

theorem State.event_reErases {job : StoreJob} (hw : work (s.advance dt) = (s.ended dt lines flash).reErase job) :
    s.event dt work = { s.advance dt with
      flash := flash
      store := { s.store with
        inFlight := none, lines := lines, job := some job
        phase := if s.powerFail then .idle else .erasing
        requests := if s.powerFail then s.store.requests
          else s.store.requests ++ [if job.cleanup then .eraseCleanup job.target else .eraseTarget job.target] } } :=
  (State.event_unrecorded hr (by rw [hw, State.reErase_recorder]; rfl)).trans (hw.trans (State.reErase_eq _ _))

theorem State.event_dropsLast {u : State} {e : PendingEntry} (hw : work (s.advance dt) = u.dropAndTest)
    (hq : u.recorder.pendingQueue = [e]) : u.DropsLast e (s.event dt work) := by
  rw [State.event_running hr, hw, State.dropAndTest_last hq]
  exact (State.dropEntry_dropsLast hq).recorded _

end

/-- Settles O54: each failed operation ends in `State.retryOrDrop`, in `State.reErase` for the cleanup, or in the drop, and a
good cleanup in `State.retryOrDrop` too. -/
theorem flashFailureMakesLineBad : Obligations.FlashFailureMakesLineBad := by
  intro dt left job e s hr hj hq bad erase dropped goesOn
  have hdrop {c : Instr} {work : State → State} {lines : List DirLine} {hold : List Nat} {flash : Memory}
      (hc : exec c s = .next (s.event dt work))
      (hw : work (s.advance dt) = State.dropAndTest { s.advance dt with
        flash := flash, store := { s.store with inFlight := none, lines := lines, mayHold := hold } }) :
      dropped c lines hold flash := by
    obtain ⟨hframe, hline, hqueue, hlost, hround, hstore⟩ := State.event_dropsLast hr hw hq
    exact ⟨_, hc, hframe.with_store s.store, hline, hqueue, hlost, hround, hstore⟩
  have hgoes {c : Instr} {work : State → State} {lines : List DirLine} {flash : Memory} {job' : StoreJob}
      (hc : exec c s = .next (s.event dt work)) (hw : work (s.advance dt) = (s.ended dt lines flash).retryOrDrop job')
      (ha : job'.attempt = job.attempt) (ht : job'.target = job.target) : goesOn c lines flash := by
    refine ⟨fun slot hone hnext => ?_, fun h => ?_⟩
    · have hretry := State.retryOrDrop_retries (s := s.ended dt lines flash) (ha.trans hone) (ht ▸ hnext)
      exact hc.trans (congrArg _ (State.event_reErases hr (hw.trans hretry)))
    · exact hdrop hc (hw.trans (State.retryOrDrop_drops (h.imp (ha ▸ ·) (ht ▸ ·))))
  refine ⟨fun hf => ?_, fun p bs hf => ?_, fun bs hf => ?_, fun hf => ⟨?_, ?_⟩⟩
  · exact hgoes (work := fun st => st.slotEraseEvent (.failed left)) rfl
      (State.slotEraseEvent_target (s := s.advance dt) hj hf _) rfl rfl
  · exact hgoes (work := fun st => st.bodyEvent (.failed left)) rfl
      (State.bodyEvent_program (s := s.advance dt) hj hf _) rfl rfl
  · exact congrArg _ (State.event_reErases (work := fun st => st.headerEvent (.failed left)) hr
      (State.headerEvent_program (s := s.advance dt) hj hf _))
  · have hw := State.slotEraseEvent_cleanup (s := s.advance dt) hj hf .ok
    rw [← FlashOp.eraseCleanup_done]
    exact hgoes (work := fun st => st.slotEraseEvent .ok) (job' := { job with cleanup := false }) rfl hw rfl rfl
  · exact hdrop (work := fun st => st.slotEraseEvent (.failed left)) rfl
      (State.slotEraseEvent_cleanup (s := s.advance dt) hj hf _)

end Sys2Proof.Machine
end

section
/-! SUPPORT. A record offered to a channel (R134 to R140): the form it takes, the block it enters, and what stands in the
recorder's memory then. -/

namespace Sys2Proof.Machine

/-! ### The form of a record (R138, R139) -/

theorem deltaCoded_iff (k : ChannelKind) : deltaCoded k = true ↔ k = .pressureTrace ∨ k = .speedTrace := by
  cases k <;> simp [deltaCoded]

/-- A value against the one recorded before, where the difference fits a delta record (R138). -/
def IsNear (v p : Nat) : Prop := (v : Int) - p ≤ 127 ∧ (p : Int) - v ≤ 128

theorem fitsDelta_iff (v p : Nat) : fitsDelta ((v : Int) - p) = true ↔ IsNear v p := by
  simp only [fitsDelta, IsNear, Bool.and_eq_true, decide_eq_true_eq]
  omega

theorem all_differences_fit (vals prev : List Nat) :
    (differences vals prev).all fitsDelta = true ↔ ∀ x ∈ List.zip vals prev, IsNear x.1 x.2 := by
  have hz : differences vals prev = (vals.zip prev).map fun x => (x.1 : Int) - x.2 :=
    (List.map_zip_eq_zipWith (f := fun x : Nat × Nat => (x.1 : Int) - x.2)).symm
  simp only [hz, List.all_map, List.all_eq_true, Function.comp_apply, fitsDelta_iff]

/-- When a record is written as a key record: without a current block, after too long a gap, and in a trace of differences at
every 32nd record, with nothing to compare with, with another validity, and with a difference that does not fit. -/
theorem Channel.needsKey_iff (ch : Channel) (rec : TraceRecord) :
    ch.needsKey rec = true ↔
      ch.current = none ∨ 255 < since rec.time ch.lastTime ∨ (ch.kind = .pressureTrace ∨ ch.kind = .speedTrace) ∧
        (32 ≤ ch.sinceKey ∨ ch.prev = none ∨ ∃ vals valid, ch.prev = some (vals, valid) ∧
          (valid ≠ rec.valid ∨ ∃ x ∈ List.zip rec.vals vals, ¬IsNear x.1 x.2)) := by
  have hfar (vals : List Nat) : (differences rec.vals vals).all fitsDelta = false ↔
      ∃ x ∈ List.zip rec.vals vals, ¬IsNear x.1 x.2 := by
    rw [← Bool.not_eq_true, all_differences_fit]
    push Not
    rfl
  simp only [Channel.needsKey, Bool.or_eq_true, Bool.and_eq_true, Option.isNone_iff_eq_none, decide_eq_true_eq,
    deltaCoded_iff, or_assoc]
  cases ch.prev with
  | none => simp
  | some p =>
    obtain ⟨vals, valid⟩ := p
    simp [hfar, or_comm, or_left_comm]

/-! ### Opening a block (R140) -/

/-- The channel with a block made current, its header started. -/
def Channel.opened (ch : Channel) (t : Time) (ring : List Nat) (b : Nat) (empty : List Nat) : Channel :=
  { ch with ring := ring, current := some b, empty := empty, openTime := t, openSeq := ch.nextSeq,
            nextSeq := ch.nextSeq + 1, used := 0, fill := 0 }

section
variable {ch : Channel} {b : Nat} {bs : List Nat} (t : Time)

/-- An empty granted block is opened, and the current block is filled. -/
theorem Channel.openBlock_granted (h : ch.empty = b :: bs) :
    ch.openBlock t = ch.opened t (ch.ring ++ ch.current.toList) b bs := by
  rw [Channel.openBlock, h]
  rfl

/-- Without an empty granted block the oldest block of the holding is opened anew. -/
theorem Channel.openBlock_oldest (he : ch.empty = []) (hf : ch.ring ++ ch.current.toList = b :: bs) :
    ch.openBlock t = ch.opened t bs b [] := by
  rw [Channel.openBlock, he, hf]
  rfl

end

/-- The lowest member of an ascending list stands first. -/
theorem eq_cons_erase_of_lowest {b : Nat} {l : List Nat} (hb : b ∈ l) (hasc : l.Pairwise (· < ·))
    (hlow : ∀ x ∈ l, b ≤ x) : l = b :: l.erase b := by
  cases l with
  | nil => exact absurd hb List.not_mem_nil
  | cons y ys =>
    have hy : b = y := by
      rcases List.mem_cons.mp hb with h | h
      · exact h
      · exact Nat.le_antisymm (hlow y (by simp)) (Nat.le_of_lt (List.rel_of_pairwise_cons hasc h))
    rw [hy, List.erase_cons_head]

/-! ### The block that a record enters (R139, R140) -/

section
variable {ch : Channel} {rec : TraceRecord} (c : Nat) (m : Memory)

/-- The bytes of the form that the record takes against the current block. -/
def Channel.formBytes (ch : Channel) (rec : TraceRecord) : List Byte :=
  if ch.needsKey rec then keyBytes rec else otherBytes ch rec

theorem Channel.writeRecord_fits {b : Nat} (hb : ch.current = some b)
    (hl : ch.used + (ch.formBytes rec).length ≤ 496) :
    ch.writeRecord c rec m = ch.put c rec (ch.needsKey rec) (ch.formBytes rec) m :=
  if_pos (by rw [hb]; exact decide_eq_true hl)

theorem Channel.writeRecord_opens (h : ch.current = none ∨ 496 < ch.used + (ch.formBytes rec).length) :
    ch.writeRecord c rec m = (ch.openBlock rec.time).put c rec true (keyBytes rec) m :=
  if_neg (by
    rw [Bool.and_eq_true, decide_eq_true_eq, not_and]
    intro hs
    rcases h with h | h
    · simp [h] at hs
    · exact Nat.not_le.mpr h)

end

/-! ### What stands in the memory (R137) -/

/-- The channel after a record of `n` bytes. -/
def Channel.took (ch : Channel) (rec : TraceRecord) (key : Bool) (n : Nat) : Channel :=
  { ch with used := ch.used + n, fill := ch.fill + 1, lastTime := rec.time,
            sinceKey := if key then 1 else ch.sinceKey + 1, prev := some (rec.vals, rec.valid) }

/-- A record's bytes stand at the next place of block `b` of channel `c`, and the header tells of them. -/
def Recorder.Wrote (r t : Recorder) (c : Nat) (kind : ChannelKind) (rec : TraceRecord) (b used fill sinceKey : Nat)
    (bytes : List Byte) : Prop :=
  (∃ n : Channel, t.chans = r.chans.set c n ∧ n.current = some b ∧ n.used = used + bytes.length ∧ n.fill = fill + 1 ∧
    n.sinceKey = sinceKey ∧ n.lastTime = rec.time ∧ n.prev = some (rec.vals, rec.valid) ∧
    ∀ i, i < 16 → Memory.read 0 t.blocks (512 * b + i) =
      (be8 c ++ be8 (kindCode kind) ++ be16 0 ++ be32 n.openSeq.toNat ++ be32 n.openTime.toNat ++ be16 n.fill ++
        be16 n.used).getD i 0) ∧
  (∀ i, i < bytes.length → Memory.read 0 t.blocks (512 * b + 16 + used + i) = bytes.getD i 0) ∧
  ∀ a, a < 512 * b ∨ 512 * b + 16 ≤ a ∧ a < 512 * b + 16 + used ∨ 512 * b + 16 + used + bytes.length ≤ a →
    Memory.read 0 t.blocks a = Memory.read 0 r.blocks a

section
variable {ch : Channel} {b c : Nat} {rec : TraceRecord} {key : Bool} {bytes : List Byte} {r : Recorder}

theorem Channel.put_eq (hb : ch.current = some b) (m : Memory) :
    ch.put c rec key bytes m = (ch.took rec key bytes.length,
      Memory.writeBytes 0 (Memory.writeBytes 0 m (512 * b + 16 + ch.used) bytes) (512 * b)
        ((ch.took rec key bytes.length).header c)) := by
  unfold Channel.put
  split
  · rename_i hnone
    exact absurd (hb.symm.trans hnone) (by simp)
  · rename_i b' hb'
    obtain rfl := Option.some.inj (hb.symm.trans hb')
    rfl

/-- The Recorder with what `Channel.put` gives in the channel's place. -/
def Recorder.withWritten (r : Recorder) (c : Nat) (w : Channel × Memory) : Recorder :=
  { r with chans := r.chans.set c w.1, blocks := w.2 }

theorem Recorder.wrote_put (hm : Memory.wf 0 r.blocks = true) (hb : ch.current = some b) :
    r.Wrote (r.withWritten c (ch.put c rec key bytes r.blocks)) c ch.kind rec b ch.used ch.fill
      (if key then 1 else ch.sinceKey + 1) bytes := by
  have hread (a : Nat) : Memory.read 0 (r.withWritten c (ch.put c rec key bytes r.blocks)).blocks a =
      if 512 * b ≤ a ∧ a < 512 * b + 16 then ((ch.took rec key bytes.length).header c).getD (a - 512 * b) 0
      else if 512 * b + 16 + ch.used ≤ a ∧ a < 512 * b + 16 + ch.used + bytes.length then
        bytes.getD (a - (512 * b + 16 + ch.used)) 0
      else Memory.read 0 r.blocks a := by
    rw [Recorder.withWritten, Channel.put_eq hb, Memory.read_writeBytes (Memory.wf_writeBytes hm), Memory.read_writeBytes hm,
      Channel.header_length]
  refine ⟨⟨ch.took rec key bytes.length, ?_, hb, rfl, rfl, rfl, rfl, rfl, fun i hi => ?_⟩, fun i hi => ?_, fun a ha => ?_⟩
  · rw [Recorder.withWritten, Channel.put_eq hb]
  · rw [hread, if_pos (by omega), Nat.add_sub_cancel_left]
    rfl
  · rw [hread, if_neg (by omega), if_pos (by omega), Nat.add_sub_cancel_left]
  · rw [hread, if_neg (by omega), if_neg (by omega)]

end

/-! ### The offer (R134, R136) -/

section
variable {r : Recorder} {c : Nat} {ch : Channel} (h : r.chans[c]? = some ch) (rec : TraceRecord)
include h

theorem Recorder.offer_off (he : ch.enable = false) : r.offer c rec = (r, false) := by
  have hs : ch.state = .off := by simp [Channel.state, he]
  rw [Recorder.offer, h]
  dsimp only
  rw [hs]

theorem Recorder.offer_suspended (he : ch.enable = true) (hn : ch.holding = []) :
    r.offer c rec = if ch.lost < 65535 then
        ({ r with chans := r.chans.set c { ch with lost := ch.lost + 1 } }, ch.lost + 1 == 65535)
      else (r, false) := by
  have hs : ch.state = .suspended := by simp [Channel.state, he, hn]
  rw [Recorder.offer, h]
  dsimp only
  rw [hs]

theorem Recorder.offer_running (he : ch.enable = true) (hn : ch.holding ≠ []) :
    r.offer c rec = (r.withWritten c (ch.writeRecord c rec r.blocks), false) := by
  have hs : ch.state = .running := by simp [Channel.state, he, hn]
  rw [Recorder.offer, h]
  dsimp only
  rw [hs]
  rfl

end

section
variable {r : Recorder} {c : Nat} {ch : Channel} {rec : TraceRecord} {b : Nat} (h : r.chans[c]? = some ch)
  (hm : Memory.wf 0 r.blocks = true) (he : ch.enable = true)
include h hm he

/-- The record enters the current block. -/
theorem Recorder.offer_fits (hb : ch.current = some b) (hl : ch.used + (ch.formBytes rec).length ≤ 496) :
    r.Wrote (r.offer c rec).1 c ch.kind rec b ch.used ch.fill (if ch.needsKey rec then 1 else ch.sinceKey + 1)
      (ch.formBytes rec) := by
  have hmem : b ∈ ch.holding := by simp [Channel.holding, hb]
  rw [Recorder.offer_running h rec he (List.ne_nil_of_mem hmem), Channel.writeRecord_fits c r.blocks hb hl]
  exact Recorder.wrote_put hm hb

/-- The record opens a block. -/
theorem Recorder.offer_opens {ring empty : List Nat} (hmem : b ∈ ch.holding)
    (hnew : ch.current = none ∨ 496 < ch.used + (ch.formBytes rec).length)
    (ho : ch.openBlock rec.time = ch.opened rec.time ring b empty) :
    r.Wrote (r.offer c rec).1 c ch.kind rec b 0 0 1 (keyBytes rec) ∧
      ∃ n : Channel, (r.offer c rec).1.chans = r.chans.set c n ∧ n.ring = ring ∧ n.empty = empty ∧
        n.openTime = rec.time ∧ n.openSeq = ch.nextSeq ∧ n.nextSeq = ch.nextSeq + 1 := by
  have hb : (ch.opened rec.time ring b empty).current = some b := rfl
  rw [Recorder.offer_running h rec he (List.ne_nil_of_mem hmem), Channel.writeRecord_opens c r.blocks hnew, ho]
  refine ⟨Recorder.wrote_put (key := true) hm hb, (ch.opened rec.time ring b empty).took rec true (keyBytes rec).length,
    ?_, rfl, rfl, rfl, rfl, rfl⟩
  rw [Recorder.withWritten, Channel.put_eq hb]

end

/-- Settles O46: the offer in each state of the channel, the form by `Channel.needsKey_iff`, and what stands in the memory by
`Recorder.offer_fits` for the current block and by `Recorder.offer_opens` for a new one. -/
theorem recordEntersCurrentOrNewBlock : Obligations.RecordEntersCurrentOrNewBlock := by
  intro r c ch rec h hm _ t gap timed near key written
  have hkey : ch.needsKey rec = true ↔ key := ch.needsKey_iff rec
  have hform : key → ch.formBytes rec = keyBytes rec := fun hk => if_pos (hkey.mpr hk)
  have hform' : ¬key → ch.formBytes rec = otherBytes ch rec := fun hk => if_neg (mt hkey.mp hk)
  refine ⟨Recorder.offer_off h rec, Recorder.offer_suspended h rec, fun he b hb => ⟨fun hk hl => ?_, fun hk hl => ?_⟩,
    fun he hnew => ?_⟩
  · have hw := Recorder.offer_fits h hm he hb (rec := rec) (by rw [hform hk]; exact hl)
    rwa [hform hk, if_pos (hkey.mpr hk)] at hw
  · have hw := Recorder.offer_fits h hm he hb (rec := rec) (by rw [hform' hk]; exact hl)
    rwa [hform' hk, if_neg (mt hkey.mp hk)] at hw
  · have hnew' : ch.current = none ∨ 496 < ch.used + (ch.formBytes rec).length := by
      rcases hnew with hn | ⟨hk, hl⟩ | ⟨hk, hl⟩
      · exact .inl hn
      · exact .inr (by rwa [hform hk])
      · exact .inr (by rwa [hform' hk])
    refine ⟨fun b hb hasc hlow => ?_, fun b rest hempty hfilled => ?_⟩
    · have hmem : b ∈ ch.holding := by simp [Channel.holding, hb]
      exact Recorder.offer_opens h hm he hmem hnew'
        (Channel.openBlock_granted rec.time (eq_cons_erase_of_lowest hb hasc hlow))
    · have hmem : b ∈ ch.holding := by simp [Channel.holding, hfilled]
      exact Recorder.offer_opens h hm he hmem hnew' (Channel.openBlock_oldest rec.time hempty hfilled)

end Sys2Proof.Machine
end

section
/-! SUPPORT. A round of the spare arbiter (R141): the order in which the channels are served, said grant by grant as
`Recorder.ServesInOrder`. -/

namespace Sys2Proof.Machine

/-! ### Eligibility after some grants -/

/-- A channel that the arbiter may serve, `got` and `before` being the channels granted so far and the blocks of `before` not
yet counted in the holdings. -/
def Recorder.CanServe (r : Recorder) (capped : Bool) (got before : List Nat) (c : Nat) : Prop :=
  ∃ ch, r.chans[c]? = some ch ∧ ch.enable = true ∧ ch.holding.length + before.count c < ch.alloc ∧
    (capped = true → (got ++ before).count c < 2)

/-- The channel last served when the grants of `before` have been made. -/
def Recorder.lastAfter (r : Recorder) (before : List Nat) : Nat := before.getLast?.getD r.lastServed

section
variable {r : Recorder} {capped : Bool} {got : List Nat} {c b : Nat} {rest : List Nat}

theorem Recorder.eligible_iff : r.eligible capped got c = true ↔ r.CanServe capped got [] c := by
  unfold Recorder.eligible Recorder.CanServe
  cases r.chans[c]? with
  | none => simp
  | some ch => cases capped <;> simp [and_assoc]

theorem Recorder.grant_lastAfter (before : List Nat) :
    (r.grant c b rest).lastAfter before = r.lastAfter (c :: before) := by
  rw [Recorder.lastAfter, Recorder.lastAfter, List.getLast?_cons]
  rfl

/-- The channel that a grant serves. -/
theorem Recorder.grant_chan_served {ch : Channel} (h : r.chans[c]? = some ch) :
    (r.grant c b rest).chans[c]? = some { ch with empty := insertAsc b ch.empty } := by
  simp [Recorder.grant, h]

/-- A grant leaves every other channel. -/
theorem Recorder.grant_chan_other {x : Nat} (h : x ≠ c) : (r.grant c b rest).chans[x]? = r.chans[x]? :=
  List.getElem?_modify_ne _ _ (Ne.symm h)

theorem Channel.granted_holding_length (ch : Channel) (b : Nat) :
    ({ ch with empty := insertAsc b ch.empty } : Channel).holding.length = ch.holding.length + 1 := by
  simp only [Channel.holding, List.length_append, (insertAsc_perm b ch.empty).length_eq, List.length_cons]
  omega

/-- A block granted counts in the holding from then on. -/
theorem Recorder.grant_canServe (before : List Nat) (x : Nat) :
    (r.grant c b rest).CanServe capped (c :: got) before x ↔ r.CanServe capped got (c :: before) x := by
  have hcount : (c :: got ++ before).count x = (got ++ c :: before).count x :=
    List.perm_middle.symm.count_eq x
  unfold Recorder.CanServe
  rw [hcount]
  by_cases hx : x = c
  · subst hx
    cases h : r.chans[x]? with
    | none =>
      have hnone : (r.grant x b rest).chans[x]? = none := by simpa [Recorder.grant] using h
      simp [hnone]
    | some ch =>
      simp only [Recorder.grant_chan_served h, Option.some.injEq, exists_eq_left', Channel.granted_holding_length,
        List.count_cons_self, Nat.add_assoc, Nat.add_comm 1]
  · simp only [Recorder.grant_chan_other hx, List.count_cons_of_ne (Ne.symm hx)]

/-! ### The choice of one grant -/

/-- The channel served is the first that may be, in cyclic order after the one last served. -/
theorem Recorder.nextServed_some (hl : r.lastServed < 8) (h : r.nextServed capped got = some c) :
    c < 8 ∧ r.CanServe capped got [] c ∧
      ∀ i, i < (c + 7 - r.lastServed) % 8 → ¬r.CanServe capped got [] ((r.lastServed + 1 + i) % 8) := by
  obtain ⟨he, k, hk, hc, hbefore⟩ := List.find?_eq_some_iff_getElem.mp h
  simp only [List.getElem_map, List.getElem_range, List.length_map, List.length_range] at hk hc hbefore
  have hdist : (c + 7 - r.lastServed) % 8 = k := by omega
  refine ⟨by omega, Recorder.eligible_iff.mp he, fun i hi => ?_⟩
  rw [← Recorder.eligible_iff]
  simpa using hbefore i (hdist ▸ hi)

/-- No channel served means that none may be. -/
theorem Recorder.nextServed_none (hl : r.lastServed < 8) (h : r.nextServed capped got = none) (hc : c < 8) :
    ¬r.CanServe capped got [] c := by
  have hmem : c ∈ (List.range 8).map fun i => (r.lastServed + 1 + i) % 8 :=
    List.mem_map.mpr ⟨(c + 7 - r.lastServed) % 8, List.mem_range.mpr (by omega), by omega⟩
  rw [← Recorder.eligible_iff]
  exact List.find?_eq_none.mp h c hmem

end

/-! ### The grants of a round -/

/-- The grants that lead from `r` to `t` serve the channels of `order` one after the other. -/
structure Recorder.ServesInOrder (r : Recorder) (capped : Bool) (got order : List Nat) (t : Recorder) : Prop where
  length_le : order.length ≤ r.spare.length
  served : ∀ k c, order[k]? = some c → c < 8 ∧ r.CanServe capped got (order.take k) c ∧
    ∀ i, i < (c + 7 - r.lastAfter (order.take k)) % 8 →
      ¬r.CanServe capped got (order.take k) ((r.lastAfter (order.take k) + 1 + i) % 8)
  finished : order.length < r.spare.length → ∀ c, c < 8 → ¬r.CanServe capped got order c
  frame : t = { r with spare := r.spare.drop order.length, lastServed := r.lastAfter order, chans := t.chans }
  chans_length : t.chans.length = r.chans.length
  granted : ∀ c ch, r.chans[c]? = some ch → ∃ empty : List Nat,
    t.chans[c]? = some { ch with empty := empty } ∧
    empty.Perm (ch.empty ++ ((r.spare.zip order).filter fun p => p.2 == c).map Prod.fst) ∧
    (ch.empty.Pairwise (· ≤ ·) → empty.Pairwise (· ≤ ·))

section
variable {r t : Recorder} {capped : Bool} {got order : List Nat} {c b : Nat} {rest : List Nat}

/-- No grant: the pool is empty or no channel may be served. -/
theorem Recorder.ServesInOrder.nil (h : 0 < r.spare.length → ∀ c, c < 8 → ¬r.CanServe capped got [] c) :
    r.ServesInOrder capped got [] r :=
  ⟨Nat.zero_le _, by simp, h, rfl, rfl, fun c ch hch => ⟨ch.empty, hch, by simp, id⟩⟩

/-- One grant, and those that follow it. -/
theorem Recorder.ServesInOrder.cons (hl : r.lastServed < 8) (hs : r.spare = b :: rest)
    (hn : r.nextServed capped got = some c) (h : (r.grant c b rest).ServesInOrder capped (c :: got) order t) :
    r.ServesInOrder capped got (c :: order) t := by
  have hrest : (r.grant c b rest).spare = rest := rfl
  obtain ⟨hlen, hserved, hfin, hframe, hchans, hgranted⟩ := h
  simp only [Recorder.grant_canServe, Recorder.grant_lastAfter, hrest] at hlen hserved hfin hframe hgranted
  refine ⟨by simpa [hs] using hlen, fun k x hx => ?_, fun hlt => hfin (by simpa [hs] using hlt), ?_,
    hchans.trans (List.length_modify _ _ _), fun x ch hch => ?_⟩
  · cases k with
    | zero =>
      obtain rfl : c = x := by simpa using hx
      exact Recorder.nextServed_some hl hn
    | succ k => exact hserved k x (by simpa using hx)
  · rw [hframe, hs]
    rfl
  · rw [hs, List.zip_cons_cons, List.filter_cons]
    by_cases hxc : x = c
    · subst hxc
      obtain ⟨empty, ht, hp, hasc⟩ := hgranted x _ (Recorder.grant_chan_served hch)
      refine ⟨empty, ht, ?_, fun h => hasc (insertAsc_pairwise b ch.empty h)⟩
      rw [if_pos (by simp), List.map_cons]
      exact hp.trans (((insertAsc_perm b ch.empty).append_right _).trans List.perm_middle.symm)
    · obtain ⟨empty, ht, hp, hasc⟩ := hgranted x ch ((Recorder.grant_chan_other hxc).trans hch)
      rw [if_neg (by simpa using Ne.symm hxc)]
      exact ⟨empty, ht, hp, hasc⟩

end

theorem Recorder.grants_servesInOrder (capped : Bool) (n : Nat) (got : List Nat) (r : Recorder)
    (hn : r.spare.length = n) (hl : r.lastServed < 8) :
    ∃ order, r.ServesInOrder capped got order (Recorder.grants n capped got r) := by
  induction n generalizing got r with
  | zero => exact ⟨[], .nil fun h => absurd h (by omega)⟩
  | succ n ih =>
    obtain ⟨b, rest, hs⟩ := List.exists_cons_of_length_eq_add_one hn
    rw [Recorder.grants, hs]
    cases hc : r.nextServed capped got with
    | none => exact ⟨[], .nil fun _ c => Recorder.nextServed_none hl hc⟩
    | some c =>
      have hrest : (r.grant c b rest).spare.length = n := Nat.succ.inj ((congrArg List.length hs).symm.trans hn)
      obtain ⟨order, h⟩ := ih (c :: got) (r.grant c b rest) hrest (Recorder.nextServed_some hl hc).1
      exact ⟨c :: order, .cons hl hs hc h⟩

/-- Settles O47, by `Recorder.grants_servesInOrder`: each grant of a round takes the lowest spare block to the channel of
`Recorder.nextServed`. -/
theorem spareArbiterServesCyclically : Obligations.SpareArbiterServesCyclically := by
  intro r capped hn hl t
  obtain ⟨order, h⟩ := Recorder.grants_servesInOrder capped r.spare.length [] r rfl hl
  have htake : order.take order.length = order := List.take_length
  refine ⟨order, h.length_le, h.served, fun hlt c hc => ?_, ?_, h.chans_length.trans hn, h.granted⟩
  · have hfin := h.finished hlt c hc
    rw [← htake] at hfin
    exact hfin
  · dsimp only
    rw [htake]
    exact h.frame

end Sys2Proof.Machine
end

section
/-! SUPPORT. The incident state over every step: what the reset sequence leaves of it, and, said once as
`State.NumberRises`, that the next incident number falls in the reset sequence and at the end of the scan alone (R150, R164,
law 12). -/

namespace Sys2Proof.Machine

/-! ### The incident state over a step (R146, R159, R164) -/

/-- The Recorder's reset state with an engine that has at most one read of the scan waiting. -/
theorem State.recorderSound_of_reset {t : State} {c : Configuration} (hr : t.recorder = resetRecorder c)
    (hs : t.store.scanOps.length ≤ 1) : t.RecorderSound := by
  unfold State.RecorderSound
  rw [hr]
  exact ⟨by simp [resetRecorder], Nat.zero_le 4, hs, fun _ => rfl⟩

/-- The start of the reset sequence asks for the first read of the scan, or for slot 0 and no read of the scan. -/
theorem State.beginReset_recorderSound (s : State) (straps : Straps) (left : List Byte) :
    (s.beginReset straps left).RecorderSound := by
  unfold State.beginReset
  dsimp only
  split
  · exact State.recorderSound_of_reset (c := defaultConfig) rfl le_rfl
  · exact State.recorderSound_of_reset (c := defaultConfig) rfl (Nat.zero_le 1)

theorem State.imageRead_recorderSound (s : State) (ok : Bool) : (s.imageRead ok).RecorderSound :=
  State.recorderSound_of_reset (c := configFrom _ s.slotImage) rfl le_rfl

theorem exec_recorderSound {c : Instr} {s t : State} (hs : s.RecorderSound) (h : exec c s = .next t) :
    t.RecorderSound := by
  rcases exec_cases c s t h with ⟨dt, ht⟩ | ⟨out, straps, left, rfl⟩ | ⟨ok, rfl⟩
  · exact ht.sound hs
  · exact State.beginReset_recorderSound _ straps left
  · exact s.imageRead_recorderSound ok

theorem step_recorderSound {s t : State} (hs : s.RecorderSound) (h : step s = .next t) : t.RecorderSound := by
  unfold step at h
  split at h
  · cases h
    exact hs
  · rename_i c rest _
    exact exec_recorderSound (s := { s with pending := rest }) hs h

/-! ### The next number -/

/-- The next incident number has not fallen. -/
def State.NumberRises (s t : State) : Prop := s.store.nextNumber ≤ t.store.nextNumber

theorem State.NumberRises.of_same {s t : State} (h : t.store.nextNumber = s.store.nextNumber) :
    State.NumberRises s t := h.ge

theorem State.NumberRises.refl (s : State) : State.NumberRises s s := .of_same rfl

theorem State.NumberRises.trans {s t u : State} (h : State.NumberRises s t) (h' : State.NumberRises t u) :
    State.NumberRises s u := Nat.le_trans h h'

/-- A change that leaves the next number, before work. -/
theorem State.NumberRises.same_then {s t u : State} (h : State.NumberRises t u)
    (hs : t.store.nextNumber = s.store.nextNumber) : State.NumberRises s u := .trans (.of_same hs) h

theorem State.Talks.rises {s t : State} (h : State.Talks s t) : State.NumberRises s t := h.numbers

theorem State.Delivers.rises {s t : State} (h : State.Delivers s t) : State.NumberRises s t := h.numbers

theorem State.Brakes.rises {s t : State} (h : State.Brakes s t) : State.NumberRises s t := h.delivers.numbers

/-! ### The Store Engine -/

theorem State.reErase_rises (s : State) (job : StoreJob) : State.NumberRises s (s.reErase job) := by
  unfold State.reErase
  split <;> exact .of_same rfl

theorem State.dropAndTest_rises (s : State) : State.NumberRises s s.dropAndTest :=
  ((State.dropEntry_delivers s).trans (State.startTest_delivers _)).rises

theorem State.retryOrDrop_rises (s : State) (job : StoreJob) : State.NumberRises s (s.retryOrDrop job) := by
  unfold State.retryOrDrop
  split
  · split
    · exact s.reErase_rises _
    · exact s.dropAndTest_rises
  · exact s.dropAndTest_rises

theorem State.slotFailed_rises (s : State) (job : StoreJob) : State.NumberRises s (s.slotFailed job) :=
  .same_then (State.retryOrDrop_rises _ _) rfl

theorem State.programNext_rises (s : State) (job : StoreJob) : State.NumberRises s (s.programNext job) := by
  unfold State.programNext State.commit
  split
  · split <;> exact .of_same rfl
  · exact .of_same rfl

theorem State.storeComplete_rises (s : State) (job : StoreJob) : State.NumberRises s (s.storeComplete job) := by
  unfold State.storeComplete
  split
  · exact .refl s
  · exact .same_then (State.startTest_delivers _).rises rfl

theorem State.cleanupFailed_rises (s : State) (job : StoreJob) : State.NumberRises s (s.cleanupFailed job) :=
  .same_then (State.dropAndTest_rises _) rfl

theorem State.slotErased_rises (s : State) (cleanup : Bool) (job : StoreJob) (ok : Bool) :
    State.NumberRises s (s.slotErased cleanup job ok) := by
  unfold State.slotErased
  split
  · split
    · exact s.retryOrDrop_rises _
    · exact s.cleanupFailed_rises job
  · split
    · exact s.programNext_rises _
    · exact s.slotFailed_rises job

theorem State.slotEraseEvent_rises (s : State) (r : FlashResult) : State.NumberRises s (s.slotEraseEvent r) := by
  unfold State.slotEraseEvent
  split
  · exact .same_then (State.slotErased_rises _ _ _ _) rfl
  · exact .same_then (State.slotErased_rises _ _ _ _) rfl
  · exact .refl s

theorem State.bodyEvent_rises (s : State) (r : FlashResult) : State.NumberRises s (s.bodyEvent r) := by
  unfold State.bodyEvent State.bodyProgrammed
  split
  · split
    · exact .same_then (State.programNext_rises _ _) rfl
    · exact .same_then (State.slotFailed_rises _ _) rfl
  · exact .refl s

theorem State.headerEvent_rises (s : State) (r : FlashResult) : State.NumberRises s (s.headerEvent r) := by
  unfold State.headerEvent State.headerProgrammed State.commitFailed
  split
  · split
    · exact .same_then (State.storeComplete_rises _ _) rfl
    · exact .same_then (State.reErase_rises _ _) rfl
  · exact .refl s

theorem State.grantFlash_rises (s : State) : State.NumberRises s s.grantFlash := by
  unfold State.grantFlash Store.issue Store.issueLine
  split
  · split <;> exact .of_same rfl
  · exact .refl s

theorem State.eraseAllEvent_rises (s : State) (r : FlashResult) : State.NumberRises s (s.eraseAllEvent r) := by
  unfold State.eraseAllEvent State.erasedOne
  split
  · have hst (x : State) (ok : Bool) (k : Nat) :
        (if ok then x.store else x.store.eraseFailed k).nextNumber = x.store.nextNumber := by cases ok <;> rfl
    dsimp only
    split
    · exact .of_same (hst _ _ _)
    · exact .same_then (State.startTest_delivers _).rises (hst _ _ _)
  · exact .refl s

theorem State.warningCeases_rises (s : State) : State.NumberRises s s.warningCeases := by
  unfold State.warningCeases
  dsimp only
  split
  · split
    · exact .same_then (State.reErase_rises _ _) rfl
    · exact .same_then (State.startTest_delivers _).rises rfl
  · exact .of_same rfl

theorem State.warningStands_rises (s : State) : State.NumberRises s s.warningStands :=
  .same_then (State.closeIncident_delivers _ true).rises rfl

/-- Outside SCANNING no read of the scan is in flight, so that its end is no event (R164). -/
theorem State.RecorderSound.scanReadEvent {s : State} (h : s.RecorderSound) (hs : s.recorder.state ≠ .scanning)
    (ok : Bool) : s.scanReadEvent ok = s := by
  unfold State.scanReadEvent
  split
  · rename_i slot hf
    have hread := h.no_scan hs
    simp [Store.scanOps, hf] at hread
  · rfl

/-! ### The Service Port -/

theorem State.endConfig_rises (s : State) : State.NumberRises s s.endConfig :=
  .same_then (State.startTest_delivers _).rises rfl

theorem State.configDone_rises (s : State) (ok : Bool) : State.NumberRises s (s.configDone ok) := by
  unfold State.configDone
  dsimp only
  split <;> exact .same_then (State.endConfig_rises _) rfl

theorem State.configStep_rises (s : State) (job : ConfigJob) (ok : Bool) :
    State.NumberRises s (s.configStep job ok) := by
  unfold State.configStep
  split
  · split
    · exact s.configDone_rises true
    · rename_i st hst
      unfold Store.nextConfig at hst
      split at hst
      · cases hst
      · cases hst
        exact .of_same rfl
  · exact s.configDone_rises false

theorem State.configEraseEvent_rises (s : State) (r : FlashResult) : State.NumberRises s (s.configEraseEvent r) := by
  unfold State.configEraseEvent
  split
  · exact .same_then (State.configStep_rises _ _ _) rfl
  · exact .refl s

theorem State.configProgramEvent_rises (s : State) (r : FlashResult) :
    State.NumberRises s (s.configProgramEvent r) := by
  unfold State.configProgramEvent
  split
  · exact .same_then (State.configStep_rises _ _ _) rfl
  · exact .refl s

theorem State.incidentReadEvent_rises (s : State) (ok : Bool) : State.NumberRises s (s.incidentReadEvent ok) := by
  unfold State.incidentReadEvent State.incidentRead
  split
  · dsimp only
    split <;> exact .of_same rfl
  · exact .refl s

theorem State.request_rises {α : Type} (s : State) (c : Command) (operand : Option α) (serve : α → State → State)
    (h : ∀ x s, State.NumberRises s (serve x s)) : State.NumberRises s (s.request c operand serve) := by
  unfold State.request
  dsimp only
  split
  · exact .of_same rfl
  · split
    · exact .of_same rfl
    · exact .same_then (h _ _) rfl

theorem State.servePeer_rises (addr : Nat) (s : State) : State.NumberRises s (s.servePeer addr) := by
  unfold State.servePeer
  split <;> exact .of_same rfl

theorem State.serveIncident_rises (r : IncidentRange) (s : State) : State.NumberRises s (s.serveIncident r) := by
  unfold State.serveIncident
  split
  · exact .of_same rfl
  · split <;> exact .of_same rfl

theorem State.serveTrigger_rises (s : State) : State.NumberRises s s.serveTrigger :=
  .same_then (State.deliver_delivers _ (causeOf .manual [])).rises rfl

theorem State.serveClear_rises (c : Nat) (s : State) : State.NumberRises s (s.serveClear c) := by
  unfold State.serveClear
  split
  · exact .of_same rfl
  · repeat' split
    all_goals exact .of_same rfl

theorem State.serveErase_rises (s : State) : State.NumberRises s s.serveErase := by
  unfold State.serveErase
  split
  · exact .of_same rfl
  · split <;> exact .of_same rfl

theorem State.finishImage_rises (s : State) (image : List Byte) : State.NumberRises s (s.finishImage image) := by
  unfold State.finishImage
  dsimp only
  repeat' split
  all_goals exact .of_same rfl

theorem State.serveChunk_rises (c : Chunk) (s : State) : State.NumberRises s (s.serveChunk c) := by
  unfold State.serveChunk
  split
  · exact .of_same rfl
  · split
    · exact .of_same rfl
    · split
      · exact s.finishImage_rises _
      · exact .of_same rfl

theorem State.serveRestart_rises (s : State) : State.NumberRises s s.serveRestart := by
  unfold State.serveRestart
  split <;> exact .of_same rfl

theorem State.takeUnknown_rises (s : State) (code : Byte) : State.NumberRises s (s.takeUnknown code) := by
  unfold State.takeUnknown
  split <;> exact .of_same rfl

/-- A request lowers no number, whatever its command. -/
theorem State.takeRequest_rises (s : State) (code : Byte) (p : List Byte) :
    State.NumberRises s (s.takeRequest code p) := by
  unfold State.takeRequest
  split
  · exact s.request_rises _ _ _ fun _ _ => .of_same rfl
  · exact s.request_rises _ _ _ fun _ _ => .of_same rfl
  · exact s.request_rises _ _ _ State.servePeer_rises
  · exact s.request_rises _ _ _ fun _ _ => .of_same rfl
  · exact s.request_rises _ _ _ State.serveIncident_rises
  · exact s.request_rises _ _ _ fun _ _ => .of_same rfl
  · exact s.request_rises _ _ _ fun _ _ => .of_same rfl
  · exact s.request_rises _ _ _ fun _ s => s.serveTrigger_rises
  · exact s.request_rises _ _ _ State.serveClear_rises
  · exact s.request_rises _ _ _ fun _ s => s.serveErase_rises
  · exact s.request_rises _ _ _ State.serveChunk_rises
  · exact s.request_rises _ _ _ fun _ s => s.serveRestart_rises
  · exact s.takeUnknown_rises code

theorem State.setReceiver_rises (s : State) (r : Receiver × Heard) : State.NumberRises s (s.setReceiver r) := by
  unfold State.setReceiver
  dsimp only
  split
  · exact .of_same rfl
  · exact .same_then (State.bump_delivers _ _).rises rfl
  · exact .same_then (State.takeRequest_rises _ _ _) rfl

theorem State.hearByte_rises (s : State) (b : LinkByte) : State.NumberRises s (s.hearByte b) :=
  (State.setReceiver_rises _ _).trans (State.setReceiver_rises _ _)

theorem State.responseSent_rises (s : State) : State.NumberRises s s.responseSent := by
  unfold State.responseSent
  split
  · exact .refl s
  · obtain ⟨out, h⟩ := s.sendHead_eq
    rw [h]
    exact .of_same rfl

/-! ### The sensors, the control cycle and receptions -/

theorem State.convert_rises (s : State) (i : PressId) (c : Conversion) : State.NumberRises s (s.convert i c) := by
  unfold State.convert
  dsimp only
  split <;> exact .of_same rfl

theorem State.scanCompletes_rises (s : State) : State.NumberRises s s.scanCompletes :=
  .same_then s.scanCompletes_brakes.rises rfl

theorem State.windowExpires_rises (s : State) (faults : Tri Bool) : State.NumberRises s (s.windowExpires faults) := by
  obtain ⟨u, timer, h⟩ := s.windowExpires_spec faults
  exact .same_then h.rises rfl

theorem State.controlCycle_rises (s : State) : State.NumberRises s s.controlCycle := by
  obtain ⟨y, hy, hc⟩ := s.controlCycle_spec
  exact .trans (.same_then hy.rises rfl) (.same_then hc.rises rfl)

theorem State.withPeers_rises (s : State) (r : List PeerEntry × List Message) :
    State.NumberRises s (s.withPeers r) := .same_then (s.withPeers_delivers r).rises rfl

theorem State.ageingExpires_rises (s : State) : State.NumberRises s s.ageingExpires :=
  .same_then s.ageingExpires_delivers.rises rfl

theorem State.dispatch_rises (s : State) (f : GoodFrame) : State.NumberRises s (s.dispatch f) := by
  unfold State.dispatch
  split
  · exact s.withPeers_rises _
  · exact s.withPeers_rises _
  · exact (s.takeNotice_brakes f).rises.trans (State.withPeers_rises _ _)
  · exact (s.raise_delivers _).rises.trans (State.withPeers_rises _ _)

theorem State.takeFrame_rises (s : State) (f : GoodFrame) : State.NumberRises s (s.takeFrame f) := by
  unfold State.takeFrame State.ownAddressFrame
  split
  · split
    · exact (s.clash_talks f).rises.trans (State.takeNotice_brakes _ f).rises
    · exact (s.clash_talks f).rises
  · exact (s.dispatch_rises f).trans (State.mirror_delivers _ _ _ _ _).rises

theorem State.receive_rises (s : State) (frame : List Byte) (extra : Nat) :
    State.NumberRises s (s.receive frame extra) := by
  unfold State.receive
  dsimp only
  split
  · exact .same_then (State.bump_delivers _ _).rises rfl
  · exact .same_then (State.bump_delivers _ _).rises rfl
  · exact .same_then (State.bump_delivers _ _).rises rfl
  · exact .same_then (State.takeFrame_rises _ _) rfl

/-! ### Every command -/

/-- An event whose work does not lower the next number does not lower it. -/
theorem State.event_rises {work : State → State} (hw : ∀ s, State.NumberRises s (work s)) (s : State) (dt : Nat) :
    State.NumberRises s (s.event dt work) :=
  State.event_keeps (P := State.NumberRises s) (fun _ _ h => h) (fun _ _ hd h => h.trans hd.rises)
    (fun t h => h.trans (hw t)) s dt (.refl s)

/-- The same for an event taken under a condition. -/
theorem State.eventIf_rises {cond : State → Bool} {work : State → State} (hw : ∀ s, State.NumberRises s (work s))
    (s : State) (dt : Nat) : State.NumberRises s (s.eventIf dt cond work) :=
  State.eventIf_keeps (P := State.NumberRises s) (fun _ _ h => h) (fun _ _ hd h => h.trans hd.rises)
    (fun t _ h => h.trans (hw t)) s dt (.refl s)

theorem State.hearBytes_rises (bs : List LinkByte) (s : State) : State.NumberRises s (s.hearBytes bs) := by
  induction bs generalizing s with
  | nil => exact .refl s
  | cons b bs ih => exact (State.event_rises (fun s => s.hearByte_rises b) s b.wait).trans (ih _)

/-- SCAN_READ_COMPLETION outside SCANNING. -/
theorem State.scanReadCompletion_rises {s : State} (h : s.RecorderSound) (hs : s.recorder.state ≠ .scanning) (dt : Nat)
    (ok : Bool) : State.NumberRises s (s.event dt fun s => s.scanReadEvent ok) := by
  have hsame : (s.advance dt).scanReadEvent ok = s.advance dt :=
    State.RecorderSound.scanReadEvent (s := s.advance dt) h hs ok
  unfold State.event
  dsimp only
  rw [hsame]
  split
  · exact .same_then (State.recordChannels_delivers _ _).rises rfl
  · exact .of_same rfl

/-- A command that is neither the reset sequence's nor a service request, with no scan in progress. -/
theorem exec_other_rises {c : Instr} (hc : resetCommand c = false) (hq : requestOf c = none) {s : State}
    (h : s.RecorderSound) (hs : s.recorder.state ≠ .scanning) : ∃ t, exec c s = .next t ∧ State.NumberRises s t := by
  cases c
  case reset | configImageReadCompletion | restartResponseSent => cases hc
  case readStatus | readPeers | readPeer | listIncidents | readIncident | readCounters | clearCounters | trigger |
      clearChannel | eraseIncidents | writeConfig | restart => cases hq
  all_goals refine ⟨_, rfl, ?_⟩
  case pressureConversionCompletion => exact State.event_rises (fun s => s.convert_rises _ _) _ _
  case scanCompletion => exact State.eventIf_rises State.scanCompletes_rises _ _
  case toothPulse =>
    refine State.event_rises (fun s => ?_) _ _
    exact .of_same rfl
  case speedWindowExpiry => exact State.eventIf_rises (fun s => s.windowExpires_rises _) _ _
  case handleInputEdge => exact .of_same rfl
  case controlCycle => exact State.eventIf_rises State.controlCycle_rises _ _
  case noticeRepeatExpiry => exact State.eventIf_rises (fun s => s.repeatNotice_brakes.rises) _ _
  case exitTimerExpiry => exact State.eventIf_rises (fun s => s.exitCheck_brakes.rises) _ _
  case statusReplyArrival => exact State.event_rises (fun s => (s.statusArrival_brakes _).rises) _ _
  case receiveCompletion => exact State.eventIf_rises (fun s => s.receive_rises _ _) _ _
  case listenTimerExpiry => exact State.eventIf_rises (fun s => s.listenEnds_talks.rises) _ _
  case statementTimerExpiry =>
    refine State.eventIf_rises (fun s => ?_) _ _
    exact .same_then (State.makeDue_talks { s with line := { s.line with statementDue := none } }).rises rfl
  case dueStatementQueued => exact State.eventIf_rises (fun s => s.queueStatement_talks.rises) _ _
  case holdTimerExpiry => exact State.eventIf_rises (fun s => s.placeProbe_talks.rises) _ _
  case attemptStart =>
    refine State.event_rises (fun s => ?_) _ _
    unfold State.tryAttempt
    split
    · exact .refl s
    · exact (s.startAttempt_talks _).rises
  case collision =>
    refine State.event_rises (fun s => ?_) _ _
    unfold State.collisionEvent
    split
    · split
      · exact (s.collide_talks _).rises
      · exact .refl s
    · exact .refl s
    · exact .refl s
  case jamEnd =>
    refine State.event_rises (fun s => ?_) _ _
    unfold State.jamEvent
    split
    · split
      · exact (s.jamEnds_talks _).rises
      · exact .refl s
    · exact .refl s
    · exact .refl s
  case backoffWaitEnd => exact State.event_rises (fun s => (s.waitEnds_talks _).rises) _ _
  case lateCollision =>
    refine State.event_rises (fun s => ?_) _ _
    unfold State.lateEvent
    split
    · split
      · exact (s.lateCollide_talks _).rises
      · exact .refl s
    · exact .refl s
    · exact .refl s
  case frameSent =>
    refine State.event_rises (fun s => ?_) _ _
    unfold State.sentEvent
    split
    · split
      · exact (s.sendDone_talks _).rises
      · exact .refl s
    · exact .refl s
    · exact .refl s
  case ageingTimerExpiry => exact State.eventIf_rises State.ageingExpires_rises _ _
  case windowTimerExpiry => exact State.eventIf_rises (fun s => (s.closeIncident_delivers _).rises) _ _
  case powerFailWarningStanding =>
    split
    · exact State.event_rises State.warningStands_rises _ _
    · exact .of_same rfl
  case powerFailWarningCeases =>
    split
    · exact State.event_rises State.warningCeases_rises _ _
    · exact .of_same rfl
  case scanReadCompletion => exact State.scanReadCompletion_rises h hs _ _
  case flashInterfaceGrant => exact .same_then (State.grantFlash_rises _) rfl
  case slotEraseCompletion => exact State.event_rises (fun s => s.slotEraseEvent_rises _) _ _
  case bodyProgramCompletion => exact State.event_rises (fun s => s.bodyEvent_rises _) _ _
  case headerProgramCompletion => exact State.event_rises (fun s => s.headerEvent_rises _) _ _
  case eraseAllCompletion => exact State.event_rises (fun s => s.eraseAllEvent_rises _) _ _
  case configEraseCompletion => exact State.event_rises (fun s => s.configEraseEvent_rises _) _ _
  case configProgramCompletion => exact State.event_rises (fun s => s.configProgramEvent_rises _) _ _
  case incidentReadCompletion => exact State.event_rises (fun s => s.incidentReadEvent_rises _) _ _
  case serviceFrameError => exact State.hearBytes_rises _ _
  case requestTimeout =>
    exact (State.hearBytes_rises _ _).trans (State.event_rises (fun s => s.setReceiver_rises _) _ _)
  case unknownCommand => exact State.eventIf_rises (fun s => s.takeUnknown_rises _) _ _
  case serviceResponseSent => exact State.event_rises State.responseSent_rises _ _

/-- With no scan in progress a command that is not the reset sequence's does not lower the next number (law 12). -/
theorem exec_rises {c : Instr} (hc : resetCommand c = false) {s t : State} (hr : s.RecorderSound)
    (hs : s.recorder.state ≠ .scanning) (h : exec c s = .next t) : State.NumberRises s t := by
  cases hq : requestOf c with
  | some q =>
    obtain ⟨dt, code, p⟩ := q
    cases h.symm.trans (exec_request c dt code p s hq)
    exact State.event_rises (fun s => s.takeRequest_rises code p) s dt
  | none =>
    obtain ⟨u, hu, hn⟩ := exec_other_rises hc hq hr hs
    cases h.symm.trans hu
    exact hn

/-- Settles O49: a step keeps the incident state (`step_recorderSound`), and outside the reset sequence and the scan the next
number does not fall (`exec_rises`). -/
theorem incidentStateStaysSound : Obligations.IncidentStateStaysSound :=
  ⟨fun _ _ hs h => step_recorderSound hs h, fun _ _ _ hr hs hc h => exec_rises hc hr hs h⟩

end Sys2Proof.Machine
end

section
/-! SUPPORT. The start test of the Store Engine (R165): when it begins a store, when it does nothing, and what it leaves when no
slot qualifies for any pending entry. -/

namespace Sys2Proof.Machine

theorem State.canStart_iff (s : State) : s.canStart = true ↔
    s.store.phase = .idle ∧ s.store.scan = none ∧ s.recorder.pendingQueue ≠ [] ∧ s.store.job = none ∧
      s.powerFail = false := by
  unfold State.canStart
  simp [and_assoc]

/-- Under its conditions the start test takes the slot that qualifies for the oldest entry (R165, R166). -/
theorem State.startTest_begins {s : State} {slot : Nat} (h : s.canStart = true)
    (ht : s.store.chooseTarget (s.store.lastWritten.getD 0) = some slot) : s.startTest = s.beginStore slot := by
  have hq : s.recorder.pendingQueue ≠ [] := (s.canStart_iff.mp h).2.2.1
  obtain ⟨e, es, hq⟩ := List.exists_cons_of_ne_nil hq
  rw [State.startTest, hq, List.length_cons, State.startTests, if_pos h, ht]

/-- Outside its conditions the start test does nothing (R165). -/
theorem State.startTest_rests {s : State} (h : s.canStart ≠ true) : s.startTest = s := by
  unfold State.startTest
  cases s.recorder.pendingQueue.length with
  | zero => rfl
  | succ n => exact if_neg h

/-- Of the Store Engine the start test changes the phase, the store in progress and the waiting operations alone. -/
theorem State.startTest_store (s : State) :
    ∃ phase job requests, s.startTest.store = { s.store with phase := phase, job := job, requests := requests } := by
  unfold State.startTest
  generalize s.recorder.pendingQueue.length = n
  induction n generalizing s with
  | zero => exact ⟨_, _, _, rfl⟩
  | succ n ih =>
    rw [State.startTests]
    split
    · split
      · exact ⟨_, _, _, rfl⟩
      · obtain ⟨phase, job, requests, h⟩ := ih s.dropEntry
        refine ⟨phase, job, requests, ?_⟩
        rw [h, State.dropEntry, State.bump_store]
    · exact ⟨_, _, _, rfl⟩

theorem State.dropEntry_state (s : State) : s.dropEntry.recorder.state = s.recorder.state := by
  unfold State.dropEntry
  exact (State.bump_onlyChannels _ _).state.trans s.recorder.retire_state

theorem State.startTest_state (s : State) : s.startTest.recorder.state = s.recorder.state := by
  unfold State.startTest
  generalize s.recorder.pendingQueue.length = n
  induction n generalizing s with
  | zero => rfl
  | succ n ih =>
    rw [State.startTests]
    split
    · split
      · rfl
      · exact (ih _).trans s.dropEntry_state
    · rfl

/-! ### Every pending entry dropped (R168) -/

/-- What the start test leaves when no slot qualifies: every pending entry has been dropped. -/
structure State.DropsPending (s t : State) : Prop where
  frame : t.SameButMessages s
  line : t.line = s.line
  store : t.store = s.store
  pendingQueue : t.recorder.pendingQueue = []
  lost : t.counters.incidentsLost = countedOnce^[s.recorder.pendingQueue.length] s.counters.incidentsLost
  round : ∀ e, s.recorder.pendingQueue = [e] → s.recorder.RoundAfter e.blocks false t.recorder

/-- The channel-state records of the event stand behind the drops. -/
theorem State.DropsPending.recorded {s t : State} (h : s.DropsPending t) (before : State) :
    s.DropsPending (before.recordChannels t) := by
  have hh := before.recordChannels_holdsAs t
  obtain ⟨r, hf, ho⟩ := before.recordChannels_frame t
  rw [hf] at hh ⊢
  exact ⟨h.frame, h.line, h.store, ho.pendingQueue.trans h.pendingQueue, h.lost, fun e he => (h.round e he).of_holdsAs hh⟩

theorem State.dropEntry_pendingQueue {s : State} {e : PendingEntry} {es : List PendingEntry}
    (hq : s.recorder.pendingQueue = e :: es) : s.dropEntry.recorder.pendingQueue = es := by
  unfold State.dropEntry
  exact (State.bump_onlyChannels _ _).pendingQueue.trans (Recorder.retire_pendingQueue hq)

theorem State.dropEntry_store {s : State} (hp : s.store.phase = .idle) (hj : s.store.job = none) :
    s.dropEntry.store = s.store := by
  unfold State.dropEntry
  rw [State.bump_store, ← hp, ← hj]

theorem State.dropEntry_lost (s : State) :
    s.dropEntry.counters.incidentsLost = countedOnce s.counters.incidentsLost := by
  unfold State.dropEntry
  exact State.bump_get_self _ .incidentsLost

theorem State.dropEntry_line (s : State) : s.dropEntry.line = s.line := by
  unfold State.dropEntry
  exact State.bump_line _ _

/-- Without a slot that qualifies the start test drops the entries one after the other (R165, R168). -/
theorem State.startTest_dropsPending {s : State} (hp : s.store.phase = .idle) (hn : s.store.scan = none)
    (hj : s.store.job = none) (hw : s.powerFail = false)
    (ht : s.store.chooseTarget (s.store.lastWritten.getD 0) = none) : s.DropsPending s.startTest := by
  unfold State.startTest
  generalize hq : s.recorder.pendingQueue = q
  induction q generalizing s with
  | nil => exact ⟨rfl, rfl, rfl, hq, by rw [hq]; rfl, by simp [hq]⟩
  | cons e es ih =>
    have hc : s.canStart = true := s.canStart_iff.mpr ⟨hp, hn, by simp [hq], hj, hw⟩
    have hstore := State.dropEntry_store hp hj
    have hqueue := State.dropEntry_pendingQueue hq
    have hrest := ih (s := s.dropEntry) (by rw [hstore, hp]) (by rw [hstore, hn]) (by rw [hstore, hj])
      (s.dropEntry_delivers.powerFail.trans hw) (by rw [hstore, ht]) hqueue
    rw [List.length_cons, State.startTests, if_pos hc, ht]
    dsimp only
    refine ⟨hrest.frame.trans s.dropEntry_delivers.sameButMessages, hrest.line.trans s.dropEntry_line,
      hrest.store.trans hstore, hrest.pendingQueue, ?_, fun e' he => ?_⟩
    · rw [hrest.lost, hqueue, s.dropEntry_lost, hq]
      rfl
    · have hes : es = [] := (List.cons.inj (hq.symm.trans he)).2
      subst hes
      exact (State.dropEntry_dropsLast he).round

end Sys2Proof.Machine
end

section
/-! SUPPORT. The start of the reset sequence (R173, R174) and the end of the power-fail warning (R165, R169). -/

namespace Sys2Proof.Machine

/-- Settles O3: the two strappings of CFGDEF are the two branches of `State.beginReset`, each with every unit in its reset
state. -/
theorem resetSamplesStrapsAndInitialises : Obligations.ResetSamplesStrapsAndInitialises := by
  intro dt straps left s
  have hexec : exec (.reset dt straps left) s = .next (s.beginReset straps left) := rfl
  rw [hexec, State.beginReset]
  cases straps.cfgdef with
  | true => rfl
  | false => rfl

/-! ### The end of the warning (R165, R169) -/

/-- The state in which the warning has ceased. -/
def State.unwarned (s : State) : State := { s with powerFail := false }

section
variable {s : State}

theorem State.warningCeases_busy (h : s.store.phase ≠ .idle) : s.warningCeases = s.unwarned := if_neg h

variable (h : s.store.phase = .idle)
include h

theorem State.warningCeases_held {job : StoreJob} (hj : s.store.job = some job) :
    s.warningCeases = s.unwarned.reErase job := by
  unfold State.warningCeases
  rw [if_pos h, hj]
  rfl

theorem State.warningCeases_free (hj : s.store.job = none) : s.warningCeases = s.unwarned.startTest := by
  unfold State.warningCeases
  rw [if_pos h, hj]
  rfl

end

/-- The end of the warning by a work that leaves the Recorder. -/
theorem exec_powerFailWarningCeases_running {s t : State} {dt : Nat} (hr : s.runPhase = .running)
    (h : (s.advance dt).warningCeases = t) (ht : t.recorder = s.recorder) :
    exec (.powerFailWarningCeases dt) s = .next t := by
  have hexec : exec (.powerFailWarningCeases dt) s = .next (s.event dt State.warningCeases) := congrArg _ (if_pos hr)
  rw [hexec, State.event_unrecorded hr (by rw [h, ht]), h]

/-- Settles O44: the held erase (`State.reErase_eq`), or the start test, which rests on an empty queue
(`State.startTest_empty`) and else takes the slot (`State.startTest_begins`). -/
theorem warningCeasesResumesStore : Obligations.WarningCeasesResumesStore := by
  intro dt s hr u
  refine ⟨fun hp => ?_, fun job hp hj => ?_, fun hp hj hq => ?_, fun slot hp hj hq hn ht => ?_⟩
  · exact exec_powerFailWarningCeases_running hr (State.warningCeases_busy (s := s.advance dt) hp) rfl
  · have hw := State.warningCeases_held (s := s.advance dt) hp hj
    refine exec_powerFailWarningCeases_running hr (hw.trans ?_) rfl
    rw [State.reErase_eq, ← hj]
    rfl
  · have hw := State.warningCeases_free (s := s.advance dt) hp hj
    exact exec_powerFailWarningCeases_running hr (hw.trans (State.startTest_empty hq)) rfl
  · have hw := State.warningCeases_free (s := s.advance dt) hp hj
    have hc : (s.advance dt).unwarned.canStart = true := (State.canStart_iff _).mpr ⟨hp, hn, hq, hj, rfl⟩
    exact exec_powerFailWarningCeases_running hr (hw.trans (State.startTest_begins hc ht)) rfl

end Sys2Proof.Machine
end

section
/-! SUPPORT. The arbiter of the flash interface (R169, R170): which waiting operation it serves next, and the grant. -/

namespace Sys2Proof.Machine

/-! ### Which operations may be issued -/

theorem FlashOp.beginsStore_eq_false (op : FlashOp) :
    op.beginsStore = false ↔ ∀ k, op ≠ .eraseTarget k ∧ op ≠ .eraseCleanup k := by
  cases op <;> simp [FlashOp.beginsStore]

theorem FlashOp.erases_eq_some (op : FlashOp) (k : Nat) :
    op.erases = some k ↔ op = .eraseTarget k ∨ op = .eraseCleanup k ∨ op = .eraseAll k := by
  cases op <;> simp [FlashOp.erases]

theorem FlashOp.readsSlot_iff (op : FlashOp) (k : Nat) :
    op.readsSlot k = true ↔ ∃ o n, op = .readIncident k o n := by
  cases op <;> simp [FlashOp.readsSlot]

/-- The warning holds the erases that begin a store, and an erase waits for a waiting read of its slot (R169, R170, log
entries 19 and 20). -/
theorem Store.mayIssue_iff (st : Store) (powerFail : Bool) (op : FlashOp) : st.mayIssue powerFail op = true ↔
    (powerFail = false ∨ op.beginsStore = false) ∧
      ∀ k, op.erases = some k → ∀ o n, FlashOp.readIncident k o n ∉ st.requests := by
  have hread (k : Nat) : st.requests.any (FlashOp.readsSlot k) = false ↔
      ∀ o n, FlashOp.readIncident k o n ∉ st.requests := by
    rw [List.any_eq_false]
    constructor
    · intro h o n hm
      exact h _ hm ((FlashOp.readsSlot_iff _ k).mpr ⟨o, n, rfl⟩)
    · intro h op hm hr
      obtain ⟨o, n, rfl⟩ := (FlashOp.readsSlot_iff op k).mp hr
      exact h o n hm
  unfold Store.mayIssue
  rw [Bool.and_eq_true, Bool.not_eq_true', Bool.and_eq_false_iff]
  refine and_congr_right fun _ => ?_
  cases op.erases with
  | none => simp
  | some k => simpa using hread k

section
variable {st : Store} {powerFail : Bool} {op : FlashOp} {rest : List FlashOp} (h : st.requests = op :: rest)
include h

/-- The operation that asked first is served when it may be issued. -/
theorem Store.nextOp_first (hm : st.mayIssue powerFail op = true) : st.nextOp powerFail = some op := by
  rw [Store.nextOp, h, List.find?_cons_of_pos hm]

theorem Store.nextOp_blocked (hm : st.mayIssue powerFail op ≠ true) :
    st.nextOp powerFail = rest.find? (st.mayIssue powerFail) := by
  rw [Store.nextOp, h, List.find?_cons_of_neg hm]

end

/-- A read of a slot may always be issued. -/
theorem Store.mayIssue_readIncident (st : Store) (powerFail : Bool) (k o n : Nat) :
    st.mayIssue powerFail (.readIncident k o n) = true :=
  (st.mayIssue_iff _ _).mpr ⟨.inr rfl, fun _ hk => nomatch hk⟩

/-! ### The grant -/

section
variable {s : State}

theorem State.grantFlash_busy (h : s.store.inFlight ≠ none) : s.grantFlash = s := by
  unfold State.grantFlash
  split
  · rename_i hn _
    exact absurd hn h
  · rfl

theorem State.grantFlash_waits (h : s.store.nextOp s.powerFail = none) : s.grantFlash = s := by
  unfold State.grantFlash
  split
  · rename_i hn
    rw [h] at hn
    cases hn
  · rfl

theorem State.grantFlash_issues {op : FlashOp} (hf : s.store.inFlight = none)
    (h : s.store.nextOp s.powerFail = some op) : s.grantFlash = { s with store := s.store.issue op } := by
  unfold State.grantFlash
  rw [hf, h]

end

/-- The issue of an operation: a target's line becomes EMPTY (R166). -/
theorem Store.issue_eq (st : Store) (op : FlashOp) :
    st.issue op = { st with
      inFlight := some op, requests := st.requests.erase op
      lines := match op with
        | .eraseTarget k => st.lines.set (k - 1) .empty
        | _ => st.lines } := by
  cases op <;> rfl

/-- Settles O52: the arbiter is busy (`State.grantFlash_busy`), serves the first operation (`Store.nextOp_first`), serves none
(`State.grantFlash_waits`), or serves the read behind the erase of its slot (`Store.mayIssue_readIncident`). -/
theorem flashGrantServesFirstAsked : Obligations.FlashGrantServesFirstAsked := by
  intro dt op rest s hq
  have hexec : exec (.flashInterfaceGrant dt) s = .next (s.advance dt).grantFlash := rfl
  rw [hexec]
  refine ⟨fun hf => ?_, fun hf hw hr => ?_, fun k hf hw hop hrest => ?_, fun k o n hf hop hrest => ?_⟩
  · rw [State.grantFlash_busy (s := s.advance dt) hf]
  · have hm : s.store.mayIssue s.powerFail op = true := by
      rw [Store.mayIssue_iff, FlashOp.beginsStore_eq_false, hq]
      refine ⟨hw, fun k hk o n hmem => ?_⟩
      have hk := (op.erases_eq_some k).mp hk
      rcases List.mem_cons.mp hmem with rfl | hmem
      · simp at hk
      · exact hr k hk o n hmem
    have hissue := s.store.issue_eq op
    rw [hq, List.erase_cons_head] at hissue
    rw [State.grantFlash_issues (s := s.advance dt) hf (Store.nextOp_first hq hm)]
    exact congrArg (fun st => Host.Outcome.next { s.advance dt with store := st }) hissue
  · subst hop hrest
    have hm : s.store.mayIssue s.powerFail (.eraseTarget k) ≠ true := by
      rw [Ne, Store.mayIssue_iff, hw]
      simp [FlashOp.beginsStore]
    rw [State.grantFlash_waits (s := s.advance dt) (Store.nextOp_blocked hq hm)]
  · subst hop hrest
    have hm : s.store.mayIssue s.powerFail (.eraseTarget k) ≠ true := by
      rw [Ne, Store.mayIssue_iff, hq]
      exact fun h => h.2 k rfl o n (by simp)
    have hnext : s.store.nextOp s.powerFail = some (.readIncident k o n) := by
      rw [Store.nextOp_blocked hq hm, List.find?_cons_of_pos (s.store.mayIssue_readIncident _ k o n)]
    rw [State.grantFlash_issues (s := s.advance dt) hf hnext, Store.issue_eq, State.advance_store, hq,
      List.erase_cons_tail (by simp), List.erase_cons_head]

end Sys2Proof.Machine
end

section
/-! SUPPORT. The scan at reset (R164): what the ends of its reads make of the directory, the next number and the retained
count. -/

namespace Sys2Proof.Machine

/-! ### The retained lines -/

/-- The lines that lose the retained indication keep their numbers. -/
theorem keepRetained_numbers (n : Nat) (ls : List DirLine) :
    (keepRetained n ls).map DirLine.number = ls.map DirLine.number := by
  induction n, ls using keepRetained.induct with
  | case1 n => rfl
  | case2 n i c z ls hn ih => rw [keepRetained, if_pos hn, List.map_cons, List.map_cons, ih]
  | case3 n i c z ls hn ih => rw [keepRetained, if_neg hn, List.map_cons, List.map_cons, ih]; rfl
  | case4 n l ls hl ih => rw [keepRetained, List.map_cons, List.map_cons, ih]; exact hl

theorem DirLine.isRetained_iff (l : DirLine) : l.isRetained = true ↔ ∃ i c z, l = .valid i true c z := by
  cases l <;> simp [DirLine.isRetained]

/-- At most 48 lines are retained, those before counted. -/
theorem keepRetained_bounded (n : Nat) (ls : List DirLine) :
    ((keepRetained n ls).filter DirLine.isRetained).length ≤ 48 - n := by
  induction n, ls using keepRetained.induct with
  | case1 n => exact Nat.zero_le _
  | case2 n i c z ls hn ih =>
    rw [keepRetained, if_pos hn, List.filter_cons_of_pos rfl, List.length_cons]
    omega
  | case3 n i c z ls hn ih =>
    rw [keepRetained, if_neg hn, List.filter_cons_of_neg (by simp [DirLine.isRetained])]
    exact ih
  | case4 n l ls hl ih =>
    have hnot : ¬ l.isRetained = true := by
      rw [DirLine.isRetained_iff]
      rintro ⟨i, c, z, rfl⟩
      exact hl i c z rfl
    rw [keepRetained, List.filter_cons_of_neg hnot]
    · exact ih
    · exact hl

/-! ### The largest number -/

theorem largestNumber_eq_none (slot : Nat) (ls : List DirLine) :
    largestNumber slot ls = none ↔ ∀ l ∈ ls, l.number = none := by
  induction ls generalizing slot with
  | nil => simp [largestNumber]
  | cons l ls ih =>
    rw [largestNumber, List.forall_mem_cons, ← ih (slot + 1)]
    split
    · rename_i hl
      simp [hl]
    · rename_i hl _
      simp [hl]
    · rename_i hl _
      split <;> simp [hl]

/-- The largest number stands on the line of its slot, and no line has a larger one. -/
theorem largestNumber_eq_some {slot m k : Nat} {ls : List DirLine} (h : largestNumber slot ls = some (m, k)) :
    (∃ i l, k = slot + i ∧ ls[i]? = some l ∧ l.number = some m) ∧ ∀ l ∈ ls, ∀ n, l.number = some n → n ≤ m := by
  induction ls generalizing slot m k with
  | nil => cases h
  | cons l ls ih =>
    rw [largestNumber] at h
    split at h
    · rename_i hl
      obtain ⟨⟨i, l', hk, hi, hm⟩, hle⟩ := ih h
      refine ⟨⟨i + 1, l', by omega, hi, hm⟩, List.forall_mem_cons.mpr ⟨fun n hn => ?_, hle⟩⟩
      rw [hl] at hn
      cases hn
    · rename_i n hl hnone
      obtain ⟨rfl, rfl⟩ : n = m ∧ slot = k := by simpa using h
      refine ⟨⟨0, l, rfl, rfl, hl⟩, List.forall_mem_cons.mpr ⟨fun n' hn => ?_, fun l' hl' n' hn => ?_⟩⟩
      · exact (Option.some.inj (hn.symm.trans hl)).le
      · rw [(largestNumber_eq_none _ _).mp hnone l' hl'] at hn
        cases hn
    · rename_i n m' k' hl hsome
      obtain ⟨⟨i, l', hk, hi, hm⟩, hle⟩ := ih hsome
      split at h
      · rename_i hlt
        obtain ⟨rfl, rfl⟩ : m' = m ∧ k' = k := by simpa using h
        refine ⟨⟨i + 1, l', by omega, hi, hm⟩, List.forall_mem_cons.mpr ⟨fun n' hn => ?_, hle⟩⟩
        exact (Option.some.inj (hn.symm.trans hl)).trans_le hlt.le
      · rename_i hge
        obtain ⟨rfl, rfl⟩ : n = m ∧ slot = k := by simpa using h
        refine ⟨⟨0, l, rfl, rfl, hl⟩, List.forall_mem_cons.mpr ⟨fun n' hn => ?_, fun l' hl' n' hn => ?_⟩⟩
        · exact (Option.some.inj (hn.symm.trans hl)).le
        · exact (hle l' hl' n' hn).trans (Nat.not_lt.mp hge)

/-! ### The end of the scan -/

section
variable (st : Store)

theorem Store.scanEnded_blank (h : ∀ l ∈ st.scanEnded.lines, l.number = none) :
    st.scanEnded.nextNumber = 1 ∧ st.scanEnded.lastWritten = none ∧ st.scanEnded.exhausted = false := by
  have htop : largestNumber 1 (keepRetained 0 st.lines) = none := (largestNumber_eq_none _ _).mpr h
  unfold Store.scanEnded
  dsimp only
  rw [htop]
  exact ⟨rfl, rfl, rfl⟩

/-- With a number on some line, the numbers and the last written slot are those of the largest one. -/
theorem Store.scanEnded_largest {l : DirLine} {n : Nat} (hl : l ∈ st.scanEnded.lines) (hn : l.number = some n) :
    ∃ m k, (∀ l ∈ st.scanEnded.lines, ∀ n, l.number = some n → n ≤ m) ∧
      (st.scanEnded.lineOf k).number = some m ∧ st.scanEnded.lastWritten = some k ∧
      st.scanEnded.nextNumber = (if 4294967295 ≤ m then 4294967295 else m + 1) ∧
      st.scanEnded.exhausted = decide (4294967295 ≤ m) := by
  cases htop : largestNumber 1 (keepRetained 0 st.lines) with
  | none =>
    rw [(largestNumber_eq_none _ _).mp htop l hl] at hn
    cases hn
  | some top =>
    obtain ⟨m, k⟩ := top
    obtain ⟨⟨i, l', rfl, hi, hm⟩, hle⟩ := largestNumber_eq_some htop
    refine ⟨m, 1 + i, hle, ?_, ?_⟩
    · have hline : st.scanEnded.lineOf (1 + i) = l' := by
        change (keepRetained 0 st.lines).getD (1 + i - 1) .bad = l'
        rw [Nat.add_sub_cancel_left, List.getD_eq_getElem?_getD, hi]
        rfl
      rw [hline, hm]
    · unfold Store.scanEnded
      dsimp only
      rw [htop]
      exact ⟨rfl, rfl, rfl⟩

theorem Store.scanEnded_exhausted (h : ∃ l ∈ st.scanEnded.lines, ∃ n, l.number = some n ∧ 4294967295 ≤ n) :
    st.scanEnded.nextNumber = 4294967295 ∧ st.scanEnded.exhausted = true := by
  obtain ⟨l, hl, n, hn, hlast⟩ := h
  obtain ⟨m, k, hle, -, -, hnext, hex⟩ := st.scanEnded_largest hl hn
  have hm : 4294967295 ≤ m := hlast.trans (hle l hl n hn)
  rw [hnext, hex, if_pos hm]
  exact ⟨rfl, decide_eq_true hm⟩

theorem Store.scanEnded_numbered {m : Nat} (h : ∃ l ∈ st.scanEnded.lines, l.number = some m)
    (hle : ∀ l ∈ st.scanEnded.lines, ∀ n, l.number = some n → n ≤ m) (hm : m < 4294967295) :
    st.scanEnded.nextNumber = m + 1 ∧ st.scanEnded.exhausted = false ∧
      ∃ k, st.scanEnded.lastWritten = some k ∧ (st.scanEnded.lineOf k).number = some m := by
  obtain ⟨l, hl, hn⟩ := h
  obtain ⟨m', k, hle', hk, hwritten, hnext, hex⟩ := st.scanEnded_largest hl hn
  have hmem : st.scanEnded.lineOf k ∈ st.scanEnded.lines := by
    unfold Store.lineOf at hk ⊢
    rw [List.getD_eq_getElem?_getD] at hk ⊢
    cases hi : st.scanEnded.lines[k - 1]? with
    | none =>
      rw [hi] at hk
      cases hk
    | some l' => exact List.mem_of_getElem? hi
  obtain rfl : m' = m := Nat.le_antisymm (hle _ hmem _ hk) (hle' l hl m hn)
  have hlt : ¬ 4294967295 ≤ m' := Nat.not_le.mpr hm
  rw [hnext, hex, if_neg hlt]
  exact ⟨rfl, decide_eq_false hlt, k, hwritten, hk⟩

end

/-! ### The event -/

/-- The state in which the scan has ended after the read of its last slot, before the start test (R164). -/
def State.scanOver (s : State) (slot : Nat) (line : DirLine) : State :=
  { s with
    store := Store.scanEnded { s.store.setLine slot line with inFlight := none }
    recorder := { s.recorder with state := .idle } }

section
variable {s : State} {slot : Nat} (hf : s.store.inFlight = some (.scanRead slot)) (ok : Bool)
include hf

theorem State.scanReadEvent_next (h : slot < 63) :
    s.scanReadEvent ok = { s with store := { s.store with
      lines := s.store.lines.set (slot - 1) (if ok then scanLine s.flash slot else .empty)
      inFlight := none, scan := some (slot + 1), requests := s.store.requests ++ [.scanRead (slot + 1)] } } := by
  rw [State.scanReadEvent, hf]
  exact if_pos h

theorem State.scanReadEvent_last (h : 63 ≤ slot) :
    s.scanReadEvent ok = (s.scanOver slot (if ok then scanLine s.flash slot else .empty)).startTest := by
  rw [State.scanReadEvent, hf]
  exact if_neg (Nat.not_lt.mpr h)

end

/-- Settles O51: a read that is not the last (`State.scanReadEvent_next`), or the end of the scan (`Store.scanEnded_blank` and
its neighbours) with the start test, which leaves the directory and the numbers (`State.startTest_store`). -/
theorem scanReadBuildsDirectory : Obligations.ScanReadBuildsDirectory := by
  intro dt slot ok s hr hf line
  refine ⟨fun hslot => ?_, fun hslot => ?_⟩
  · have ht := State.scanReadEvent_next (s := s.advance dt) hf ok hslot
    exact congrArg _ ((State.event_unrecorded (work := fun s => s.scanReadEvent ok) hr (by rw [ht]; rfl)).trans ht)
  · have hexec : exec (.scanReadCompletion dt ok) s =
        .next ((s.advance dt).recordChannels ((s.advance dt).scanReadEvent ok)) :=
      congrArg _ (State.event_running (work := fun s => s.scanReadEvent ok) hr)
    have ht : (s.advance dt).scanReadEvent ok = ((s.advance dt).scanOver slot line).startTest :=
      State.scanReadEvent_last (s := s.advance dt) hf ok hslot
    have hd := (((s.advance dt).scanOver slot line).startTest_delivers).trans
      (State.recordChannels_delivers (s.advance dt) _)
    have hstate := ((s.advance dt).scanOver slot line).startTest_state
    have hline : ((s.advance dt).scanOver slot line).startTest.line = s.line := (State.startTests_sameLine _ _).line
    obtain ⟨phase, job, requests, hstore⟩ := ((s.advance dt).scanOver slot line).startTest_store
    obtain ⟨r, hframe, ho⟩ := (s.advance dt).recordChannels_frame ((s.advance dt).scanOver slot line).startTest
    rw [ht] at hexec
    refine ⟨_, hexec, ?_⟩
    rw [hframe] at hd ⊢
    dsimp only
    rw [hstore]
    exact ⟨ho.state.trans hstate, rfl, hd.sameButMessages.trans rfl, hline, rfl, keepRetained_numbers 0 _, rfl,
      keepRetained_bounded 0 _, Store.scanEnded_blank _, Store.scanEnded_exhausted _,
      fun m => Store.scanEnded_numbered _⟩

end Sys2Proof.Machine
end

section
/-! SUPPORT. ERASE_INCIDENTS (R171, R184): its answers, and the ends of the erases that follow. -/

namespace Sys2Proof.Machine

/-! ### The request (R184) -/

theorem State.atRest_iff (s : State) :
    s.atRest = true ↔ s.slide.standstill = true ∧ s.demand.mode = .released := by
  unfold State.atRest
  simp

theorem State.engineRefuses_iff (s : State) : s.engineRefuses = true ↔
    s.store.scan ≠ none ∨ s.store.phase ≠ .idle ∨ s.store.job ≠ none ∨ s.recorder.pendingQueue ≠ [] ∨
      s.powerFail = true := by
  unfold State.engineRefuses
  simp [or_assoc, Option.isSome_iff_ne_none]

section
variable {s : State}

theorem State.serveErase_moving (h : s.atRest ≠ true) : s.serveErase = s.respond .eraseIncidents .notStandstill [] :=
  if_pos (Bool.eq_false_iff.mpr h)

variable (h : s.atRest = true)
include h

theorem State.serveErase_busy (hb : s.engineRefuses = true) : s.serveErase = s.respond .eraseIncidents .busy [] := by
  rw [State.serveErase, if_neg (by simp [h]), if_pos hb]

theorem State.serveErase_taken (hb : s.engineRefuses ≠ true) :
    s.serveErase = State.respond { s with store := s.store.beginEraseAll } .eraseIncidents .ok [] := by
  rw [State.serveErase, if_neg (by simp [h]), if_neg hb]

end

/-- ERASE_INCIDENTS without a request in progress, its service leaving the Recorder. -/
theorem exec_eraseIncidents_served {s t : State} {dt : Nat} (hr : s.runPhase = .running)
    (hp : s.service.inProgress = none) (ht : (s.arrival dt).serveErase = t) (hrec : t.recorder = s.recorder) :
    exec (.eraseIncidents dt []) s = .next t := by
  have hserve : (s.advance dt).takeEraseIncidents [] = t :=
    (State.request_served (s := s.advance dt) hp .eraseIncidents () fun _ s => s.serveErase).trans ht
  have he : s.event dt (fun s => s.takeEraseIncidents []) = (s.advance dt).takeEraseIncidents [] :=
    State.event_unrecorded hr (by rw [hserve, hrec])
  exact congrArg _ (he.trans hserve)

/-! ### The end of one erase (R171) -/

/-- The Store Engine after the end of the erase of a slot in ERASING_ALL: a failed slot is BAD, and counts as retained where
it was noted (R163, R171). -/
def Store.afterErase (st : Store) (k : Nat) (r : FlashResult) : Store :=
  { st with
    inFlight := none
    lines := if r = .ok then st.lines else st.lines.set (k - 1) .bad
    retained := st.retained + (if r ≠ .ok ∧ k ∈ st.noted then 1 else 0)
    mayHold := if r ≠ .ok ∧ k ∈ st.noted then st.mayHold ++ [k] else st.mayHold }

theorem Store.afterErase_eq (st : Store) (k : Nat) (r : FlashResult) :
    (if resultOk r then { st with inFlight := none } else Store.eraseFailed { st with inFlight := none } k) =
      st.afterErase k r := by
  cases r with
  | ok => rfl
  | failed left =>
    rw [if_neg (by simp [resultOk]), Store.eraseFailed_eq]
    by_cases hk : k ∈ st.noted <;> simp [Store.afterErase, Store.setLine, hk]

/-- ERASING_ALL ends: the engine is in IDLE and forgets the noted slots (R171). -/
def Store.eraseOver (st : Store) : Store := { st with phase := .idle, eraseNext := none, noted := [] }

/-- The state at the end of ERASING_ALL, before the start test (R165, R171). -/
def State.eraseOver (s : State) (k : Nat) (r : FlashResult) : State :=
  { s with flash := (FlashOp.eraseAll k).after s.flash r, store := (s.store.afterErase k r).eraseOver }

section
variable {s : State} {k : Nat} (hf : s.store.inFlight = some (.eraseAll k)) (r : FlashResult)
include hf

theorem State.eraseAllEvent_next (h : k < 63) :
    s.eraseAllEvent r = { s with
      flash := (FlashOp.eraseAll k).after s.flash r
      store := { s.store.afterErase k r with
        eraseNext := some (k + 1), requests := s.store.requests ++ [.eraseAll (k + 1)] } } := by
  rw [State.eraseAllEvent, hf]
  dsimp only
  rw [State.erasedOne, State.endOp_store, Store.afterErase_eq, if_pos h]
  rfl

theorem State.eraseAllEvent_last (h : 63 ≤ k) : s.eraseAllEvent r = (s.eraseOver k r).startTest := by
  rw [State.eraseAllEvent, hf]
  dsimp only
  rw [State.erasedOne, State.endOp_store, Store.afterErase_eq, if_neg (Nat.not_lt.mpr h)]
  rfl

end

/-- What the erase of a slot leaves in the flash (R171, log entry 22). -/
theorem FlashOp.eraseAll_after (k : Nat) (flash : Memory) (r : FlashResult) :
    (FlashOp.eraseAll k).after flash r = match r with
      | .ok => flash.clear (65536 * k) 65536
      | .failed left => overlay flash (65536 * k) 65536 left := by
  cases r with
  | ok => exact overlay_nil flash (65536 * k) 65536
  | failed left => rfl

/-- At the end of ERASING_ALL the start test asks for a pending entry, no scan and no store, and no warning (R165). -/
theorem State.eraseOver_canStart (s : State) (k : Nat) (r : FlashResult) : (s.eraseOver k r).canStart = true ↔
    s.recorder.pendingQueue ≠ [] ∧ s.store.scan = none ∧ s.store.job = none ∧ s.powerFail = false := by
  rw [State.canStart_iff]
  constructor
  · rintro ⟨-, hn, hq, hj, hw⟩
    exact ⟨hq, hn, hj, hw⟩
  · rintro ⟨hq, hn, hj, hw⟩
    exact ⟨rfl, hn, hq, hj, hw⟩

/-- The end of an erase by a work that leaves the Recorder. -/
theorem exec_eraseAllCompletion_running {s t : State} {dt : Nat} {r : FlashResult} (hr : s.runPhase = .running)
    (h : (s.advance dt).eraseAllEvent r = t) (ht : t.recorder = s.recorder) :
    exec (.eraseAllCompletion dt r) s = .next t :=
  congrArg _ ((State.event_unrecorded (work := fun s => s.eraseAllEvent r) hr (by rw [h, ht])).trans h)

/-- Settles O55: the answers of the request (`State.serveErase_moving` and its neighbours), the end of an erase
(`State.eraseAllEvent_next`, `State.eraseAllEvent_last`), and the start test after the last one. -/
theorem eraseIncidentsEmptiesDirectory : Obligations.EraseIncidentsEmptiesDirectory := by
  refine ⟨?_, ?_⟩
  · intro dt s hr hp u rest busy
    have hrest : u.atRest = true ↔ rest := u.atRest_iff
    have hbusy : u.engineRefuses = true ↔ busy := u.engineRefuses_iff
    refine ⟨fun h => ?_, fun h hb => ?_, fun h hb => ?_⟩
    · exact exec_eraseIncidents_served hr hp (State.serveErase_moving (mt hrest.mp h)) rfl
    · exact exec_eraseIncidents_served hr hp (State.serveErase_busy (hrest.mpr h) (hbusy.mpr hb)) rfl
    · exact exec_eraseIncidents_served hr hp (State.serveErase_taken (hrest.mpr h) (mt hbusy.mp hb)) rfl
  · intro dt k r s hr hf flash st ended starts
    have hflash : (FlashOp.eraseAll k).after s.flash r = flash := FlashOp.eraseAll_after k s.flash r
    have hover : (s.advance dt).eraseOver k r = { s.advance dt with flash := flash, store := ended } := by
      rw [← hflash]
      rfl
    have hstarts : ((s.advance dt).eraseOver k r).canStart = true ↔ starts := State.eraseOver_canStart _ k r
    refine ⟨fun hk => ?_, fun hk hs => ?_, fun hk hs ht => ?_, fun slot hk hs ht => ?_⟩
    · have he := State.eraseAllEvent_next (s := s.advance dt) hf r hk
      rw [State.advance_flash, hflash] at he
      exact exec_eraseAllCompletion_running hr he rfl
    · have he := State.eraseAllEvent_last (s := s.advance dt) hf r hk
      rw [State.startTest_rests (mt hstarts.mp hs), hover] at he
      exact exec_eraseAllCompletion_running hr he rfl
    · have he := State.eraseAllEvent_last (s := s.advance dt) hf r hk
      obtain ⟨-, hn, hj, hw⟩ := hs
      have hdrops := (State.startTest_dropsPending (s := (s.advance dt).eraseOver k r) rfl hn hj hw ht).recorded
        (s.advance dt)
      have hexec : exec (.eraseAllCompletion dt r) s =
          .next ((s.advance dt).recordChannels ((s.advance dt).eraseAllEvent r)) :=
        congrArg _ (State.event_running (work := fun s => s.eraseAllEvent r) hr)
      rw [he] at hexec
      rw [hover] at hdrops hexec
      exact ⟨_, hexec, hdrops.frame.trans rfl, hdrops.line, hdrops.store, hdrops.pendingQueue, hdrops.lost,
        hdrops.round⟩
    · have he := State.eraseAllEvent_last (s := s.advance dt) hf r hk
      rw [State.startTest_begins (hstarts.mpr hs) ht, hover] at he
      exact exec_eraseAllCompletion_running hr he rfl

end Sys2Proof.Machine
end

section
/-! SUPPORT. One step of the machine, the state after reset, and the end of the read of slot 0 (R174, R175). -/

namespace Sys2Proof.Machine

/-- Settles O1: the two cases of `step` are the two forms of the queue. -/
theorem stepRunsFrontCommand : Obligations.StepRunsFrontCommand := by
  refine ⟨fun c rest s h => ?_, fun s h => ?_⟩
  · rw [step, h]
  · rw [step, h]

/-! ### The state after reset -/

theorem zeroCounters_get (i : CounterId) : zeroCounters.get i = 0 := by
  cases i <;> rfl

/-- Settles O5: each invariant at the unit that it speaks of, by the lemmas on the units' reset states. -/
theorem invariantsHoldAtReset : Obligations.InvariantsHoldAtReset := by
  have hconfig : State.reset.ConfigSound := defaultConfig_inRange
  have hadhesion : State.reset.AdhesionSound := resetSlide_adhesionSound hconfig
  have hexit : State.reset.ExitTimerSound := fun h => absurd rfl h
  have hemergency : State.reset.EmergencyHeld := fun _ => rfl
  have htargets : State.reset.TargetsSafe := ⟨Nat.zero_le _, Nat.zero_le _⟩
  have hrequest : State.reset.RequestSafe := nofun
  have hurgent : State.reset.UrgentSound := ⟨Nat.zero_le 4, fun _ => rfl⟩
  have hpeers : State.reset.PeersSound := resetPeers_sound defaultConfig 1 (Nat.zero_le 15) rfl
  have hrecorder : State.reset.RecorderSound := State.recorderSound_of_reset rfl le_rfl
  have hcounters : State.reset.CountersSound :=
    ⟨fun i => (zeroCounters_get i).trans_le (Nat.zero_le 65535), resetRecorder_lost defaultConfig⟩
  exact ⟨hconfig, hadhesion, resetSlide_ventsSound defaultConfig, hexit, hemergency, htargets, hrequest, hurgent, hpeers,
    hrecorder, hcounters, ⟨rfl, rfl⟩, resetRecorder_partition defaultConfig, resetRecorder_holdings defaultConfig,
    resetRecorder_ascending defaultConfig⟩

/-! ### The end of the read of slot 0 (R174, R175) -/

/-- The checks of R175 from the check word onward, in their order. -/
theorem checkImage_eq (image : List Byte) : checkImage image =
    if image.drop 254 ≠ be16 (crc16 (image.take 254)).toNat then .badCrc
    else if byteAt image 0 ≠ 1 then .badVersion
    else if reservedZero image = false then .badReserved
    else if kindsKnown image = false ∨ configInRange (configOf image) = false then .badRange
    else .loaded := by
  have hcrc : imageCrcGood image = false ↔ image.drop 254 ≠ be16 (crc16 (image.take 254)).toNat := beq_eq_false_iff_ne
  unfold checkImage
  rw [if_congr hcrc rfl rfl]

theorem exec_configImageReadCompletion_reads {s : State} (hp : s.runPhase = .loading)
    (hf : s.store.inFlight = some .readImage) (dt : Nat) (ok : Bool) :
    exec (.configImageReadCompletion dt ok) s = .next (s.imageRead ok) := congrArg _ (if_pos ⟨hp, hf⟩)

/-- Settles O4: the source is that of the checks (`checkImage_eq`), what is put in force is in range
(`configFrom_inRange`), and every unit takes its reset state under it (`State.reinit`). -/
theorem imageReadPutsConfigurationInForce : Obligations.ImageReadPutsConfigurationInForce := by
  intro dt ok s hp hf image
  refine ⟨s.imageRead ok, exec_configImageReadCompletion_reads hp hf dt ok, ?_, rfl, configFrom_inRange ok image, ?_, rfl⟩
  · show (if ok then checkImage image else .readFailed) = _
    rw [checkImage_eq]
    cases ok <;> rfl
  · exact decide_not.symm

end Sys2Proof.Machine
end

section
/-! SUPPORT. Requests on the service link (R177): every request is one of the twelve commands' with its operand, or an
unknown command's; BUSY and BAD_REQUEST come before any service. Then the responses sent (R188) and RESTART (R186). -/

namespace Sys2Proof.Machine

/-! ### Requests by their commands (R177) -/

theorem byteAt_append_left {xs : List Byte} {i : Nat} (h : i < xs.length) (ys : List Byte) :
    byteAt (xs ++ ys) i = byteAt xs i :=
  congrArg BitVec.toNat (List.getD_append _ _ _ _ h)

/-- A code that is not unknown is the code of a command (section 12.4). -/
theorem exists_command_of_known : ∀ code : Byte, unknownCode code = false → ∃ c ∈
    [Command.readStatus, .readPeers, .readPeer, .listIncidents, .readIncident, .readCounters, .clearCounters, .trigger,
      .clearChannel, .eraseIncidents, .writeConfig, .restart], commandCode c = code := by decide

/-- A reader answers nothing where its condition fails. -/
theorem reader_none {P Q : Prop} [Decidable P] {α : Type} {x : α} (h : ¬P ↔ Q) :
    (if P then some x else none) = none ↔ Q := by
  rw [ite_eq_right_iff, ← h]
  simp

section
variable (p : List Byte)

theorem noPayload_none : noPayload p = none ↔ p.length ≠ 0 := reader_none Iff.rfl

theorem peerAddress_none : peerAddress p = none ↔ p.length ≠ 1 ∨ byteAt p 0 = 0 ∨ 30 < byteAt p 0 :=
  reader_none (by omega)

theorem firstSlot_none : firstSlot p = none ↔ p.length ≠ 1 ∨ byteAt p 0 = 0 ∨ 63 < byteAt p 0 :=
  reader_none (by omega)

theorem incidentRange_none : incidentRange p = none ↔ p.length ≠ 9 ∨ byteAt p 8 = 0 ∨ 240 < byteAt p 8 :=
  reader_none (by omega)

theorem channelNumber_unread : channelNumber p = none ↔ p.length ≠ 1 ∨ 7 < byteAt p 0 :=
  reader_none (by omega)

theorem imageChunk_none : imageChunk p = none ↔ p.length < 4 ∨ 243 < p.length ∨ 1 < byteAt p 2 :=
  reader_none (by omega)

end

/-- A request of a command reads the command's operand, and R177 answers it BAD_REQUEST exactly when nothing is read. -/
theorem State.takeRequest_command (s : State) (c : Command) (p : List Byte) :
    ∃ (α : Type) (operand : Option α) (serve : α → State → State),
      s.takeRequest (commandCode c) p = s.request c operand serve ∧
        (badRequest (commandCode c) p = true ↔ operand = none) := by
  have hnone {P : Prop} [Decidable P] {α : Type} {x : Option α} (h : x = none ↔ P) : decide P = true ↔ x = none :=
    decide_eq_true_iff.trans h.symm
  cases c with
  | readPeer => exact ⟨Nat, peerAddress p, State.servePeer, rfl, hnone (peerAddress_none p)⟩
  | listIncidents =>
    exact ⟨Nat, firstSlot p, fun k s => s.respond .listIncidents .ok (s.store.listing k), rfl, hnone (firstSlot_none p)⟩
  | readIncident => exact ⟨IncidentRange, incidentRange p, State.serveIncident, rfl, hnone (incidentRange_none p)⟩
  | clearChannel => exact ⟨Nat, channelNumber p, State.serveClear, rfl, hnone (channelNumber_unread p)⟩
  | writeConfig => exact ⟨Chunk, imageChunk p, State.serveChunk, rfl, hnone (imageChunk_none p)⟩
  | readStatus =>
    exact ⟨Unit, noPayload p, fun _ s => s.respond .readStatus .ok s.statusValues, rfl, hnone (noPayload_none p)⟩
  | readPeers =>
    exact ⟨Unit, noPayload p, fun _ s => s.respond .readPeers .ok (s.peers.entries.flatMap peerLine), rfl,
      hnone (noPayload_none p)⟩
  | readCounters =>
    exact ⟨Unit, noPayload p, fun _ s => s.respond .readCounters .ok s.counterValues, rfl, hnone (noPayload_none p)⟩
  | clearCounters =>
    exact ⟨Unit, noPayload p, fun _ s => s.clearCounters.respond .clearCounters .ok [], rfl, hnone (noPayload_none p)⟩
  | trigger => exact ⟨Unit, noPayload p, fun _ s => s.serveTrigger, rfl, hnone (noPayload_none p)⟩
  | eraseIncidents => exact ⟨Unit, noPayload p, fun _ s => s.serveErase, rfl, hnone (noPayload_none p)⟩
  | restart => exact ⟨Unit, noPayload p, fun _ s => s.serveRestart, rfl, hnone (noPayload_none p)⟩

/-- A request in progress comes before the operand (R177). -/
theorem State.request_busy {s : State} {α : Type} (hp : s.service.inProgress ≠ none) (c : Command) (operand : Option α)
    (serve : α → State → State) : s.request c operand serve = s.hunt.respond c .busy [] :=
  if_pos (Option.isSome_iff_ne_none.mpr hp)

theorem State.takeRequest_busy {s : State} (hp : s.service.inProgress ≠ none) (code : Byte) (p : List Byte) :
    s.takeRequest code p = s.hunt.respondCode code .busy [] := by
  cases hu : unknownCode code with
  | true =>
    rw [State.takeRequest_unknown s code p hu, State.takeUnknown, if_pos (Option.isSome_iff_ne_none.mpr hp)]
  | false =>
    obtain ⟨c, -, rfl⟩ := exists_command_of_known code hu
    obtain ⟨α, operand, serve, hreq, -⟩ := s.takeRequest_command c p
    exact hreq.trans (State.request_busy hp c operand serve)

theorem State.takeRequest_bad {s : State} (hp : s.service.inProgress = none) {code : Byte} {p : List Byte}
    (hb : badRequest code p = true) : s.takeRequest code p = s.hunt.respondCode code .badRequest [] := by
  cases hu : unknownCode code with
  | true => rw [State.takeRequest_unknown s code p hu, State.takeUnknown, if_neg (by simp [hp])]
  | false =>
    obtain ⟨c, -, rfl⟩ := exists_command_of_known code hu
    obtain ⟨α, operand, serve, hreq, hnone⟩ := s.takeRequest_command c p
    rw [hreq, hnone.mp hb]
    exact State.request_unread hp c serve

section
variable {c : Instr} {s t : State} {dt : Nat} {code : Byte} {p : List Byte} (hr : s.runPhase = .running)
  (hq : requestOf c = some (dt, code, p))
include hr hq

/-- A request whose work leaves the Recorder. -/
theorem exec_request_running (ht : (s.advance dt).takeRequest code p = t) (hrec : t.recorder = s.recorder) :
    exec c s = .next t := by
  rw [exec_request c dt code p s hq, State.event_unrecorded hr (by rw [ht, hrec]), ht]

/-- A request without a request in progress, its operand read and its service leaving the Recorder. -/
theorem exec_request_served {α : Type} {command : Command} {operand : Option α} {serve : α → State → State} {x : α}
    (hc : (s.advance dt).takeRequest code p = (s.advance dt).request command operand serve)
    (hp : s.service.inProgress = none) (hx : operand = some x) (ht : serve x (s.arrival dt) = t)
    (hrec : t.recorder = s.recorder) : exec c s = .next t := by
  refine exec_request_running hr hq ?_ hrec
  rw [hc, hx, State.request_served (s := s.advance dt) hp]
  exact ht

end

/-- The same for a command whose request has no payload. -/
theorem exec_plainRequest_served {c : Instr} {s t : State} {dt : Nat} {code : Byte} {command : Command}
    {serve : State → State} (hr : s.runPhase = .running) (hq : requestOf c = some (dt, code, []))
    (hc : (s.advance dt).takeRequest code [] = (s.advance dt).request command (noPayload []) fun _ s => serve s)
    (hp : s.service.inProgress = none) (ht : serve (s.arrival dt) = t) (hrec : t.recorder = s.recorder) :
    exec c s = .next t :=
  exec_request_served (serve := fun _ s => serve s) (x := ()) hr hq hc hp rfl ht hrec

/-! ### Responses sent (R177, R188) -/

/-- The head of the queue is the OK of a RESTART in progress. -/
theorem State.restartAtHead_cons {s : State} {r : Response} {rest : List Response} (h : s.service.responses = r :: rest) :
    s.restartAtHead = true ↔
      s.service.inProgress = some .restart ∧ r = { command := 12, code := .ok, values := [] } := by
  unfold State.restartAtHead
  rw [h]
  simp [commandCode]

theorem State.responseSent_empty {s : State} (h : s.service.responses = []) : s.responseSent = s := by
  unfold State.responseSent
  split
  · rfl
  · rw [State.sendHead, h]
    simp only [List.head?_nil, h, List.tail_nil]
    rw [← h]

theorem State.responseSent_restarts {s : State} (h : s.restartAtHead = true) : s.responseSent = s := if_pos h

theorem State.sendHead_cons {s : State} {r : Response} {rest : List Response} (h : s.service.responses = r :: rest) :
    s.sendHead = { s with serviceOut := responseFrame r } := by
  rw [State.sendHead, h]
  rfl

theorem State.responseSent_sends {s : State} {r : Response} {rest : List Response}
    (h : s.service.responses = r :: rest) (hn : s.restartAtHead ≠ true) :
    s.responseSent = { s with service := { s.service with responses := rest }, serviceOut := responseFrame r } := by
  rw [State.responseSent, if_neg hn, State.sendHead_cons h]
  dsimp only
  rw [h, List.tail_cons]

/-- The frame of a response: its start byte, then command, length, payload and their CRC-16 (section 12.4). -/
theorem responseFrame_eq (r : Response) : responseFrame r =
    [0x7E#8] ++ withCrc16
      ([0x80#8] ++ be8 (2 + r.values.length) ++ [r.command] ++ be8 (responseCode r.code) ++ r.values) := by
  rw [responseFrame]
  have hl : (r.command :: be8 (responseCode r.code) ++ r.values).length = 2 + r.values.length := by
    simp [be8_eq]
    omega
  rw [hl]
  simp [be8_eq]

theorem exec_serviceResponseSent_running {s t : State} {dt : Nat} (hr : s.runPhase = .running)
    (ht : (s.advance dt).responseSent = t) (hrec : t.recorder = s.recorder) :
    exec (.serviceResponseSent dt) s = .next t :=
  congrArg _ ((State.event_unrecorded hr (by rw [ht, hrec])).trans ht)

/-! ### RESTART (R186) -/

section
variable {s : State}

theorem State.serveRestart_moving (h : s.atRest ≠ true) : s.serveRestart = s.respond .restart .notStandstill [] :=
  if_pos (Bool.eq_false_iff.mpr h)

theorem State.serveRestart_taken (h : s.atRest = true) :
    s.serveRestart = (s.respond .restart .ok []).setInProgress (some .restart) := if_neg (by simp [h])

end

theorem exec_restart_served {s t : State} {dt : Nat} (hr : s.runPhase = .running) (hp : s.service.inProgress = none)
    (ht : (s.arrival dt).serveRestart = t) (hrec : t.recorder = s.recorder) : exec (.restart dt []) s = .next t :=
  exec_plainRequest_served (serve := State.serveRestart) hr rfl rfl hp ht hrec

/-- The start of the reset sequence samples the address and takes the clock and the Service Port to their reset state. -/
theorem State.beginReset_service (s : State) (straps : Straps) (left : List Byte) :
    (s.beginReset straps left).address = straps.address.toNat ∧ (s.beginReset straps left).service = resetService ∧
      (s.beginReset straps left).clock = 0 := by
  unfold State.beginReset
  dsimp only
  split <;> exact ⟨rfl, rfl, rfl⟩

/-- Settles O58: BUSY and BAD_REQUEST (`State.takeRequest_busy`, `State.takeRequest_bad`), the response sent
(`State.responseSent_sends` with its frame, `responseFrame_eq`), and RESTART (`State.serveRestart_moving`,
`State.serveRestart_taken`), whose OK starts the reset sequence once it has been sent. -/
theorem requestsRefusedResponsesSentAndRestart : Obligations.RequestsRefusedResponsesSentAndRestart := by
  refine ⟨?_, ?_, ?_, ?_⟩
  · intro c dt code p s hr hq
    refine ⟨fun hp => ?_, fun hp hb => ?_⟩
    · exact exec_request_running hr hq (State.takeRequest_busy (s := s.advance dt) hp code p) rfl
    · exact exec_request_running hr hq (State.takeRequest_bad (s := s.advance dt) hp hb) rfl
  · intro dt s hr restarts
    refine ⟨fun h => ?_, fun r more h => ?_⟩
    · exact exec_serviceResponseSent_running hr (State.responseSent_empty (s := s.advance dt) h) rfl
    · have hhead : (s.advance dt).restartAtHead = true ↔ restarts r := State.restartAtHead_cons (s := s.advance dt) h
      refine ⟨fun hrestarts => ?_, fun hn => ?_⟩
      · exact exec_serviceResponseSent_running hr (State.responseSent_restarts (hhead.mpr hrestarts)) rfl
      · have hsent := State.responseSent_sends (s := s.advance dt) h (mt hhead.mp hn)
        rw [responseFrame_eq] at hsent
        exact exec_serviceResponseSent_running hr hsent rfl
  · intro dt s hr hp u rest
    have hrest : u.atRest = true ↔ rest := u.atRest_iff
    refine ⟨fun h => ?_, fun h => ?_⟩
    · exact exec_restart_served hr hp (State.serveRestart_moving (mt hrest.mp h)) rfl
    · exact exec_restart_served hr hp (State.serveRestart_taken (hrest.mpr h)) rfl
  · intro dt straps left more s hp h sent
    have hhead : s.restartAtHead = true := (State.restartAtHead_cons h).mpr ⟨hp, rfl⟩
    have hsent : s.sendHead = sent := by
      rw [State.sendHead_cons h, responseFrame_eq]
      rfl
    refine ⟨sent.beginReset straps left, ?_, rfl, sent.beginReset_service straps left⟩
    rw [← hsent]
    exact congrArg _ (if_pos hhead)

end Sys2Proof.Machine
end

section
/-! SUPPORT. The commands that read (R178 to R182): the values that they answer, and READ_INCIDENT with its flash read. -/

namespace Sys2Proof.Machine

/-! ### The directory searched for a number (R163, R181) -/

section
variable {st : Store}

/-- The listing from a slot upward names the VALID lines of the 63 slots (R180). -/
theorem Store.mem_validFrom {slot : Nat} {p : Nat × DirLine} : p ∈ st.validFrom slot ↔
    p.1 ∈ List.range' 1 63 ∧ slot ≤ p.1 ∧ st.lineOf p.1 = p.2 ∧ ∃ n r c z, p.2 = .valid n r c z := by
  unfold Store.validFrom
  simp only [List.mem_filterMap, List.mem_filter, decide_eq_true_eq]
  constructor
  · rintro ⟨k, ⟨hk, hle⟩, hp⟩
    split at hp
    · rename_i n r c z hline
      cases hp
      exact ⟨hk, hle, hline, n, r, c, z, rfl⟩
    · cases hp
  · rintro ⟨hk, hle, hline, n, r, c, z, hv⟩
    refine ⟨p.1, ⟨hk, hle⟩, ?_⟩
    rw [hline, hv]
    exact congrArg some (Prod.ext rfl hv.symm)

variable {number : Nat}

/-- A found number stands on the VALID line of its slot. -/
theorem Store.findNumber_line {j z : Nat} (h : st.findNumber number = some (j, z)) :
    j ∈ List.range' 1 63 ∧ ∃ r c, st.lineOf j = .valid number r c z := by
  obtain ⟨p, hp, hf⟩ := List.exists_of_findSome?_eq_some h
  obtain ⟨hk, -, hline, n, r, c, z', hv⟩ := Store.mem_validFrom.mp hp
  rw [hv] at hf
  obtain ⟨rfl, hjz⟩ := Option.ite_none_right_eq_some.mp hf
  cases hjz
  exact ⟨hk, r, c, hline.trans hv⟩

theorem Store.findNumber_absent (h : ∀ k ∈ List.range' 1 63, (st.lineOf k).number ≠ some number) :
    st.findNumber number = none := by
  rw [Option.eq_none_iff_forall_ne_some]
  rintro ⟨j, z⟩ hf
  obtain ⟨hj, r, c, hline⟩ := Store.findNumber_line hf
  exact h j hj (by rw [hline]; rfl)

/-- A number on one VALID line alone is found there. -/
theorem Store.findNumber_only {k size c : Nat} {r : Bool} (hk : k ∈ List.range' 1 63)
    (hline : st.lineOf k = .valid number r c size)
    (hother : ∀ j ∈ List.range' 1 63, j ≠ k → (st.lineOf j).number ≠ some number) :
    st.findNumber number = some (k, size) := by
  cases hf : st.findNumber number with
  | none =>
    have hmem : (k, DirLine.valid number r c size) ∈ st.validFrom 1 :=
      Store.mem_validFrom.mpr ⟨hk, (List.mem_range'_1.mp hk).1, hline, number, r, c, size, rfl⟩
    have hnone := List.findSome?_eq_none_iff.mp hf _ hmem
    simp at hnone
  | some p =>
    obtain ⟨j, z⟩ := p
    obtain ⟨hj, r', c', hline'⟩ := Store.findNumber_line hf
    by_cases hjk : j = k
    · subst hjk
      cases hline.symm.trans hline'
      rfl
    · exact absurd (by rw [hline']; rfl) (hother j hj hjk)

end

/-! ### The services of READ_PEER and READ_INCIDENT (R179, R181) -/

section
variable {s : State}

theorem State.servePeer_absent {addr : Nat} (h : findPeer s.peers.entries addr = none) :
    s.servePeer addr = s.respond .readPeer .notFound [] := by
  rw [State.servePeer, h]

theorem State.servePeer_found {addr : Nat} {e : PeerEntry} (h : findPeer s.peers.entries addr = some e) :
    s.servePeer addr = s.respond .readPeer .ok (peerValues e s.now) := by
  rw [State.servePeer, h]

variable {r : IncidentRange}

theorem State.serveIncident_absent (h : s.store.findNumber r.number = none) :
    s.serveIncident r = s.respond .readIncident .notFound [] := by
  rw [State.serveIncident, h]

variable {slot size : Nat} (h : s.store.findNumber r.number = some (slot, size))
include h

theorem State.serveIncident_beyond (ho : 24 + size ≤ r.offset) :
    s.serveIncident r = s.respond .readIncident .badRequest [] := by
  rw [State.serveIncident, h]
  exact if_pos ho

/-- A read within the record is asked of the flash interface, shortened at the record's end. -/
theorem State.serveIncident_asks (ho : r.offset < 24 + size) : s.serveIncident r =
    State.setInProgress
      { s with store := s.store.ask (.readIncident slot r.offset (min r.length (24 + size - r.offset))) }
      (some .readIncident) := by
  rw [State.serveIncident, h]
  exact if_neg (Nat.not_le.mpr ho)

end

/-! ### Operands that are read (R177) -/

theorem peerAddress_read {b : Byte} (h1 : 1 ≤ b.toNat) (h30 : b.toNat ≤ 30) : peerAddress [b] = some b.toNat :=
  if_pos ⟨rfl, h1, h30⟩

theorem firstSlot_read {b : Byte} (h1 : 1 ≤ b.toNat) (h63 : b.toNat ≤ 63) : firstSlot [b] = some b.toNat :=
  if_pos ⟨rfl, h1, h63⟩

theorem incidentRange_read {p : List Byte} (hl : p.length = 9) (h1 : 1 ≤ byteAt p 8) (h240 : byteAt p 8 ≤ 240) :
    incidentRange p = some { number := be32At p 0, offset := be32At p 4, length := byteAt p 8 } :=
  if_pos ⟨hl, h1, h240⟩

/-! ### The requests and the end of the read -/

section
variable {s t : State} {dt : Nat} (hr : s.runPhase = .running) (hp : s.service.inProgress = none)
include hr hp

theorem exec_readPeer_served {b : Byte} (h1 : 1 ≤ b.toNat) (h30 : b.toNat ≤ 30)
    (ht : (s.arrival dt).servePeer b.toNat = t) (hrec : t.recorder = s.recorder) :
    exec (.readPeer dt [b]) s = .next t :=
  exec_request_served (serve := State.servePeer) hr rfl rfl hp (peerAddress_read h1 h30) ht hrec

theorem exec_readIncident_served {p : List Byte} (hl : p.length = 9) (h1 : 1 ≤ byteAt p 8) (h240 : byteAt p 8 ≤ 240)
    (ht : (s.arrival dt).serveIncident { number := be32At p 0, offset := be32At p 4, length := byteAt p 8 } = t)
    (hrec : t.recorder = s.recorder) : exec (.readIncident dt p) s = .next t :=
  exec_request_served (serve := State.serveIncident) hr rfl rfl hp (incidentRange_read hl h1 h240) ht hrec

end

theorem State.incidentReadEvent_reads {s : State} {k offset n : Nat}
    (hf : s.store.inFlight = some (.readIncident k offset n)) (ok : Bool) :
    s.incidentReadEvent ok = s.incidentRead k offset n ok := by
  rw [State.incidentReadEvent, hf]

/-- The end of the read answers the bytes of the slot, or BUSY after a failure (R181). -/
theorem State.incidentRead_answers (s : State) (k offset n : Nat) (ok : Bool) : s.incidentRead k offset n ok =
    State.answers { s with
      service := { s.service with inProgress := none }, store := { s.store with inFlight := none } } 5
      (if ok then .ok else .busy)
      (if ok then (List.range n).map fun i => Memory.read 0xFF s.flash (65536 * k + offset + i) else []) := by
  cases ok <;> rfl

/-- Settles O56: each read command answers its values without another change (`exec_request_served`); READ_INCIDENT's
number is looked up (`Store.findNumber_absent`, `Store.findNumber_only`), its read is asked for (`State.serveIncident_asks`) and
answered (`State.incidentRead_answers`). -/
theorem readCommandsAnswerWithValues : Obligations.ReadCommandsAnswerWithValues := by
  refine ⟨?_, ?_, ?_⟩
  · intro dt s hr hp u
    refine ⟨?_, ?_, fun b h1 h30 => ⟨fun h => ?_, fun e h => ?_⟩, fun b h1 h63 => ?_, ?_⟩
    · exact exec_plainRequest_served (serve := fun s => s.respond .readStatus .ok s.statusValues) hr rfl rfl hp rfl rfl
    · exact exec_plainRequest_served (serve := fun s => s.respond .readPeers .ok (s.peers.entries.flatMap peerLine)) hr
        rfl rfl hp rfl rfl
    · exact exec_readPeer_served hr hp h1 h30 (State.servePeer_absent (s := u) h) rfl
    · exact exec_readPeer_served hr hp h1 h30 (State.servePeer_found (s := u) h) rfl
    · exact exec_request_served (serve := fun k s => s.respond .listIncidents .ok (s.store.listing k)) hr rfl rfl hp
        (firstSlot_read h1 h63) rfl rfl
    · exact exec_plainRequest_served (serve := fun s => s.respond .readCounters .ok s.counterValues) hr rfl rfl hp rfl rfl
  · intro dt p s hr hp hl h1 h240 u number offset
    refine ⟨fun h => ?_, fun k r c size hk hline hother => ⟨fun ho => ?_, fun ho => ?_⟩⟩
    · have hfind : u.store.findNumber number = none := Store.findNumber_absent h
      exact exec_readIncident_served hr hp hl h1 h240 (State.serveIncident_absent hfind) rfl
    · have hfind : u.store.findNumber number = some (k, size) := Store.findNumber_only hk hline hother
      exact exec_readIncident_served hr hp hl h1 h240 (State.serveIncident_beyond (s := u) hfind ho) rfl
    · have hfind : u.store.findNumber number = some (k, size) := Store.findNumber_only hk hline hother
      exact exec_readIncident_served hr hp hl h1 h240 (State.serveIncident_asks (s := u) hfind ho) rfl
  · intro dt k offset n ok s hr hf
    have hread := (State.incidentReadEvent_reads (s := s.advance dt) hf ok).trans
      ((s.advance dt).incidentRead_answers k offset n ok)
    have he : s.event dt (fun s => s.incidentReadEvent ok) = (s.advance dt).incidentReadEvent ok :=
      State.event_unrecorded hr (by rw [hread]; rfl)
    exact congrArg _ (he.trans hread)

end Sys2Proof.Machine
end

section
/-! SUPPORT. WRITE_CONFIG (R172, R185): the assembly that a chunk continues, the checks of a complete image, and the ends of
the operations that write it to slot 0. -/

namespace Sys2Proof.Machine

/-! ### A chunk and the assembly (R185) -/

/-- A payload of a chunk's three bytes of head and 1 to 240 bytes of image is read. -/
theorem imageChunk_read {head bytes : List Byte} (hh : head.length = 3) (hf : byteAt head 2 ≤ 1) (h1 : 1 ≤ bytes.length)
    (h240 : bytes.length ≤ 240) : imageChunk (head ++ bytes) =
      some { offset := be16At head 0, final := decide (byteAt head 2 = 1), bytes := bytes } := by
  have hb (i : Nat) (hi : i < 3) : byteAt (head ++ bytes) i = byteAt head i := byteAt_append_left (by omega) bytes
  unfold imageChunk be16At
  rw [hb 0 (by omega), hb 1 (by omega), hb 2 (by omega), if_pos (by rw [List.length_append]; omega),
    ← hh, List.drop_left]

/-- A chunk fits the assembly that it continues (R185). -/
def Chunk.Fits (c : Chunk) (old : Option (List Byte)) : Prop :=
  old ≠ none ∧ c.offset = (old.getD []).length ∧ (old.getD []).length + c.bytes.length ≤ 256

theorem assembled_keeps {c : Chunk} {old : Option (List Byte)} (h : c.offset = 0 ∨ c.Fits old) :
    assembled old c = some (if c.offset = 0 then c.bytes else old.getD [] ++ c.bytes) := by
  unfold assembled
  split
  · rfl
  · rename_i hz
    obtain ⟨hold, hoff, hlen⟩ := h.resolve_left hz
    obtain ⟨a, rfl⟩ := Option.ne_none_iff_exists'.mp hold
    exact if_pos ⟨hoff, hlen⟩

theorem assembled_discards {c : Chunk} {old : Option (List Byte)} (hz : c.offset ≠ 0) (h : ¬c.Fits old) :
    assembled old c = none := by
  cases old with
  | none => exact if_neg hz
  | some a => exact (if_neg hz).trans (if_neg fun hfit => h ⟨Option.some_ne_none a, hfit⟩)

section
variable {s : State} {c : Chunk}

theorem State.serveChunk_moving (h : s.atRest ≠ true) :
    s.serveChunk c = (s.setAssembly none).respond .writeConfig .notStandstill [] :=
  if_pos (Bool.eq_false_iff.mpr h)

variable (h : s.atRest = true)
include h

theorem State.serveChunk_discarded (ha : assembled s.service.assembly c = none) :
    s.serveChunk c = (s.setAssembly none).respond .writeConfig .badRequest [] := by
  rw [State.serveChunk, if_neg (by simp [h]), ha]

variable {image : List Byte} (ha : assembled s.service.assembly c = some image)
include ha

theorem State.serveChunk_kept (hf : c.final = false) :
    s.serveChunk c = (s.setAssembly (some image)).respond .writeConfig .ok [] := by
  rw [State.serveChunk, if_neg (by simp [h]), ha]
  exact if_neg (by simp [hf])

theorem State.serveChunk_complete (hf : c.final = true) : s.serveChunk c = s.finishImage image := by
  rw [State.serveChunk, if_neg (by simp [h]), ha]
  exact if_pos hf

end

/-! ### A complete image (R175, R185) -/

section
variable {s : State} {image : List Byte}

theorem State.finishImage_short (h : image.length < imageLength) : s.finishImage image =
    (s.setAssembly none).respond .writeConfig .badImage (be8 (sourceCode Config.shortImageSource)) := if_pos h

variable (h : imageLength ≤ image.length)
include h

theorem State.finishImage_refused (hc : checkImage image ≠ .loaded) : s.finishImage image =
    (s.setAssembly none).respond .writeConfig .badImage (be8 (sourceCode (checkImage image))) := by
  rw [State.finishImage, if_neg (Nat.not_lt.mpr h), if_pos hc]

variable (hc : checkImage image = .loaded)
include hc

theorem State.finishImage_busy (hb : s.engineRefuses = true) :
    s.finishImage image = (s.setAssembly none).respond .writeConfig .busy [] := by
  rw [State.finishImage, if_neg (Nat.not_lt.mpr h), if_neg (not_not.mpr hc), if_pos hb]

theorem State.finishImage_taken (hb : s.engineRefuses ≠ true) : s.finishImage image =
    State.setInProgress { s.setAssembly none with store := s.store.beginConfig image } (some .writeConfig) := by
  rw [State.finishImage, if_neg (Nat.not_lt.mpr h), if_neg (not_not.mpr hc), if_neg hb]
  rfl

end

/-! ### The write of slot 0 (R172) -/

section
variable {s : State} {job : ConfigJob} (hj : s.store.config = some job)
include hj

theorem State.configEraseEvent_erase (hf : s.store.inFlight = some .eraseConfig) (r : FlashResult) :
    s.configEraseEvent r = (s.endOp .eraseConfig r).configStep { job with position := 0 } (resultOk r) := by
  rw [State.configEraseEvent, hf, hj]

theorem State.configProgramEvent_program {p : Nat} {bs : List Byte}
    (hf : s.store.inFlight = some (.programConfig p bs)) (r : FlashResult) : s.configProgramEvent r =
      (s.endOp (.programConfig p bs) r).configStep { job with position := p + bs.length } (resultOk r) := by
  rw [State.configProgramEvent, hf, hj]

end

section
variable {s : State} {job : ConfigJob}

/-- With bytes of the image left the next image program is asked for (R172). -/
theorem State.configStep_programs (h : job.position < job.image.length) : s.configStep job true =
    { s with store := { s.store with
      config := some job
      requests := s.store.requests ++
        [.programConfig job.position ((job.image.drop job.position).take (max 1 Config.programBytes))] } } := by
  have hne : job.image.drop job.position ≠ [] := by
    rw [Ne, List.drop_eq_nil_iff]
    omega
  have hnext : s.store.nextConfig job = some
      (Store.ask { s.store with config := some job }
        (.programConfig job.position (chunk (job.image.drop job.position)))) := by
    unfold Store.nextConfig
    split
    · rename_i hnil
      exact absurd hnil hne
    · rfl
  rw [State.configStep, if_pos rfl, hnext]
  rfl

variable (hq : s.recorder.pendingQueue = [])
include hq

/-- The write ends with its answer, and without a pending entry the start test does nothing (R165, R172, R185). -/
theorem State.configDone_answers (ok : Bool) : s.configDone ok = State.answers
    { s with
      service := { s.service with inProgress := none }
      store := { s.store with config := none, phase := .idle } } 11
    (if ok then .ok else .badImage) (if ok then [] else [2]) := by
  cases ok <;> exact State.startTest_empty hq

theorem State.configStep_failed : s.configStep job false = State.answers
    { s with
      service := { s.service with inProgress := none }
      store := { s.store with config := none, phase := .idle } } 11 .badImage [2] := State.configDone_answers hq false

/-- After the last image program the write ends with OK (R172). -/
theorem State.configStep_last (h : job.image.length ≤ job.position) : s.configStep job true = State.answers
    { s with
      service := { s.service with inProgress := none }
      store := { s.store with config := none, phase := .idle } } 11 .ok [] := by
  have hnext : s.store.nextConfig job = none := by
    rw [Store.nextConfig, List.drop_eq_nil_of_le h]
  rw [State.configStep, if_pos rfl, hnext]
  exact State.configDone_answers hq true

end

/-! ### The events -/

section
variable {s t : State} {dt : Nat} (hr : s.runPhase = .running)
include hr

theorem exec_writeConfig_served (hp : s.service.inProgress = none) {p : List Byte} {c : Chunk}
    (hc : imageChunk p = some c) (ht : (s.arrival dt).serveChunk c = t) (hrec : t.recorder = s.recorder) :
    exec (.writeConfig dt p) s = .next t :=
  exec_request_served (serve := State.serveChunk) hr rfl rfl hp hc ht hrec

theorem exec_configEraseCompletion_running {r : FlashResult} (ht : (s.advance dt).configEraseEvent r = t)
    (hrec : t.recorder = s.recorder) : exec (.configEraseCompletion dt r) s = .next t :=
  congrArg _ ((State.event_unrecorded (work := fun s => s.configEraseEvent r) hr (by rw [ht, hrec])).trans ht)

theorem exec_configProgramCompletion_running {r : FlashResult} (ht : (s.advance dt).configProgramEvent r = t)
    (hrec : t.recorder = s.recorder) : exec (.configProgramCompletion dt r) s = .next t :=
  congrArg _ ((State.event_unrecorded (work := fun s => s.configProgramEvent r) hr (by rw [ht, hrec])).trans ht)

end

/-- Settles O57: a chunk's rows (`State.serveChunk_moving` and its neighbours), a complete image's
(`State.finishImage_short` and its neighbours), and the ends of the write (`State.configStep_programs`,
`State.configStep_last`, `State.configDone_answers`). -/
theorem writeConfigAssemblesAndProgramsImage : Obligations.WriteConfigAssemblesAndProgramsImage := by
  refine ⟨?_, ?_, ?_, ?_⟩
  · intro dt head bytes s hr hp hh hf h1 h240 u rest offset old fits image busy without
    have hread := imageChunk_read hh hf h1 h240
    have hrest : u.atRest = true ↔ rest := u.atRest_iff
    have hbusy : u.engineRefuses = true ↔ busy := u.engineRefuses_iff
    have hkeeps (h : offset = 0 ∨ fits) :
        assembled u.service.assembly ⟨offset, decide (byteAt head 2 = 1), bytes⟩ = some image := assembled_keeps h
    have hcomplete {t : State} (h : rest) (hfit : offset = 0 ∨ fits) (hfinal : byteAt head 2 = 1)
        (ht : u.finishImage image = t) (hrec : t.recorder = s.recorder) :
        exec (.writeConfig dt (head ++ bytes)) s = .next t :=
      exec_writeConfig_served hr hp hread
        ((State.serveChunk_complete (hrest.mpr h) (hkeeps hfit) (decide_eq_true hfinal)).trans ht) hrec
    refine ⟨fun h => ?_, fun h hz hfit => ?_, fun h hfit hfinal => ?_, fun h hfit hfinal hl => ?_,
      fun h hfit hfinal hl hc => ?_, fun h hfit hfinal hl hc hb => ?_, fun h hfit hfinal hl hc hb => ?_⟩
    · exact exec_writeConfig_served hr hp hread (State.serveChunk_moving (mt hrest.mp h)) rfl
    · exact exec_writeConfig_served hr hp hread
        (State.serveChunk_discarded (hrest.mpr h) (assembled_discards hz hfit)) rfl
    · have hnot : decide (byteAt head 2 = 1) = false := decide_eq_false (by omega)
      exact exec_writeConfig_served hr hp hread (State.serveChunk_kept (hrest.mpr h) (hkeeps hfit) hnot) rfl
    · exact hcomplete h hfit hfinal (State.finishImage_short hl) rfl
    · exact hcomplete h hfit hfinal (State.finishImage_refused hl hc) rfl
    · exact hcomplete h hfit hfinal (State.finishImage_busy hl hc (hbusy.mpr hb)) rfl
    · exact hcomplete h hfit hfinal (State.finishImage_taken hl hc (mt hbusy.mp hb)) rfl
  · intro dt job s hr hf hj hl
    have he := (State.configEraseEvent_erase (s := s.advance dt) hj hf .ok).trans (State.configStep_programs hl)
    have hflash : (FlashOp.eraseConfig).after s.flash .ok = s.flash.clear 0 65536 := overlay_nil s.flash 0 65536
    refine exec_configEraseCompletion_running hr (he.trans ?_) rfl
    rw [← hflash]
    rfl
  · intro dt left job c a n s hr hj hq hc
    have hfails (op : FlashOp) (job : ConfigJob) :=
      State.configStep_failed (s := (s.advance dt).endOp op (.failed left)) (job := job) hq
    rcases hc with ⟨hf, rfl, rfl, rfl⟩ | ⟨bs, hf, rfl, rfl⟩
    · have he := State.configEraseEvent_erase (s := s.advance dt) hj hf (.failed left)
      exact exec_configEraseCompletion_running hr (he.trans (hfails _ _)) rfl
    · have he := State.configProgramEvent_program (s := s.advance dt) hj hf (.failed left)
      exact exec_configProgramCompletion_running hr (he.trans (hfails _ _)) rfl
  · intro dt p bs job s hr hf hj
    have he := State.configProgramEvent_program (s := s.advance dt) hj hf .ok
    refine ⟨fun hl => ?_, fun hl hq => ?_⟩
    · exact exec_configProgramCompletion_running hr (he.trans (State.configStep_programs hl)) rfl
    · exact exec_configProgramCompletion_running hr (he.trans (State.configStep_last hq hl)) rfl

end Sys2Proof.Machine
end

section
/-! SUPPORT. The receiver of the service link over bytes heard (R176): what one byte does by the receiver's state, a
request heard up to its last byte, and the end of its 50 ms. -/

namespace Sys2Proof.Machine

/-! ### The receiver changed alone -/

/-- The state with another receiver. -/
def State.withReceiver (s : State) (r : Receiver) : State := { s with service := { s.service with receiver := r } }

theorem State.withReceiver_service (s : State) (r : Receiver) :
    (s.withReceiver r).service = { s.service with receiver := r } := rfl

/-- A request does not read the receiver, which hunts at its arrival (R176). -/
theorem State.takeRequest_withReceiver (s : State) (r : Receiver) (code : Byte) (p : List Byte) :
    (s.withReceiver r).takeRequest code p = s.takeRequest code p := by
  unfold State.takeRequest
  split <;> rfl

theorem State.withReceiver_self {s : State} {r : Receiver} (h : s.service.receiver = r) : s.withReceiver r = s := by
  subst h
  rfl

/-! ### One byte (R176) -/

section
variable {s : State} {got : List Byte} {start : Nat} (h : s.service.receiver = .assembling got start) (b : LinkByte)
include h

/-- A request whose 50 ms had ended is discarded, and the byte finds a hunting receiver. -/
theorem State.hearByte_late (ht : start + requestTime < s.clock) :
    s.hearByte b = ((s.withReceiver .hunting).bump .serviceErrors).withReceiver
      (if b.framing = false ∧ b.value = 0x7E#8 then .assembling [] s.clock else .hunting) := by
  have hd := (s.withReceiver .hunting).bump_delivers .serviceErrors
  have hexpire : s.setReceiver (s.service.receiver.expire fun due => decide (due < s.clock)) =
      (s.withReceiver .hunting).bump .serviceErrors := by
    rw [h, Receiver.expire_assembling, if_pos (decide_eq_true ht), State.setReceiver_discard]
    rfl
  have hhunts : ((s.withReceiver .hunting).bump .serviceErrors).service.receiver = .hunting := by
    rw [hd.service]
    rfl
  rw [State.hearByte, hexpire, hhunts]
  rfl

variable (ht : s.clock ≤ start + requestTime)
include ht

/-- Within its 50 ms the request takes the byte. -/
theorem State.hearByte_inTime :
    s.hearByte b = s.setReceiver ((Receiver.assembling got start).take s.clock b) := by
  have hexpire : s.setReceiver (s.service.receiver.expire fun due => decide (due < s.clock)) = s := by
    rw [h, Receiver.expire_assembling, if_neg (by simpa using ht), State.setReceiver_nothing]
    exact State.withReceiver_self h
  rw [State.hearByte, hexpire, h]

variable {b}

theorem State.hearByte_framing (hf : b.framing = true) :
    s.hearByte b = (s.withReceiver .hunting).bump .serviceErrors := by
  rw [State.hearByte_inTime h b ht, Receiver.take, if_pos hf]
  rfl

theorem State.hearByte_joins (hf : b.framing = false) (hw : requestWhole (got ++ [b.value]) = false) :
    s.hearByte b = s.withReceiver (.assembling (got ++ [b.value]) start) := by
  rw [State.hearByte_inTime h b ht, Receiver.take, if_neg (by simp [hf])]
  dsimp only
  rw [if_neg (by simp [hw])]
  rfl

theorem State.hearByte_completes (hf : b.framing = false) (hw : requestWhole (got ++ [b.value]) = true) :
    s.hearByte b = s.setReceiver (.hunting, checkRequest (got ++ [b.value])) := by
  rw [State.hearByte_inTime h b ht, Receiver.take, if_neg (by simp [hf])]
  dsimp only
  rw [if_pos hw]

end

/-! ### The end of the 50 ms (R176) -/

section
variable {s : State} {got : List Byte} {start : Nat} (h : s.service.receiver = .assembling got start)
include h

theorem State.timeOut_ended (ht : start + requestTime ≤ s.clock) :
    s.timeOut = (s.withReceiver .hunting).bump .serviceErrors := by
  rw [State.timeOut, h, Receiver.expire_assembling, if_pos (decide_eq_true ht)]
  rfl

theorem State.timeOut_runs (ht : s.clock < start + requestTime) : s.timeOut = s := by
  rw [State.timeOut, h, Receiver.expire_assembling, if_neg (by simpa using ht), State.setReceiver_nothing]
  exact State.withReceiver_self h

end

/-! ### A whole request at its CRC check (R176, R177) -/

theorem requestWhole_iff (bs : List Byte) : requestWhole bs = true ↔ 2 ≤ bs.length ∧ bs.length = byteAt bs 1 + 4 := by
  unfold requestWhole
  simp

/-- A whole request whose CRC differs is discarded and counted. -/
theorem State.setReceiver_badCrc (s : State) {bs : List Byte} (h : crcGood bs ≠ true) :
    s.setReceiver (.hunting, checkRequest bs) = (s.withReceiver .hunting).bump .serviceErrors := by
  rw [checkRequest, if_neg h]
  rfl

/-- A whole request with a good CRC arrives. -/
theorem State.setReceiver_goodCrc (s : State) {bs : List Byte} (h : crcGood bs = true) :
    s.setReceiver (.hunting, checkRequest bs) = s.takeRequest (bs.getD 0 0) ((bs.drop 2).take (byteAt bs 1)) := by
  rw [checkRequest, if_pos h]
  exact s.takeRequest_withReceiver .hunting _ _

/-! ### Events of the link in the running part -/

/-- A discard in an event leaves the channels' states. -/
theorem State.event_discards {s : State} {dt : Nat} {work : State → State} (hr : s.runPhase = .running)
    (h : work (s.advance dt) = ((s.advance dt).withReceiver .hunting).bump .serviceErrors) :
    s.event dt work = ((s.advance dt).withReceiver .hunting).bump .serviceErrors := by
  rw [State.event_same hr (by rw [h, State.bump_states]; rfl), h]

/-- An end of 50 ms that finds no request to discard lets its time pass. -/
theorem State.event_waits {s : State} {dt : Nat} (hr : s.runPhase = .running)
    (h : (s.advance dt).timeOut = s.advance dt) : s.event dt State.timeOut = s.advance dt :=
  (State.event_unrecorded hr (by rw [h]; rfl)).trans h

/-- A byte that changes the receiver alone. -/
theorem State.event_hears {s : State} {b : LinkByte} {r : Receiver} (hr : s.runPhase = .running)
    (h : (s.advance b.wait).hearByte b = (s.advance b.wait).withReceiver r) :
    s.event b.wait (fun s => s.hearByte b) = (s.advance b.wait).withReceiver r :=
  (State.event_unrecorded (work := fun s => s.hearByte b) hr (by rw [h]; rfl)).trans h

/-- A request that arrives in an event does what the row of its command does (R177). -/
theorem State.event_arrives {s t : State} {dt : Nat} {work : State → State} {c : Instr} {code : Byte} {p : List Byte}
    (hr : s.runPhase = .running) (hq : requestOf c = some (dt, code, p)) (ht : exec c s = .next t)
    (hw : work (s.advance dt) = (s.advance dt).takeRequest code p) : s.event dt work = t := by
  rw [exec_request c dt code p s hq, State.event_running hr] at ht
  rw [State.event_running hr, hw]
  exact Host.Outcome.next.inj ht

/-- A byte after the end of the 50 ms: the request is discarded and counted, and the byte finds a hunting receiver. -/
theorem State.event_late {s : State} {got : List Byte} {start : Nat} {b : LinkByte} (hr : s.runPhase = .running)
    (h : s.service.receiver = .assembling got start) (ht : start + requestTime < s.clock + b.wait) :
    ∃ t, s.event b.wait (fun s => s.hearByte b) = t ∧
      t.counters.serviceErrors = countedOnce s.counters.serviceErrors ∧
      t.service = { s.service with receiver :=
        if b.framing = false ∧ b.value = 0x7E#8 then .assembling [] (s.clock + b.wait) else .hunting } := by
  have hbyte := State.hearByte_late (s := s.advance b.wait) h b ht
  have hd := ((s.advance b.wait).withReceiver .hunting).bump_delivers .serviceErrors
  have he : s.event b.wait (fun s => s.hearByte b) = (s.advance b.wait).hearByte b :=
    State.event_same hr (by rw [hbyte]; exact State.bump_states _ _)
  refine ⟨_, he.trans hbyte, State.bump_get_self _ .serviceErrors, ?_⟩
  rw [State.withReceiver_service, hd.service]
  rfl

/-- Time that passes before an event passes in it. -/
theorem State.event_advance (s : State) (a dt : Nat) (work : State → State) :
    (s.advance a).event dt work = s.event (a + dt) work := by
  rw [State.event, State.event, State.advance_advance]

/-- The byte that completes a request brings the CRC check, which does not read the receiver. -/
theorem State.event_completes {s : State} {part : List Byte} {start : Nat} {b : LinkByte} (hr : s.runPhase = .running)
    (ht : s.clock + b.wait ≤ start + requestTime) (hf : b.framing = false)
    (hw : requestWhole (part ++ [b.value]) = true) :
    (s.withReceiver (.assembling part start)).event b.wait (fun u => u.hearByte b) =
      s.event b.wait fun u => u.setReceiver (.hunting, checkRequest (part ++ [b.value])) := by
  have hbyte := State.hearByte_completes (s := (s.withReceiver (.assembling part start)).advance b.wait) rfl ht hf hw
  rw [State.event_running (s := s.withReceiver (.assembling part start)) hr, State.event_running hr, hbyte]
  rfl

/-! ### A request heard from its start byte on -/

/-- The bytes after a start byte do not make a whole request yet (R176). -/
def Unfinished (bs : List Byte) : Prop := bs.length < 2 ∨ bs.length < byteAt bs 1 + 4

theorem Unfinished.not_whole {bs : List Byte} (h : Unfinished bs) : requestWhole bs = false := by
  rw [Bool.eq_false_iff, Ne, requestWhole_iff]
  unfold Unfinished at h
  omega

theorem Unfinished.of_append {bs cs : List Byte} (h : Unfinished (bs ++ cs)) : Unfinished bs := by
  unfold Unfinished at h ⊢
  by_cases hl : bs.length < 2
  · exact .inl hl
  · rw [byteAt_append_left (by omega), List.length_append] at h
    omega

/-- Before its last byte a whole request is unfinished. -/
theorem Unfinished.of_whole {bs : List Byte} {z : Byte} (h : requestWhole (bs ++ [z]) = true) : Unfinished bs := by
  obtain ⟨-, hl⟩ := (requestWhole_iff _).mp h
  rw [List.length_append, List.length_singleton] at hl
  unfold Unfinished
  by_cases hb : bs.length < 2
  · exact .inl hb
  · rw [byteAt_append_left (by omega)] at hl
    omega

/-- Bytes without framing errors join a request that they do not complete, within its 50 ms. -/
theorem State.hearBytes_joins {bytes : List LinkByte} (hf : ∀ b ∈ bytes, b.framing = false) {s : State}
    {got : List Byte} {start : Nat} (hr : s.runPhase = .running) (h : s.service.receiver = .assembling got start)
    (hu : Unfinished (got ++ bytes.map LinkByte.value)) (ht : s.clock + heardTime bytes ≤ start + requestTime) :
    s.hearBytes bytes =
      (s.advance (heardTime bytes)).withReceiver (.assembling (got ++ bytes.map LinkByte.value) start) := by
  induction bytes generalizing s got with
  | nil =>
    rw [List.map_nil, List.append_nil]
    exact (State.withReceiver_self h).symm
  | cons b bytes ih =>
    have hvalues : got ++ (b :: bytes).map LinkByte.value = got ++ [b.value] ++ bytes.map LinkByte.value :=
      List.append_cons _ _ _
    rw [hvalues] at hu ⊢
    rw [heardTime_cons] at ht ⊢
    have hbyte : (s.advance b.wait).hearByte b =
        (s.advance b.wait).withReceiver (.assembling (got ++ [b.value]) start) :=
      State.hearByte_joins (s := s.advance b.wait) h (by rw [State.advance_clock]; omega) (hf b (by simp))
        hu.of_append.not_whole
    have hrest := ih (fun x hx => hf x (by simp [hx]))
      (s := (s.advance b.wait).withReceiver (.assembling (got ++ [b.value]) start)) hr rfl hu
      ((Nat.add_assoc _ _ _).trans_le ht)
    rw [State.hearBytes_cons, State.event_hears hr hbyte, hrest, ← State.advance_advance]
    rfl

section
variable {s : State} {b : LinkByte} {bytes : List LinkByte} (hr : s.runPhase = .running)
  (h : s.service.receiver = .hunting) (hf : ∀ x ∈ b :: bytes, x.framing = false)
include hr h hf

/-- A start byte and bytes that do not complete a request, heard within its 50 ms. -/
theorem State.hearBytes_begins {part : List Byte} (hv : (b :: bytes).map LinkByte.value = [0x7E#8] ++ part)
    (hu : Unfinished part) (ht : heardTime bytes ≤ requestTime) : s.hearBytes (b :: bytes) =
      (s.advance (heardTime (b :: bytes))).withReceiver (.assembling part (s.clock + b.wait)) := by
  obtain ⟨hstart, rfl⟩ := List.cons.inj hv
  have hbyte : (s.advance b.wait).hearByte b =
      (s.advance b.wait).withReceiver (.assembling [] (s.clock + b.wait)) := by
    rw [State.hearByte_hunting (s.advance b.wait) b h, if_pos ⟨hf b (by simp), hstart⟩]
    rfl
  have hrest := State.hearBytes_joins (fun x hx => hf x (by simp [hx]))
    (s := (s.advance b.wait).withReceiver (.assembling [] (s.clock + b.wait))) hr rfl hu (Nat.add_le_add_left ht _)
  rw [State.hearBytes_cons, State.event_hears hr hbyte, hrest, heardTime_cons, ← State.advance_advance]
  rfl

/-- A whole request heard from its start byte on, within its 50 ms: its last byte brings the CRC check at the time of
that byte. -/
theorem State.hearBytes_whole {all : List Byte} (hv : (b :: bytes).map LinkByte.value = [0x7E#8] ++ all)
    (hw : requestWhole all = true) (ht : heardTime bytes ≤ requestTime) : s.hearBytes (b :: bytes) =
      s.event (heardTime (b :: bytes)) fun u => u.setReceiver (.hunting, checkRequest all) := by
  obtain ⟨hstart, hall⟩ := List.cons.inj hv
  change bytes.map LinkByte.value = all at hall
  subst hall
  rcases bytes.eq_nil_or_concat' with rfl | ⟨mid, z, rfl⟩
  · cases hw
  have htime (l : List LinkByte) : heardTime (l ++ [z]) = heardTime l + z.wait := by
    simp [heardTime, sumOf_eq_sum]
  rw [List.map_append] at hw hv ⊢
  rw [htime] at ht
  have hmid := State.hearBytes_begins (part := mid.map LinkByte.value) (bytes := mid) hr h
    (fun x hx => hf x (List.mem_append_left [z] hx)) (congrArg (· :: mid.map LinkByte.value) hstart)
    (Unfinished.of_whole hw) ((Nat.le_add_right _ _).trans ht)
  have hlast := State.event_completes (s := s.advance (heardTime (b :: mid))) (part := mid.map LinkByte.value)
    (start := s.clock + b.wait) hr
    (by rw [State.advance_clock, heardTime_cons]; omega) (hf z (by simp)) hw
  rw [State.event_advance, ← htime] at hlast
  rw [← List.cons_append, State.hearBytes_append, hmid]
  exact hlast

end

/-! ### The two commands that bring bytes (log entry 31) -/

theorem heardTime_eq (bytes : List LinkByte) : heardTime bytes = (bytes.map LinkByte.wait).sum := sumOf_eq_sum _

theorem exec_serviceFrameError_hears {s t : State} {dt : Nat} {bytes : List LinkByte} (h : s.hearBytes bytes = t) :
    exec (.serviceFrameError dt bytes) s = .next (t.advance (dt - (bytes.map LinkByte.wait).sum)) := by
  rw [← h, ← heardTime_eq]
  rfl

theorem exec_requestTimeout_hears {s t : State} {dt : Nat} {bytes : List LinkByte} (h : s.hearBytes bytes = t) :
    exec (.requestTimeout ⟨dt, bytes⟩) s = .next (t.event (dt - heardTime bytes) State.timeOut) := by
  rw [← h]
  rfl

/-- A request begun and not completed is discarded at the end of its 50 ms (R176). -/
theorem exec_requestTimeout_begun {s : State} {b : LinkByte} {bytes : List LinkByte} {part : List Byte} {dt : Nat}
    (hr : s.runPhase = .running) (h : s.service.receiver = .hunting) (hf : ∀ x ∈ b :: bytes, x.framing = false)
    (hv : (b :: bytes).map LinkByte.value = [0x7E#8] ++ part) (hu : Unfinished part)
    (ht : heardTime bytes ≤ requestTime) (hdt : b.wait + requestTime ≤ dt) :
    exec (.requestTimeout ⟨dt, b :: bytes⟩) s =
      .next (((s.advance dt).withReceiver .hunting).bump .serviceErrors) := by
  have hexec := exec_requestTimeout_hears (dt := dt) (State.hearBytes_begins hr h hf hv hu ht)
  have hrest : heardTime (b :: bytes) + (dt - heardTime (b :: bytes)) = dt := by
    rw [heardTime_cons]
    omega
  generalize heardTime (b :: bytes) = heard at hexec hrest
  have hclock (r : Receiver) : (((s.advance heard).withReceiver r).advance (dt - heard)).clock = s.clock + dt :=
    (Nat.add_assoc _ _ _).trans (congrArg (s.clock + ·) hrest)
  have hadvance (r : Receiver) : (((s.advance heard).withReceiver r).advance (dt - heard)).withReceiver .hunting =
      (s.advance dt).withReceiver .hunting := by
    show ((s.advance heard).advance (dt - heard)).withReceiver .hunting = _
    rw [State.advance_advance, hrest]
  have hends := State.event_discards (s := (s.advance heard).withReceiver (.assembling part (s.clock + b.wait))) hr
    (State.timeOut_ended rfl (by rw [hclock]; omega))
  rw [hadvance] at hends
  exact hexec.trans (congrArg _ hends)

/-! ### The check word of a whole request -/

/-- A check word is read back from its two bytes. -/
theorem be16_inj {a b : BitVec 16} (h : be16 a.toNat = be16 b.toNat) : a = b := by
  have hvalue (c : BitVec 16) : be16At (be16 c.toNat) 0 = c.toNat := by
    rw [be16_eq, be16At_cons_zero, be16_value c.isLt]
  exact BitVec.eq_of_toNat_eq ((hvalue a).symm.trans ((congrArg (be16At · 0) h).trans (hvalue b)))

section
variable {body : List Byte} (crc : BitVec 16)

theorem crcGood_append : crcGood (body ++ be16 crc.toNat) = true ↔ crc = crc16 body := by
  have hl : (be16 crc.toNat).length = 2 := by rw [be16_eq]; rfl
  have hn : (body ++ be16 crc.toNat).length - 2 = body.length := by rw [List.length_append, hl]; omega
  rw [crcGood_iff, hn, List.drop_left, List.take_left]
  exact ⟨be16_inj, fun h => h ▸ rfl⟩

variable (h2 : 2 ≤ body.length) (hl : body.length = byteAt body 1 + 2)
include h2 hl

theorem requestWhole_append : requestWhole (body ++ be16 crc.toNat) = true := by
  rw [requestWhole_iff, byteAt_append_left (by omega), List.length_append, be16_eq]
  simp only [List.length_cons, List.length_nil]
  omega

/-- The payload of a request is what stands between its length byte and its CRC (section 12.4). -/
theorem payload_append : ((body ++ be16 crc.toNat).drop 2).take (byteAt (body ++ be16 crc.toNat) 1) = body.drop 2 := by
  rw [byteAt_append_left (by omega), List.drop_append_of_le_length h2]
  exact List.take_left' (by rw [List.length_drop]; omega)

end

/-- Settles O59: one byte by the receiver's state (`State.hearByte_joins` and its neighbours), a request from its start
byte on (`State.hearBytes_whole`, `State.hearBytes_begins`), and the end of its 50 ms. -/
theorem receiverAssemblesAndDiscards : Obligations.ReceiverAssemblesAndDiscards := by
  intro dt s hr heard total
  refine ⟨fun b => ?_, ?_, ?_, fun h => ?_, fun got start h => ⟨fun ht => ?_, fun ht => ?_⟩⟩
  · intro time u starts outcome
    have houtcome {t : State} (h : s.event b.wait (fun s => s.hearByte b) = t) : outcome t := by
      rw [← h]
      rfl
    refine ⟨fun h => ?_, fun got start h => ?_⟩
    · have hbyte : u.hearByte b = u.withReceiver (if starts then .assembling [] time else .hunting) :=
        State.hearByte_hunting u b h
      refine ⟨fun hs => ?_, fun hs => ?_⟩
      · rw [if_pos hs] at hbyte
        exact houtcome (State.event_hears hr hbyte)
      · rw [if_neg hs] at hbyte
        exact houtcome (State.event_hears hr hbyte)
    · intro all whole good
      have hwhole : requestWhole all = true ↔ whole := requestWhole_iff all
      have hgood : crcGood all = true ↔ good := crcGood_iff all
      refine ⟨fun ht hf => ?_, fun ht hf => ⟨fun hw => ?_, fun hw hg => ?_, fun hw hg c t hq hc => ?_⟩, fun ht => ?_⟩
      · exact houtcome (State.event_discards hr (State.hearByte_framing (s := u) h ht hf))
      · have hnot : requestWhole all = false := Bool.eq_false_iff.mpr (mt hwhole.mp hw)
        exact houtcome (State.event_hears hr (State.hearByte_joins (s := u) h ht hf hnot))
      · have hbyte := (State.hearByte_completes (s := u) h ht hf (hwhole.mpr hw)).trans
          (u.setReceiver_badCrc (mt hgood.mp hg))
        exact houtcome (State.event_discards hr hbyte)
      · have hbyte := (State.hearByte_completes (s := u) h ht hf (hwhole.mpr hw)).trans
          (u.setReceiver_goodCrc (hgood.mpr hg))
        exact houtcome (State.event_arrives hr hq hc hbyte)
      · obtain ⟨t, he, hcount, hservice⟩ := State.event_late hr h ht
        exact ⟨t, houtcome he, hcount, hservice⟩
  · intro bytes body crc h hf hv h2 hl ht outcome
    cases bytes with
    | nil => cases hv
    | cons b bytes =>
      rw [List.append_assoc] at hv
      have hhears := State.hearBytes_whole hr h hf hv (requestWhole_append crc h2 hl) ((heardTime_eq bytes).trans_le ht)
      rw [heardTime_eq (b :: bytes)] at hhears
      refine ⟨fun hc => ?_, fun hc c t hq hexec => ?_⟩
      · have hbad := State.setReceiver_badCrc (s.advance (total (b :: bytes))) (mt (crcGood_append crc).mp hc)
        exact exec_serviceFrameError_hears (hhears.trans (State.event_discards hr hbad))
      · have hgood := State.setReceiver_goodCrc (s.advance (total (b :: bytes))) ((crcGood_append crc).mpr hc)
        rw [payload_append crc h2 hl, List.getD_append _ _ _ _ (by omega)] at hgood
        exact exec_serviceFrameError_hears (hhears.trans (State.event_arrives hr hq hexec hgood))
  · intro bytes part h hf hv hu ht hdt
    cases bytes with
    | nil => cases hv
    | cons b bytes =>
      exact exec_requestTimeout_begun hr h hf hv hu ((heardTime_eq bytes).trans_le ht) hdt
  · have hstands := State.event_waits hr (State.timeOut_hunting (s.advance dt) h)
    exact (exec_requestTimeout_hears rfl).trans (congrArg _ hstands)
  · have hends := State.event_discards hr (State.timeOut_ended (s := s.advance dt) h ht)
    exact (exec_requestTimeout_hears rfl).trans (congrArg _ hends)
  · have hstands := State.event_waits hr (State.timeOut_runs (s := s.advance dt) h ht)
    exact (exec_requestTimeout_hears rfl).trans (congrArg _ hstands)

end Sys2Proof.Machine
end

section
/-! SUPPORT. TRIGGER and the trigger MANUAL that it raises (R183): the tests of R148 in their order, what the opening of
an incident leaves, said once as `State.Opens`, and its close in the same event under the power-fail warning (R157, R158). -/

namespace Sys2Proof.Machine

/-! ### The tests of R148 -/

section
variable {s : State} {x : Trigger}

theorem State.raise_scanning (h : s.recorder.state = .scanning) : s.raise x = s.bump .ignoredInScanning := if_pos h

theorem State.raise_disabled (h : s.recorder.state ≠ .scanning) (he : (s.triggerLine x.cause).enable = false) :
    s.raise x = s := by
  rw [State.raise, if_neg h, if_pos he]

theorem State.raise_gated (h : s.recorder.state ≠ .scanning) (he : (s.triggerLine x.cause).enable = true)
    (hx : x.cause ≠ .slideEntry) (hi : (s.triggerLine x.cause).importance = .low)
    (hg : s.config.gate ≤ s.recorder.pendingQueue.length) : s.raise x = s.bump .gated := by
  rw [State.raise, if_neg h, if_neg (by simp [he]), if_neg (by simp [State.heldOff_other hx]), if_pos ⟨hi, hg⟩]

/-- A trigger that passes the tests of R148, not being a SLIDE_ENTRY. -/
structure State.Accepts (s : State) (x : Trigger) : Prop where
  scanned : s.recorder.state ≠ .scanning
  enabled : (s.triggerLine x.cause).enable = true
  ordinary : x.cause ≠ .slideEntry
  ungated : (s.triggerLine x.cause).importance = .high ∨ s.recorder.pendingQueue.length < s.config.gate

variable (h : s.Accepts x)
include h

theorem State.Accepts.not_gated :
    ¬((s.triggerLine x.cause).importance = .low ∧ s.config.gate ≤ s.recorder.pendingQueue.length) := by
  rintro ⟨hlow, hle⟩
  rcases h.ungated with hhigh | hlt
  · exact absurd (hlow.symm.trans hhigh) (by decide)
  · exact absurd hlt (Nat.not_lt.mpr hle)

/-- With an incident in capture an accepted trigger is appended to it (R154). -/
theorem State.Accepts.raise_captured {inc : Incident} (hc : s.recorder.capture = some inc) :
    s.raise x = s.appendCause x inc := by
  rw [State.raise, if_neg h.scanned, if_neg (by simp [h.enabled]), if_neg (by simp [State.heldOff_other h.ordinary]),
    if_neg h.not_gated, hc]

variable (hc : s.recorder.capture = none)
include hc

/-- With none in capture it goes by the numbers left and the warning (R150, R157). -/
theorem State.Accepts.raise_idle : s.raise x =
    if s.store.exhausted then s.bump .ignoredInScanning
    else if s.powerFail then (s.openIncident x).closeIncident true
    else s.openIncident x := by
  rw [State.raise, if_neg h.scanned, if_neg (by simp [h.enabled]), if_neg (by simp [State.heldOff_other h.ordinary]),
    if_neg h.not_gated, hc]

theorem State.Accepts.raise_exhausted (hn : s.store.exhausted = true) : s.raise x = s.bump .ignoredInScanning :=
  (h.raise_idle hc).trans (if_pos hn)

variable (hn : s.store.exhausted = false)
include hn

theorem State.Accepts.raise_opens (hp : s.powerFail = false) : s.raise x = s.openIncident x := by
  rw [h.raise_idle hc, if_neg (by simp [hn]), if_neg (by simp [hp])]

theorem State.Accepts.raise_opensAndCloses (hp : s.powerFail = true) :
    s.raise x = (s.openIncident x).closeIncident true := by
  rw [h.raise_idle hc, if_neg (by simp [hn]), if_pos hp]

end

/-- A trigger appended where the cause list has room, not being a SLIDE_ENTRY (R154). -/
theorem State.appendCause_room {s : State} {x : Trigger} {inc : Incident} (hl : inc.causes.length < 8)
    (hx : x.cause ≠ .slideEntry) : s.appendCause x inc = { s with recorder := { s.recorder with
      capture := some { inc with
        causes := inc.causes ++ [x.entry (s.nowMs - inc.openMs)]
        windowEnd := if (s.triggerLine x.cause).importance = .high then
            min (max inc.windowEnd (s.nowMs + (s.triggerLine x.cause).post)) (inc.openMs + 10000)
          else inc.windowEnd } } } := by
  unfold State.appendCause
  simp only [hl, decide_true, if_true, Bool.not_true, Bool.or_false, holdoffAfter, if_neg hx]
  rfl

/-! ### The opening of an incident (R150, R153) -/

/-- What the opening of an incident leaves of the Recorder and the Store Engine. -/
structure State.Opens (s : State) (x : Trigger) (t : State) : Prop where
  state : t.recorder.state = .capturing
  capture : t.recorder.capture = some (s.newIncident x)
  peaks : t.recorder.peaks = resetPeaks
  pendingQueue : t.recorder.pendingQueue = s.recorder.pendingQueue
  spare : t.recorder.spare = s.recorder.spare
  states : t.recorder.states = s.recorder.states
  store : t.store = s.store.takeNumber
  lost : t.counters.incidentsLost = s.counters.incidentsLost

theorem State.Opens.bump {s t : State} {x : Trigger} (h : s.Opens x t) {i : CounterId} (hi : i ≠ .incidentsLost) :
    s.Opens x (t.bump i) := by
  have ho := t.bump_onlyChannels i
  obtain ⟨hspare, -⟩ := t.bump_holdsAs i
  exact ⟨ho.state.trans h.state, ho.capture.trans h.capture, ho.peaks.trans h.peaks,
    ho.pendingQueue.trans h.pendingQueue, hspare.trans h.spare, (t.bump_states i).trans h.states,
    (t.bump_store i).trans h.store, (t.bump_get_other hi.symm).trans h.lost⟩

theorem State.Opens.withQueue {s t : State} {x : Trigger} (h : s.Opens x t) (q : List TxFrame) :
    s.Opens x { t with line := { t.line with queue := q } } := by
  obtain ⟨hstate, hcapture, hpeaks, hqueue, hspare, hstates, hstore, hlost⟩ := h
  exact ⟨hstate, hcapture, hpeaks, hqueue, hspare, hstates, hstore, hlost⟩

theorem State.Opens.handUrgent {s t : State} {x : Trigger} (h : s.Opens x t) (kind : FrameKind) (payload : List Byte) :
    s.Opens x (t.handUrgent kind payload) := by
  unfold State.handUrgent
  split
  · exact h.bump (by decide)
  · split
    · exact h.withQueue _
    · split
      · exact (h.withQueue _).bump (by decide)
      · exact h.bump (by decide)

/-- The state with an incident opened, before its mark. -/
def State.opened (s : State) (x : Trigger) : State :=
  { s with
    recorder := { s.recorder with
      capture := some (s.newIncident x), state := .capturing, peaks := resetPeaks
      holdoff := holdoffAfter x s.now s.recorder.holdoff }
    store := s.store.takeNumber }

theorem State.openIncident_eq (s : State) (x : Trigger) : s.openIncident x =
    if x.cause ≠ .peerMark ∧ s.line.state = .active ∧ s.config.sendMarks = true then
      (s.opened x).handUrgent .incidentMark (incidentMarkBytes s.store.nextNumber x.cause)
    else s.opened x := rfl

theorem State.openIncident_opens (s : State) (x : Trigger) : s.Opens x (s.openIncident x) := by
  have hopened : s.Opens x (s.opened x) := ⟨rfl, rfl, rfl, rfl, rfl, rfl, rfl, rfl⟩
  rw [State.openIncident_eq]
  split
  · exact hopened.handUrgent _ _
  · exact hopened

/-- With room in the urgent queue the mark joins it (R75, R153). -/
theorem State.openIncident_marks {s : State} {x : Trigger} (hx : x.cause ≠ .peerMark) (ha : s.line.state = .active)
    (hm : s.config.sendMarks = true) (hl : s.line.queue.length < 4) : (s.openIncident x).line =
      { s.line with queue := s.line.queue ++
        [newFrame .incidentMark (incidentMarkBytes s.store.nextNumber x.cause)] } := by
  rw [State.openIncident_eq, if_pos ⟨hx, ha, hm⟩, State.handUrgent_room (s := s.opened x) ha hl]
  rfl

theorem Store.takeNumber_next {st : Store} (h : st.nextNumber < 4294967295) :
    st.takeNumber = { st with nextNumber := st.nextNumber + 1 } := if_neg (Nat.ne_of_lt h)

theorem Store.takeNumber_last {st : Store} (h : st.nextNumber = 4294967295) :
    st.takeNumber = { st with exhausted := true } := if_pos h

/-! ### The close in the same event (R157, R158) -/

theorem Recorder.running_length_states (r : Recorder) :
    r.running.length = (r.states.filter fun p => p.2 == .running).length := by
  rw [Recorder.running_length, Recorder.states, List.filter_map, List.length_map]
  rfl

theorem Recorder.round_peaks (r : Recorder) (capped : Bool) : (r.round capped).peaks = r.peaks :=
  Recorder.round_keeps (P := fun x => x.peaks = r.peaks) capped (fun _ _ _ _ _ _ _ hx => hx) r rfl

/-- Under the warning a close leaves the peaks. -/
theorem State.closeIncident_peaks {s : State} (h : s.powerFail = true) (truncated : Bool) :
    (s.closeIncident truncated).recorder.peaks = s.recorder.peaks := by
  have hq (r : Recorder) (inc : Incident) (absent : Bool) (frozen : List FrozenList) :
      (s.queueClosed r inc absent frozen).recorder.peaks = r.peaks := by
    unfold State.queueClosed
    rw [State.startTest_warned (by exact h)]
  unfold State.closeIncident
  split
  · rfl
  · dsimp only
    split
    · exact (s.idled.bump_onlyChannels .incidentsLost).peaks
    · split
      · exact hq _ _ _ _
      · rw [hq, Recorder.round_peaks]
        rfl

theorem State.recordChannels_store (before after : State) : (before.recordChannels after).store = after.store := by
  obtain ⟨r, h, -⟩ := before.recordChannels_frame after
  rw [h]

/-- The entry that a close queues has its traces absent exactly where the spare pool has fewer blocks than there are RUNNING
channels (R158). -/
theorem State.Closes.entry {s t : State} {inc : Incident} {truncated : Bool} (h : s.Closes inc truncated t)
    (hl : s.recorder.pendingQueue.length < 4) : ∃ absent frozen,
      t.recorder.pendingQueue = s.recorder.pendingQueue ++ [s.closedEntry inc truncated absent frozen] ∧
        (absent = true ↔ s.recorder.spare.length < s.recorder.running.length) ∧ (absent = true → frozen = []) := by
  by_cases hs : s.recorder.spare.length < s.recorder.running.length
  · exact ⟨true, [], (h.summary hl hs).1, iff_of_true rfl hs, fun _ => rfl⟩
  · exact ⟨false, s.recorder.freeze.2, (h.frozen hl (Nat.not_lt.mp hs)).1, iff_of_false Bool.false_ne_true hs, nofun⟩

/-- What an incident leaves that is opened and closed in one event. -/
structure State.OpensAndCloses (s : State) (x : Trigger) (t : State) : Prop where
  state : t.recorder.state = .idle
  capture : t.recorder.capture = none
  peaks : t.recorder.peaks = resetPeaks
  frame : t.SameButMessages s
  store : t.store = s.store.takeNumber
  dropped : 4 ≤ s.recorder.pendingQueue.length → t.recorder.pendingQueue = s.recorder.pendingQueue ∧
    t.counters.incidentsLost = countedOnce s.counters.incidentsLost
  queued : s.recorder.pendingQueue.length < 4 → ∃ absent frozen,
    t.recorder.pendingQueue = s.recorder.pendingQueue ++ [s.closedEntry (s.newIncident x) true absent frozen] ∧
      (absent = true ↔ s.recorder.spare.length < s.recorder.runningCount) ∧ (absent = true → frozen = [])

/-- Under the warning the opened incident closes in its event (R157), with the event's channel-state records behind it. -/
theorem State.openIncident_closes {s : State} (hw : s.powerFail = true) (hs : s.recorder.state ≠ .scanning) (x : Trigger)
    (before : State) : s.OpensAndCloses x (before.recordChannels ((s.openIncident x).closeIncident true)) := by
  have ho := s.openIncident_opens x
  have hd := s.openIncident_delivers x hs
  generalize s.openIncident x = o at ho hd
  have hwarned : o.powerFail = true := hd.powerFail.trans hw
  have hnow : o.now = s.now := congrArg reading hd.clock
  have hclosed := (State.closeIncident_closes ho.capture (.inl hwarned) true).recorded before
  have hframe := (hd.trans (o.closeIncident_delivers true)).trans (before.recordChannels_delivers _)
  refine ⟨hclosed.state, hclosed.capture, ?_, hframe.sameButMessages, ?_, fun hl => ?_, fun hl => ?_⟩
  · exact (before.recordChannels_onlyChannels _).peaks.trans ((State.closeIncident_peaks hwarned true).trans ho.peaks)
  · exact (before.recordChannels_store _).trans ((State.closeIncident_warned hwarned true).trans ho.store)
  · obtain ⟨hqueue, -, hlost⟩ := hclosed.dropped (ho.pendingQueue ▸ hl)
    rw [ho.lost] at hlost
    exact ⟨hqueue.trans ho.pendingQueue, hlost⟩
  · obtain ⟨absent, frozen, hqueue, habsent, hfrozen⟩ := hclosed.entry (ho.pendingQueue ▸ hl)
    rw [ho.pendingQueue, State.closedEntry, hnow] at hqueue
    rw [ho.spare, Recorder.running_length_states, ho.states, ← Recorder.running_length_states,
      Recorder.running_length] at habsent
    exact ⟨absent, frozen, hqueue, habsent, hfrozen⟩

/-! ### The request (R183) -/

/-- The trigger of TRIGGER. -/
def manualTrigger : Trigger := { cause := .manual, detail := [], origin := none }

/-- The state in which TRIGGER has been answered OK. -/
def State.triggered (s : State) (dt : Nat) : State := (s.arrival dt).answers 8 .ok []

section
variable {s : State} {dt : Nat} (hr : s.runPhase = .running) (hp : s.service.inProgress = none)
include hr hp

theorem exec_trigger_running : exec (.trigger dt []) s =
    .next ((s.advance dt).recordChannels ((s.triggered dt).raise manualTrigger)) := by
  have htake : (s.advance dt).takeTrigger [] = (s.triggered dt).raise manualTrigger :=
    State.request_served (s := s.advance dt) hp .trigger () fun _ s => s.serveTrigger
  rw [← htake]
  exact congrArg _ (State.event_running (work := fun s => s.takeTrigger []) hr)

/-- The same where the trigger leaves the channels' states. -/
theorem exec_trigger_same {t : State} (ht : (s.triggered dt).raise manualTrigger = t)
    (hs : t.recorder.states = s.recorder.states) : exec (.trigger dt []) s = .next t := by
  rw [exec_trigger_running hr hp, ht]
  exact congrArg _ (State.recordChannels_same _ _ hs)

end

/-- Settles O38: the tests of R148 (`State.raise_scanning` and its neighbours), the opening (`State.openIncident_opens`),
its close under the warning (`State.openIncident_closes`) and the append (`State.appendCause_room`). -/
theorem manualTriggerIsTestedAndTaken : Obligations.ManualTriggerIsTestedAndTaken := by
  intro dt s hr hp u line nowMs taken
  have haccepts (h : taken) : u.Accepts manualTrigger := by
    obtain ⟨hs, he, hg⟩ := h
    exact ⟨hs, he, by decide, hg⟩
  refine ⟨fun h => ?_, fun h he => ?_, fun h he hi hg => ?_, fun h hc hn => ?_, fun h hc hn hw => ?_,
    fun h hc hn hw => ?_, fun inc h hc hl => ?_⟩
  · exact exec_trigger_same hr hp (State.raise_scanning (s := u) h) (u.bump_states _)
  · exact exec_trigger_same hr hp (State.raise_disabled (s := u) h he) rfl
  · exact exec_trigger_same hr hp (State.raise_gated (s := u) h he (by decide) hi hg) (u.bump_states _)
  · exact exec_trigger_same hr hp ((haccepts h).raise_exhausted hc hn) (u.bump_states _)
  · have ho := u.openIncident_opens manualTrigger
    have hd := u.openIncident_delivers manualTrigger (haccepts h).scanned
    refine ⟨u.openIncident manualTrigger, _, exec_trigger_same hr hp ((haccepts h).raise_opens hc hn hw) ho.states,
      ho.state, ho.capture, rfl, rfl, rfl, rfl, rfl, rfl, rfl, ho.peaks, ho.pendingQueue, hd.sameButMessages,
      fun hlt => ?_, fun heq => ?_, fun ha hm hl => ?_, fun hm => ?_⟩
    · exact ho.store.trans (Store.takeNumber_next hlt)
    · exact ho.store.trans (Store.takeNumber_last heq)
    · exact State.openIncident_marks (s := u) (by decide) ha hm hl
    · exact (State.openIncident_sameLine (s := u) hm manualTrigger).line
  · have hexec := exec_trigger_running (dt := dt) hr hp
    have hraise : (s.triggered dt).raise manualTrigger = (u.openIncident manualTrigger).closeIncident true :=
      (haccepts h).raise_opensAndCloses hc hn hw
    rw [hraise] at hexec
    obtain ⟨hstate, hcapture, hpeaks, hframe, hstore, hdropped, hqueued⟩ :=
      State.openIncident_closes (s := u) hw (haccepts h).scanned manualTrigger (s.advance dt)
    refine ⟨_, hexec, hstate, hcapture, hpeaks, hframe, fun hlt => ?_, fun heq => ?_, hdropped, fun hl => ?_⟩
    · exact hstore.trans (Store.takeNumber_next hlt)
    · exact hstore.trans (Store.takeNumber_last heq)
    · obtain ⟨absent, frozen, hqueue, habsent, hfrozen⟩ := hqueued hl
      exact ⟨_, hqueue, rfl, rfl, habsent, hfrozen, rfl, rfl, rfl, rfl⟩
  · have happend := ((haccepts h).raise_captured hc).trans (State.appendCause_room (s := u) hl (by decide))
    exact exec_trigger_same hr hp happend rfl

end Sys2Proof.Machine
end
